-- ==== Sys2Proof/Word.lean ====
section
/-! DEFINITION. The word types and keyed lists every other file uses.
Bits are numbered from 0, the least significant; a word is 32 bits and a dword 64 (R6). -/
namespace Sys2Proof

/-- A byte (R6). -/
abbrev Byte := BitVec 8
/-- A dword: the width of a scalar register, a control register and an address (R6, R19). -/
abbrev W64 := BitVec 64
/-- A word: the width of an instruction and of a mask register (R6, R32). -/
abbrev W32 := BitVec 32
/-- The width of a vector register (R19). -/
abbrev W256 := BitVec 256

/-- A sparse collection by number: pairs in ascending key order; a key not listed holds the collection's default. -/
abbrev FMap (α : Type) := List (Nat × α)

/-- The value at key `k`, or `d` where none is listed. -/
def FMap.get {α : Type} (d : α) : FMap α → Nat → α
  | [], _ => d
  | (k', v) :: m, k => if k' = k then v else FMap.get d m k

/-- The value at key `k`, if one is listed. -/
def FMap.find {α : Type} : FMap α → Nat → Option α
  | [], _ => none
  | (k', v) :: m, k => if k' = k then some v else FMap.find m k

/-- Writes `v` at key `k`, keeping ascending key order. -/
def FMap.ins {α : Type} : FMap α → Nat → α → FMap α
  | [], k, v => [(k, v)]
  | (k', v') :: m, k, v =>
    if k' = k then (k, v) :: m
    else if k < k' then (k, v) :: (k', v') :: m
    else (k', v') :: FMap.ins m k v

/-- Takes key `k` out of the collection. -/
def FMap.del {α : Type} : FMap α → Nat → FMap α
  | [], _ => []
  | (k', v) :: m, k => if k' = k then FMap.del m k else (k', v) :: FMap.del m k

end Sys2Proof
end

