-- ==== Sys2Proof/Syntax.lean ====
section
/-! DEFINITION. The instruction set: one constructor for each row of the opcode table.
The first 204 are instruction words, each with the fields of its format (R32, R42) in the table's order, `w` being the
wait count. The others are the hardware's steps and events: they have no encoding and no fields, and what unit a step
happens to stands in the machine's `args` list, in the order that each constructor's text names. -/
namespace Sys2Proof

/-- An instruction word of a task or handler, or a step of the hardware. -/
inductive Instr where
  /-- ADD (R65). Writes the 64-bit wrapping sum of two scalar registers. -/
  | add (w : BitVec 3) (d : BitVec 5) (a : BitVec 5) (b : BitVec 5)
  /-- SUB (R65). Writes the 64-bit wrapping difference of two scalar registers. -/
  | sub (w : BitVec 3) (d : BitVec 5) (a : BitVec 5) (b : BitVec 5)
  /-- AND (R65). Writes the bitwise AND of two scalar registers. -/
  | and (w : BitVec 3) (d : BitVec 5) (a : BitVec 5) (b : BitVec 5)
  /-- OR (R65). Writes the bitwise OR of two scalar registers. -/
  | or (w : BitVec 3) (d : BitVec 5) (a : BitVec 5) (b : BitVec 5)
  /-- XOR (R65). Writes the bitwise XOR of two scalar registers. -/
  | xor (w : BitVec 3) (d : BitVec 5) (a : BitVec 5) (b : BitVec 5)
  /-- SLL (R65). Shifts a register left by the low six bits of another. -/
  | sll (w : BitVec 3) (d : BitVec 5) (a : BitVec 5) (b : BitVec 5)
  /-- SRL (R65). Shifts a register right with zeros in by the low six bits of another. -/
  | srl (w : BitVec 3) (d : BitVec 5) (a : BitVec 5) (b : BitVec 5)
  /-- SRA (R65). Shifts a register right with sign copies in by the low six bits of another. -/
  | sra (w : BitVec 3) (d : BitVec 5) (a : BitVec 5) (b : BitVec 5)
  /-- SLT (R65). Writes 1 when the first register is less than the second, compared signed. -/
  | slt (w : BitVec 3) (d : BitVec 5) (a : BitVec 5) (b : BitVec 5)
  /-- SLTO (R65). Writes 1 when the first register is less than the second, compared unsigned. -/
  | slto (w : BitVec 3) (d : BitVec 5) (a : BitVec 5) (b : BitVec 5)
  /-- MIN (R65). Writes the signed lesser of two registers. -/
  | min (w : BitVec 3) (d : BitVec 5) (a : BitVec 5) (b : BitVec 5)
  /-- MAX (R65). Writes the signed greater of two registers. -/
  | max (w : BitVec 3) (d : BitVec 5) (a : BitVec 5) (b : BitVec 5)
  /-- MINW (R65). Writes the unsigned lesser of two registers. -/
  | minw (w : BitVec 3) (d : BitVec 5) (a : BitVec 5) (b : BitVec 5)
  /-- MAXW (R65). Writes the unsigned greater of two registers. -/
  | maxw (w : BitVec 3) (d : BitVec 5) (a : BitVec 5) (b : BitVec 5)
  /-- MUL (R65). Writes the low 64 bits of the product of two registers. -/
  | mul (w : BitVec 3) (d : BitVec 5) (a : BitVec 5) (b : BitVec 5)
  /-- MULH (R65). Writes the high 64 bits of the signed product. -/
  | mulh (w : BitVec 3) (d : BitVec 5) (a : BitVec 5) (b : BitVec 5)
  /-- MULHW (R65). Writes the high 64 bits of the unsigned product. -/
  | mulhw (w : BitVec 3) (d : BitVec 5) (a : BitVec 5) (b : BitVec 5)
  /-- DIV (R66). Writes the signed quotient, saturating on zero divisor and overflow. -/
  | div (w : BitVec 3) (d : BitVec 5) (a : BitVec 5) (b : BitVec 5)
  /-- DIVW (R66). Writes the unsigned quotient, all ones on a zero divisor. -/
  | divw (w : BitVec 3) (d : BitVec 5) (a : BitVec 5) (b : BitVec 5)
  /-- REM (R66). Writes the signed remainder. -/
  | rem (w : BitVec 3) (d : BitVec 5) (a : BitVec 5) (b : BitVec 5)
  /-- REMW (R66). Writes the unsigned remainder. -/
  | remw (w : BitVec 3) (d : BitVec 5) (a : BitVec 5) (b : BitVec 5)
  /-- CLZ (R65). Writes the count of leading zero bits. -/
  | clz (w : BitVec 3) (d : BitVec 5) (a : BitVec 5)
  /-- CTZ (R65). Writes the count of trailing zero bits. -/
  | ctz (w : BitVec 3) (d : BitVec 5) (a : BitVec 5)
  /-- POPC (R65). Writes the count of one bits. -/
  | popc (w : BitVec 3) (d : BitVec 5) (a : BitVec 5)
  /-- SEXT (R65). Sign-extends a byte, half or word selected by the width code. -/
  | sext (w : BitVec 3) (d : BitVec 5) (a : BitVec 5) (c : BitVec 5)
  /-- ZEXT (R65). Zero-extends a byte, half or word selected by the width code. -/
  | zext (w : BitVec 3) (d : BitVec 5) (a : BitVec 5) (c : BitVec 5)
  /-- ADDSH (R65). Adds a register to another shifted left by 0 to 3. -/
  | addsh (w : BitVec 3) (d : BitVec 5) (a : BitVec 5) (b : BitVec 5) (s : BitVec 2)
  /-- CSEL (R65). Selects one of two registers by whether a third is non-zero. -/
  | csel (w : BitVec 3) (d : BitVec 5) (a : BitVec 5) (b : BitVec 5) (c : BitVec 5)
  /-- CHCFG (R74). Sets count and step of one level of a counter chain and zeroes its iteration. -/
  | chcfg (w : BitVec 3) (c : BitVec 5) (a : BitVec 5) (b : BitVec 5) (l : BitVec 2)
  /-- CHIDX (R75). Writes iteration times step of one chain level. -/
  | chidx (w : BitVec 3) (d : BitVec 5) (c : BitVec 5) (l : BitVec 2)
  /-- ADDI (R67). Adds a sign-extended 13-bit immediate to a register. -/
  | addi (w : BitVec 3) (d : BitVec 5) (a : BitVec 5) (i : BitVec 13)
  /-- ANDI (R67). ANDs a register with a sign-extended 11-bit immediate. -/
  | andi (w : BitVec 3) (d : BitVec 5) (a : BitVec 5) (i : BitVec 11)
  /-- ORI (R67). ORs a register with a sign-extended 11-bit immediate. -/
  | ori (w : BitVec 3) (d : BitVec 5) (a : BitVec 5) (i : BitVec 11)
  /-- XORI (R67). XORs a register with a sign-extended 11-bit immediate. -/
  | xori (w : BitVec 3) (d : BitVec 5) (a : BitVec 5) (i : BitVec 11)
  /-- SLTI (R67). Writes 1 when a register is signed-less than an immediate. -/
  | slti (w : BitVec 3) (d : BitVec 5) (a : BitVec 5) (i : BitVec 11)
  /-- SLLI (R67). Shifts a register left by an immediate amount. -/
  | slli (w : BitVec 3) (d : BitVec 5) (a : BitVec 5) (s : BitVec 6)
  /-- SRLI (R67). Shifts a register right logically by an immediate amount. -/
  | srli (w : BitVec 3) (d : BitVec 5) (a : BitVec 5) (s : BitVec 6)
  /-- SRAI (R67). Shifts a register right arithmetically by an immediate amount. -/
  | srai (w : BitVec 3) (d : BitVec 5) (a : BitVec 5) (s : BitVec 6)
  /-- BFX (R67). Extracts a zero-extended bit field. -/
  | bfx (w : BitVec 3) (d : BitVec 5) (a : BitVec 5) (l : BitVec 6) (p : BitVec 6)
  /-- BFI (R67). Inserts low bits of a register into a field of the destination. -/
  | bfi (w : BitVec 3) (d : BitVec 5) (a : BitVec 5) (l : BitVec 6) (p : BitVec 6)
  /-- LIH (R68). Shifts the register left 18 and ORs in an 18-bit immediate. -/
  | lih (w : BitVec 3) (d : BitVec 5) (i : BitVec 18)
  /-- JAL (R71). Writes the link and jumps by an 18-bit word offset. -/
  | jal (w : BitVec 3) (d : BitVec 5) (o : BitVec 18)
  /-- JALR (R71). Jumps to a register plus offset, trapping ALIGN on a misaligned target, and writes the link. -/
  | jalr (w : BitVec 3) (d : BitVec 5) (a : BitVec 5) (i : BitVec 13)
  /-- BEQ (R70). Branches when two registers are equal. -/
  | beq (w : BitVec 3) (a : BitVec 5) (b : BitVec 5) (o : BitVec 13)
  /-- BNE (R70). Branches when two registers differ. -/
  | bne (w : BitVec 3) (a : BitVec 5) (b : BitVec 5) (o : BitVec 13)
  /-- BLT (R70). Branches when the first register is signed-less than the second. -/
  | blt (w : BitVec 3) (a : BitVec 5) (b : BitVec 5) (o : BitVec 13)
  /-- BGE (R70). Branches when the first register is signed-greater or equal. -/
  | bge (w : BitVec 3) (a : BitVec 5) (b : BitVec 5) (o : BitVec 13)
  /-- BLO (R70). Branches when the first register is unsigned-lower. -/
  | blo (w : BitVec 3) (a : BitVec 5) (b : BitVec 5) (o : BitVec 13)
  /-- BHS (R70). Branches when the first register is unsigned-higher or same. -/
  | bhs (w : BitVec 3) (a : BitVec 5) (b : BitVec 5) (o : BitVec 13)
  /-- CHLOOP (R76). Advances a counter chain and branches while the loop nest is unfinished. -/
  | chloop (w : BitVec 3) (c : BitVec 5) (o : BitVec 18)
  /-- LD (R93). Loads a sign-extended byte, half, word or dword from local memory. -/
  | ld (w : BitVec 3) (d : BitVec 5) (a : BitVec 5) (s : BitVec 2) (o : BitVec 11)
  /-- LDZ (R93). Loads a zero-extended byte, half or word from local memory. -/
  | ldz (w : BitVec 3) (d : BitVec 5) (a : BitVec 5) (s : BitVec 2) (o : BitVec 11)
  /-- ST (R93). Stores a byte, half, word or dword to local memory. -/
  | st (w : BitVec 3) (b : BitVec 5) (a : BitVec 5) (s : BitVec 2) (o : BitVec 11)
  /-- LDG_W (R97). Sends a translated word load to its home in the given chain. -/
  | ldgW (w : BitVec 3) (d : BitVec 5) (a : BitVec 5) (c : BitVec 2) (o : BitVec 11)
  /-- LDG_D (R97). Sends a translated dword load to its home in the given chain. -/
  | ldgD (w : BitVec 3) (d : BitVec 5) (a : BitVec 5) (c : BitVec 2) (o : BitVec 11)
  /-- STG_W (R97). Sends a translated word store to its home in the given chain. -/
  | stgW (w : BitVec 3) (b : BitVec 5) (a : BitVec 5) (c : BitVec 2) (o : BitVec 11)
  /-- STG_D (R97). Sends a translated dword store to its home in the given chain. -/
  | stgD (w : BitVec 3) (b : BitVec 5) (a : BitVec 5) (c : BitVec 2) (o : BitVec 11)
  /-- LDBIT (R95). Loads a 1-64 bit field at any local bit address, zero-extended. -/
  | ldbit (w : BitVec 3) (d : BitVec 5) (a : BitVec 5) (n : BitVec 6)
  /-- STBIT (R95). Stores a 1-64 bit field at any local bit address. -/
  | stbit (w : BitVec 3) (a : BitVec 5) (b : BitVec 5) (n : BitVec 6)
  /-- AMO_ADD (R111). Sends an atomic add to the home of the address. -/
  | amoAdd (w : BitVec 3) (d : BitVec 5) (a : BitVec 5) (b : BitVec 5) (c : BitVec 2) (s : BitVec 1)
  /-- AMO_AND (R111). Sends an atomic AND to the home of the address. -/
  | amoAnd (w : BitVec 3) (d : BitVec 5) (a : BitVec 5) (b : BitVec 5) (c : BitVec 2) (s : BitVec 1)
  /-- AMO_OR (R111). Sends an atomic OR to the home of the address. -/
  | amoOr (w : BitVec 3) (d : BitVec 5) (a : BitVec 5) (b : BitVec 5) (c : BitVec 2) (s : BitVec 1)
  /-- AMO_XOR (R111). Sends an atomic XOR to the home of the address. -/
  | amoXor (w : BitVec 3) (d : BitVec 5) (a : BitVec 5) (b : BitVec 5) (c : BitVec 2) (s : BitVec 1)
  /-- AMO_MIN (R111). Sends an atomic signed minimum to the home. -/
  | amoMin (w : BitVec 3) (d : BitVec 5) (a : BitVec 5) (b : BitVec 5) (c : BitVec 2) (s : BitVec 1)
  /-- AMO_MAX (R111). Sends an atomic signed maximum to the home. -/
  | amoMax (w : BitVec 3) (d : BitVec 5) (a : BitVec 5) (b : BitVec 5) (c : BitVec 2) (s : BitVec 1)
  /-- AMO_MINW (R111). Sends an atomic unsigned minimum to the home. -/
  | amoMinw (w : BitVec 3) (d : BitVec 5) (a : BitVec 5) (b : BitVec 5) (c : BitVec 2) (s : BitVec 1)
  /-- AMO_MAXW (R111). Sends an atomic unsigned maximum to the home. -/
  | amoMaxw (w : BitVec 3) (d : BitVec 5) (a : BitVec 5) (b : BitVec 5) (c : BitVec 2) (s : BitVec 1)
  /-- AMO_SWAP (R111). Sends an atomic swap to the home. -/
  | amoSwap (w : BitVec 3) (d : BitVec 5) (a : BitVec 5) (b : BitVec 5) (c : BitVec 2) (s : BitVec 1)
  /-- AMO_CAS (R111). Sends an atomic compare-and-swap to the home. -/
  | amoCas (w : BitVec 3) (d : BitVec 5) (a : BitVec 5) (b : BitVec 5) (c : BitVec 2) (s : BitVec 1)
  /-- AMSEND (R115). Sends a 32-byte active message to a task slot or handler slot of a target core. -/
  | amsend (w : BitVec 3) (a : BitVec 5) (b : BitVec 5) (m : BitVec 4) (n : BitVec 1) (c : BitVec 2)
  /-- NPUT (R171). Sends a value into x24-x31 of a slot on the core above or below, stalling while that register is present. -/
  | nput (w : BitVec 3) (a : BitVec 5) (d : BitVec 1) (s : BitVec 2) (t : BitVec 3)
  /-- NCLR (R170). Clears the presence bit of one of x24-x31. -/
  | nclr (w : BitVec 3) (t : BitVec 3)
  /-- CCINC (R162). Adds a value to a completion counter. -/
  | ccinc (w : BitVec 3) (a : BitVec 5) (n : BitVec 4)
  /-- CCSET (R162). Sets a completion counter. -/
  | ccset (w : BitVec 3) (a : BitVec 5) (n : BitVec 4)
  /-- WAITLT (R162). Waits until a completion counter reaches a threshold, then delivers recorded faults. -/
  | waitlt (w : BitVec 3) (a : BitVec 5) (n : BitVec 4)
  /-- CSRR (R78). Reads a control register. -/
  | csrr (w : BitVec 3) (d : BitVec 5) (r : BitVec 11)
  /-- CSRW (R79). Writes a control register, checked for privilege, returning the old value. -/
  | csrw (w : BitVec 3) (d : BitVec 5) (a : BitVec 5) (r : BitVec 11)
  /-- CSRS (R79). Sets bits of a control register, returning the old value. -/
  | csrs (w : BitVec 3) (d : BitVec 5) (a : BitVec 5) (r : BitVec 11)
  /-- CSRC (R79). Clears bits of a control register, returning the old value. -/
  | csrc (w : BitVec 3) (d : BitVec 5) (a : BitVec 5) (r : BitVec 11)
  /-- TRET (R83). Returns from a trap to TRAPPC and restores the privilege level. -/
  | tret (w : BitVec 3)
  /-- DONE (R26). Joins the task's engines, checks corridor holdings, waits for its accesses, reports and frees the slot. -/
  | done (w : BitVec 3)
  /-- YIELD (R81). Gives up issue until other ready slots have issued or 8 cycles pass. -/
  | yield (w : BitVec 3)
  /-- ISYNC (R110). Empties the slot's fetch buffer. -/
  | isync (w : BitVec 3)
  /-- FENCE_TASK (R106). Waits for the task's earlier own local accesses. -/
  | fenceTask (w : BitVec 3)
  /-- FENCE_CORE (R106). Waits for earlier accesses to homes of the own core. -/
  | fenceCore (w : BitVec 3)
  /-- FENCE_COL (R106). Waits for earlier accesses to homes of the column. -/
  | fenceCol (w : BitVec 3)
  /-- FENCE_DIE (R106). Waits for earlier accesses to homes of the die. -/
  | fenceDie (w : BitVec 3)
  /-- FENCE_PKG (R106). Waits for earlier accesses to homes of the package. -/
  | fencePkg (w : BitVec 3)
  /-- FENCE_CARD (R106). Waits for earlier accesses to every home on the card. -/
  | fenceCard (w : BitVec 3)
  /-- SPL (R173). Spills a register group into spill space under a tag. -/
  | spl (w : BitVec 3) (g : BitVec 5) (f : BitVec 5) (e : BitVec 1) (c : BitVec 4)
  /-- FIL (R173). Restores a spilled register group and frees its tag. -/
  | fil (w : BitVec 3) (g : BitVec 5) (f : BitVec 5) (e : BitVec 1) (c : BitVec 4)
  /-- SVC (R80). Completes and traps SVC with the code. -/
  | svc (w : BitVec 3) (i : BitVec 18)
  /-- BRK (R80). Traps BRK onto itself with the code. -/
  | brk (w : BitVec 3) (i : BitVec 18)
  /-- VADD (R184). Adds active lanes of two vectors in the major's type. -/
  | vadd (w : BitVec 3) (t : BitVec 4) (d : BitVec 5) (a : BitVec 5) (b : BitVec 5) (k : BitVec 3)
  /-- VSUB (R184). Subtracts active lanes. -/
  | vsub (w : BitVec 3) (t : BitVec 4) (d : BitVec 5) (a : BitVec 5) (b : BitVec 5) (k : BitVec 3)
  /-- VMUL (R184). Multiplies active lanes. -/
  | vmul (w : BitVec 3) (t : BitVec 4) (d : BitVec 5) (a : BitVec 5) (b : BitVec 5) (k : BitVec 3)
  /-- VMIN (R184). Takes the lane-wise minimum. -/
  | vmin (w : BitVec 3) (t : BitVec 4) (d : BitVec 5) (a : BitVec 5) (b : BitVec 5) (k : BitVec 3)
  /-- VMAX (R184). Takes the lane-wise maximum. -/
  | vmax (w : BitVec 3) (t : BitVec 4) (d : BitVec 5) (a : BitVec 5) (b : BitVec 5) (k : BitVec 3)
  /-- VABS (R187). Takes the lane-wise absolute value. -/
  | vabs (w : BitVec 3) (t : BitVec 4) (d : BitVec 5) (a : BitVec 5) (k : BitVec 3)
  /-- VNEG (R187). Negates active lanes. -/
  | vneg (w : BitVec 3) (t : BitVec 4) (d : BitVec 5) (a : BitVec 5) (k : BitVec 3)
  /-- VADDS (R184). Adds integer lanes with saturation. -/
  | vadds (w : BitVec 3) (t : BitVec 4) (d : BitVec 5) (a : BitVec 5) (b : BitVec 5) (k : BitVec 3)
  /-- VSUBS (R184). Subtracts integer lanes with saturation. -/
  | vsubs (w : BitVec 3) (t : BitVec 4) (d : BitVec 5) (a : BitVec 5) (b : BitVec 5) (k : BitVec 3)
  /-- VMULH (R184). Writes the high half of integer lane products. -/
  | vmulh (w : BitVec 3) (t : BitVec 4) (d : BitVec 5) (a : BitVec 5) (b : BitVec 5) (k : BitVec 3)
  /-- VAND (R184). Lane-wise bitwise AND. -/
  | vand (w : BitVec 3) (t : BitVec 4) (d : BitVec 5) (a : BitVec 5) (b : BitVec 5) (k : BitVec 3)
  /-- VOR (R184). Lane-wise bitwise OR. -/
  | vor (w : BitVec 3) (t : BitVec 4) (d : BitVec 5) (a : BitVec 5) (b : BitVec 5) (k : BitVec 3)
  /-- VXOR (R184). Lane-wise bitwise XOR. -/
  | vxor (w : BitVec 3) (t : BitVec 4) (d : BitVec 5) (a : BitVec 5) (b : BitVec 5) (k : BitVec 3)
  /-- VSLL (R184). Lane-wise shift left. -/
  | vsll (w : BitVec 3) (t : BitVec 4) (d : BitVec 5) (a : BitVec 5) (b : BitVec 5) (k : BitVec 3)
  /-- VSRL (R184). Lane-wise logical shift right. -/
  | vsrl (w : BitVec 3) (t : BitVec 4) (d : BitVec 5) (a : BitVec 5) (b : BitVec 5) (k : BitVec 3)
  /-- VSRA (R184). Lane-wise arithmetic shift right. -/
  | vsra (w : BitVec 3) (t : BitVec 4) (d : BitVec 5) (a : BitVec 5) (b : BitVec 5) (k : BitVec 3)
  /-- VCEQ (R188). Writes a mask of lanes that compare equal. -/
  | vceq (w : BitVec 3) (t : BitVec 4) (d : BitVec 5) (a : BitVec 5) (b : BitVec 5) (k : BitVec 3)
  /-- VCNE (R188). Writes a mask of lanes that compare not equal. -/
  | vcne (w : BitVec 3) (t : BitVec 4) (d : BitVec 5) (a : BitVec 5) (b : BitVec 5) (k : BitVec 3)
  /-- VCLT (R188). Writes a mask of lanes that compare less. -/
  | vclt (w : BitVec 3) (t : BitVec 4) (d : BitVec 5) (a : BitVec 5) (b : BitVec 5) (k : BitVec 3)
  /-- VCLE (R188). Writes a mask of lanes that compare less or equal. -/
  | vcle (w : BitVec 3) (t : BitVec 4) (d : BitVec 5) (a : BitVec 5) (b : BitVec 5) (k : BitVec 3)
  /-- VREDSUM (R189). Sums the lanes by the fixed pairwise tree into lane 0. -/
  | vredsum (w : BitVec 3) (t : BitVec 4) (d : BitVec 5) (a : BitVec 5) (k : BitVec 3)
  /-- VREDMIN (R189). Reduces the lanes to their minimum in lane 0. -/
  | vredmin (w : BitVec 3) (t : BitVec 4) (d : BitVec 5) (a : BitVec 5) (k : BitVec 3)
  /-- VREDMAX (R189). Reduces the lanes to their maximum in lane 0. -/
  | vredmax (w : BitVec 3) (t : BitVec 4) (d : BitVec 5) (a : BitVec 5) (k : BitVec 3)
  /-- VSEL (R184). Selects each lane from one of two vectors by the mask. -/
  | vsel (w : BitVec 3) (t : BitVec 4) (d : BitVec 5) (a : BitVec 5) (b : BitVec 5) (k : BitVec 3)
  /-- VDIV (R184). Divides float lanes. -/
  | vdiv (w : BitVec 3) (t : BitVec 4) (d : BitVec 5) (a : BitVec 5) (b : BitVec 5) (k : BitVec 3)
  /-- VSQRT (R184). Takes the square root of float lanes. -/
  | vsqrt (w : BitVec 3) (t : BitVec 4) (d : BitVec 5) (a : BitVec 5) (k : BitVec 3)
  /-- VCVT (R192). Converts lanes between two wide formats. -/
  | vcvt (w : BitVec 3) (d : BitVec 5) (a : BitVec 5) (s : BitVec 5) (k : BitVec 3) (c : BitVec 5)
  /-- VPACK (R196). Narrows eight FP32 lanes into a part of a packed narrow block. -/
  | vpack (w : BitVec 3) (d : BitVec 5) (a : BitVec 5) (f : BitVec 5) (k : BitVec 3) (p : BitVec 2)
  /-- VUNPACK (R197). Widens a part of a packed narrow block into FP32 lanes. -/
  | vunpack (w : BitVec 3) (d : BitVec 5) (a : BitVec 5) (f : BitVec 5) (k : BitVec 3) (p : BitVec 2)
  /-- VBSCALE (R195). Scales FP32 lanes into or out of a block's element range. -/
  | vbscale (w : BitVec 3) (d : BitVec 5) (a : BitVec 5) (f : BitVec 5) (k : BitVec 3) (p : BitVec 2)
  /-- VBHDR (R194). Builds block state and a burst header from FP32 lanes. -/
  | vbhdr (w : BitVec 3) (d : BitVec 5) (a : BitVec 5) (f : BitVec 5) (k : BitVec 3) (p : BitVec 2)
  /-- VMOV (R198). Copies active byte lanes. -/
  | vmov (w : BitVec 3) (d : BitVec 5) (a : BitVec 5) (k : BitVec 3)
  /-- VBCAST (R199). Broadcasts a scalar into every element. -/
  | vbcast (w : BitVec 3) (d : BitVec 5) (a : BitVec 5) (c : BitVec 3)
  /-- VPERM (R198). Permutes byte lanes by an index vector. -/
  | vperm (w : BitVec 3) (d : BitVec 5) (a : BitVec 5) (b : BitVec 5) (k : BitVec 3)
  /-- VSLIDEUP (R198). Slides byte lanes up by a scalar count. -/
  | vslideup (w : BitVec 3) (d : BitVec 5) (a : BitVec 5) (m : BitVec 5) (k : BitVec 3)
  /-- VSLIDEDN (R198). Slides byte lanes down by a scalar count. -/
  | vslidedn (w : BitVec 3) (d : BitVec 5) (a : BitVec 5) (m : BitVec 5) (k : BitVec 3)
  /-- VXGET (R199). Moves one indexed element to a scalar register. -/
  | vxget (w : BitVec 3) (d : BitVec 5) (a : BitVec 5) (i : BitVec 5) (c : BitVec 3)
  /-- VXPUT (R199). Moves a scalar into one indexed element. -/
  | vxput (w : BitVec 3) (d : BitVec 5) (a : BitVec 5) (i : BitVec 5) (c : BitVec 3)
  /-- VRGET (R198). Copies byte lanes from a vector register named at run time. -/
  | vrget (w : BitVec 3) (d : BitVec 5) (a : BitVec 5) (k : BitVec 3)
  /-- VMAND (R200). ANDs two mask registers. -/
  | vmand (w : BitVec 3) (d : BitVec 5) (a : BitVec 5) (b : BitVec 5)
  /-- VMOR (R200). ORs two mask registers. -/
  | vmor (w : BitVec 3) (d : BitVec 5) (a : BitVec 5) (b : BitVec 5)
  /-- VMXOR (R200). XORs two mask registers. -/
  | vmxor (w : BitVec 3) (d : BitVec 5) (a : BitVec 5) (b : BitVec 5)
  /-- VMNOT (R200). Inverts a mask register. -/
  | vmnot (w : BitVec 3) (d : BitVec 5) (a : BitVec 5)
  /-- VMSET (R200). Sets a mask register from a scalar. -/
  | vmset (w : BitVec 3) (d : BitVec 5) (a : BitVec 5)
  /-- VMGET (R200). Moves a mask register to a scalar. -/
  | vmget (w : BitVec 3) (d : BitVec 5) (a : BitVec 5)
  /-- VFMA_F32 (R190). Fused multiply-add of FP32 lanes with one rounding. -/
  | vfmaF32 (w : BitVec 3) (d : BitVec 5) (a : BitVec 5) (b : BitVec 5) (c : BitVec 5)
  /-- VFMA_F16 (R190). Fused multiply-add of FP16 lanes. -/
  | vfmaF16 (w : BitVec 3) (d : BitVec 5) (a : BitVec 5) (b : BitVec 5) (c : BitVec 5)
  /-- VFMA_BF16 (R190). Fused multiply-add of BF16 lanes. -/
  | vfmaBf16 (w : BitVec 3) (d : BitVec 5) (a : BitVec 5) (b : BitVec 5) (c : BitVec 5)
  /-- VFNMA_F32 (R190). Fused negated multiply-add of FP32 lanes. -/
  | vfnmaF32 (w : BitVec 3) (d : BitVec 5) (a : BitVec 5) (b : BitVec 5) (c : BitVec 5)
  /-- VFNMA_F16 (R190). Fused negated multiply-add of FP16 lanes. -/
  | vfnmaF16 (w : BitVec 3) (d : BitVec 5) (a : BitVec 5) (b : BitVec 5) (c : BitVec 5)
  /-- VFNMA_BF16 (R190). Fused negated multiply-add of BF16 lanes. -/
  | vfnmaBf16 (w : BitVec 3) (d : BitVec 5) (a : BitVec 5) (b : BitVec 5) (c : BitVec 5)
  /-- VMACC_S32 (R191). Four-way signed INT8 dot product accumulated into 32-bit lanes. -/
  | vmaccS32 (w : BitVec 3) (d : BitVec 5) (a : BitVec 5) (b : BitVec 5) (c : BitVec 5)
  /-- VMACC_W32 (R191). Four-way unsigned UINT8 dot product accumulated into 32-bit lanes. -/
  | vmaccW32 (w : BitVec 3) (d : BitVec 5) (a : BitVec 5) (b : BitVec 5) (c : BitVec 5)
  /-- VLD (R203). Loads 32 bytes of local memory into a vector register. -/
  | vld (w : BitVec 3) (d : BitVec 5) (a : BitVec 5) (o : BitVec 11)
  /-- VST (R203). Stores a vector register to 32 bytes of local memory. -/
  | vst (w : BitVec 3) (s : BitVec 5) (a : BitVec 5) (o : BitVec 11)
  /-- VEXP2 (R201). Approximates 2^x per lane. -/
  | vexp2 (w : BitVec 3) (d : BitVec 5) (a : BitVec 5) (k : BitVec 3) (t : BitVec 2)
  /-- VLOG2 (R201). Approximates log2 x per lane. -/
  | vlog2 (w : BitVec 3) (d : BitVec 5) (a : BitVec 5) (k : BitVec 3) (t : BitVec 2)
  /-- VRCP (R201). Approximates the reciprocal per lane. -/
  | vrcp (w : BitVec 3) (d : BitVec 5) (a : BitVec 5) (k : BitVec 3) (t : BitVec 2)
  /-- VRSQRT (R201). Approximates the reciprocal square root per lane. -/
  | vrsqrt (w : BitVec 3) (d : BitVec 5) (a : BitVec 5) (k : BitVec 3) (t : BitVec 2)
  /-- VTANH (R201). Approximates tanh per lane. -/
  | vtanh (w : BitVec 3) (d : BitVec 5) (a : BitVec 5) (k : BitVec 3) (t : BitVec 2)
  /-- VSIN (R201). Approximates sin of turns per lane. -/
  | vsin (w : BitVec 3) (d : BitVec 5) (a : BitVec 5) (k : BitVec 3) (t : BitVec 2)
  /-- VCOS (R201). Approximates cos of turns per lane. -/
  | vcos (w : BitVec 3) (d : BitVec 5) (a : BitVec 5) (k : BitVec 3) (t : BitVec 2)
  /-- VSIGM (R201). Approximates the logistic sigmoid per lane. -/
  | vsigm (w : BitVec 3) (d : BitVec 5) (a : BitVec 5) (k : BitVec 3) (t : BitVec 2)
  /-- MWR (R221). Writes one dword of a shape record. -/
  | mwr (w : BitVec 3) (a : BitVec 5) (n : BitVec 3) (d : BitVec 2)
  /-- MLDS (R224). Queues a load of the shadow weight plane. -/
  | mlds (w : BitVec 3) (a : BitVec 5) (b : BitVec 5) (n : BitVec 3)
  /-- MSWAP (R224). Queues an exchange of the active and shadow planes. -/
  | mswap (w : BitVec 3)
  /-- MSTR (R225). Queues streaming of an A tile through the active plane into an accumulator view. -/
  | mstr (w : BitVec 3) (a : BitVec 5) (b : BitVec 5) (n : BitVec 3) (d : BitVec 3) (g : BitVec 1) (c : BitVec 1)
  /-- MACFG (R222). Configures an accumulator descriptor, optionally forcing cancellation. -/
  | macfg (w : BitVec 3) (a : BitVec 5) (f : BitVec 1) (d : BitVec 3)
  /-- MAREL (R222). Makes an accumulator descriptor unconfigured. -/
  | marel (w : BitVec 3) (f : BitVec 1) (d : BitVec 3)
  /-- MGANG (R226). Sets the slot's gang configuration after queued ganged operations complete. -/
  | mgang (w : BitVec 3) (a : BitVec 5) (b : BitVec 5)
  /-- MWAIT (R227). Joins every matrix operation the slot issued and delivers their faults. -/
  | mwait (w : BitVec 3)
  /-- MRD (R229). Reads consecutive accumulator entries into a vector, converted. -/
  | mrd (w : BitVec 3) (v : BitVec 5) (m : BitVec 5) (d : BitVec 3) (k : BitVec 3) (f : BitVec 5)
  /-- GPATCH (R243). Writes one route entry of a Geyser cell. -/
  | gpatch (w : BitVec 3) (a : BitVec 5) (b : BitVec 5)
  /-- GCELL (R243). Writes Y, R or CFG of a Geyser cell. -/
  | gcell (w : BitVec 3) (a : BitVec 5) (b : BitVec 5) (f : BitVec 2)
  /-- GRD (R243). Reads a field of a Geyser cell. -/
  | grd (w : BitVec 3) (a : BitVec 5) (d : BitVec 5)
  /-- GCLK (R243). Sets the divider of a halted step clock. -/
  | gclk (w : BitVec 3) (a : BitVec 5) (n : BitVec 2)
  /-- GSTEP (R243). Arms a step clock for a number of steps. -/
  | gstep (w : BitVec 3) (a : BitVec 5) (m : BitVec 4) (c : BitVec 1) (n : BitVec 2)
  /-- GRUN (R243). Starts a step clock free-running. -/
  | grun (w : BitVec 3) (m : BitVec 4) (c : BitVec 1) (n : BitVec 2)
  /-- GHALT (R243). Halts a step clock. -/
  | ghalt (w : BitVec 3) (n : BitVec 2)
  /-- GSAVE (R244). Forks a copy of Geyser state to local memory. -/
  | gsave (w : BitVec 3) (a : BitVec 5) (b : BitVec 5) (m : BitVec 4) (c : BitVec 1) (k : BitVec 1)
  /-- GREST (R244). Forks a load of Geyser state from local memory. -/
  | grest (w : BitVec 3) (a : BitVec 5) (b : BitVec 5) (m : BitVec 4) (c : BitVec 1) (k : BitVec 1)
  /-- GSTAT (R243). Reads a clock item or the sticky status, optionally clearing it. -/
  | gstat (w : BitVec 3) (a : BitVec 5) (d : BitVec 5)
  /-- GINJ (R243). Latches increments at Geyser cells from vector lanes. -/
  | ginj (w : BitVec 3) (s : BitVec 5) (k : BitVec 3)
  /-- GTAP (R243). Reads selected cell fields into vector lanes. -/
  | gtap (w : BitVec 3) (d : BitVec 5) (s : BitVec 5) (k : BitVec 3)
  /-- QRSV (R260). Reserves a corridor slot at the home and returns its address. -/
  | qrsv (w : BitVec 3) (d : BitVec 5) (n : BitVec 3)
  /-- QPUSH (R260). Commits the held reservation, optionally linked to a popped input slot. -/
  | qpush (w : BitVec 3) (a : BitVec 5) (b : BitVec 5) (l : BitVec 1) (m : BitVec 3) (n : BitVec 3)
  /-- QPOP (R260). Pops the next filled slot of a consumer endpoint, stalling while none. -/
  | qpop (w : BitVec 3) (d : BitVec 5) (n : BitVec 3)
  /-- QREL (R260). Releases the held popped slot. -/
  | qrel (w : BitVec 3) (n : BitVec 3)
  /-- QFLUSH (R261). Applies the flush rule to a corridor for a listed task set at system level. -/
  | qflush (w : BitVec 3) (a : BitVec 5) (n : BitVec 3)
  /-- QMARK (R260). Reserves and commits a mark-only slot. -/
  | qmark (w : BitVec 3) (a : BitVec 5) (n : BitVec 3)
  /-- QMARK_H (R260). Attaches marks to the held reservation. -/
  | qmarkH (w : BitVec 3) (a : BitVec 5) (n : BitVec 3)
  /-- ALD (R278). Copies lines from the core's Attic slice into local memory on a fixed schedule. -/
  | ald (w : BitVec 3) (a : BitVec 5) (b : BitVec 5) (n : BitVec 6)
  /-- AST (R279). Copies lines from local memory into the core's Attic slice on a fixed schedule. -/
  | ast (w : BitVec 3) (a : BitVec 5) (b : BitVec 5) (n : BitVec 6)
  /-- AOP_RED (R289). Sends an element-wise reduction command to the attic operation units. -/
  | aopRed (w : BitVec 3) (a : BitVec 5) (n : BitVec 3) (e : BitVec 1)
  /-- AOP_CMPX (R292). Sends a compare-exchange command on an Attic dword. -/
  | aopCmpx (w : BitVec 3) (a : BitVec 5) (n : BitVec 3) (e : BitVec 1)
  /-- AOP_SACC (R291). Sends a scaled-accumulate command on Attic rows. -/
  | aopSacc (w : BitVec 3) (a : BitVec 5) (n : BitVec 3) (e : BitVec 1)
  /-- AOP_DOT (R290). Sends a dot-product command of a query row against Attic rows. -/
  | aopDot (w : BitVec 3) (a : BitVec 5) (n : BitVec 3) (e : BitVec 1)
  /-- VPROJ (R359). Forks a lap-1 vocabulary projection of a shard into the Sinter state. -/
  | vproj (w : BitVec 3) (a : BitVec 5) (m : BitVec 4) (c : BitVec 1) (k : BitVec 1) (q : BitVec 1)
  /-- VPROJ_LAP2 (R368). Forks a lap-2 regeneration of the replayed shard to draw or write gradients. -/
  | vprojLap2 (w : BitVec 3) (a : BitVec 5) (b : BitVec 5) (m : BitVec 4) (c : BitVec 1)
  /-- HMERGE (R362). Forks a merge of another core's Sinter state into this one. -/
  | hmerge (w : BitVec 3) (a : BitVec 5) (m : BitVec 4) (c : BitVec 1)
  /-- HREAD (R370). Joins Sinter operations and reads a heap, label, normaliser, status or shard item. -/
  | hread (w : BitVec 3) (a : BitVec 5) (d : BitVec 5)
  /-- SNORM (R371). Joins Sinter operations and writes a 64-byte summary to local memory. -/
  | snorm (w : BitVec 3) (a : BitVec 5)
  /-- SDRAW (R365). Joins Sinter operations and draws a token or a lap-2 request. -/
  | sdraw (w : BitVec 3) (a : BitVec 5) (d : BitVec 5)
  /-- SLABEL (R361). Joins Sinter operations and sets or clears a label. -/
  | slabel (w : BitVec 3) (a : BitVec 5) (b : BitVec 5)
  /-- CQPUSH (R166). Pushes a copy descriptor into the copy queue, stalling while it is full. -/
  | cqpush (w : BitVec 3) (a : BitVec 5) (n : BitVec 3) (e : BitVec 1) (c : BitVec 2) (h : BitVec 1)
  /-- CQPUSH_NB (R166). Pushes a copy descriptor without stalling and returns a result word. -/
  | cqpushNb (w : BitVec 3) (a : BitVec 5) (d : BitVec 5) (n : BitVec 3) (e : BitVec 1) (c : BitVec 2) (h : BitVec 1)
  /-- WMWAIT (R166). Waits until a watermark reaches a threshold, then delivers copy faults. -/
  | wmwait (w : BitVec 3) (a : BitVec 5) (n : BitVec 3)
  /-- BAR_ARRIVE (R350). Sends an arrival with a byte change to a Stair barrier once earlier accesses are performed. -/
  | barArrive (w : BitVec 3) (a : BitVec 5) (m : BitVec 6)
  /-- BAR_EXPECT (R350). Sends a pending-byte change to a Stair barrier. -/
  | barExpect (w : BitVec 3) (a : BitVec 5) (m : BitVec 6)
  /-- BAR_WAIT (R350). Waits until the barrier's phase changes and the task's group is released. -/
  | barWait (w : BitVec 3) (a : BitVec 5) (m : BitVec 6)
  /-- BAR_TRY (R350). Reads the barrier's state word. -/
  | barTry (w : BitVec 3) (d : BitVec 5) (m : BitVec 6)
  /-- TRAP_ENTRY (R85). Enters the trap vector at system level once pending fixed-latency writes have landed. Args: core, slot, cause, unit, value, pc. -/
  | trapEntry
  /-- DRAUGHT_INSTRUCTION_LIMIT (R28). A slot that took a DRAUGHT trap freezes after 256 further instructions. Args: core, slot. -/
  | draughtInstructionLimit
  /-- SLOT_FREEZE (R108). A slot freezes once its accesses are performed and pending writes have landed. Args: core, slot. -/
  | slotFreeze
  /-- BIND_SEED_TASK (R312). The Foyer binds an accepted seed to a free eligible slot of the source stage. Args: pkg, port. -/
  | bindSeedTask
  /-- BIND_STAGE_TASKS (R308). A column binds all its stage tasks in the cycle it receives the configuration completion. Args: col. -/
  | bindStageTasks
  /-- BIND_TILE_TASK (R317). The Foyer binds a ready task record to an eligible slot holding its stage. Args: pkg. -/
  | bindTileTask
  /-- ACCESS_AT_HOME (R101). A load or store request arriving at its home is performed in arrival order. Args: fid. -/
  | accessAtHome
  /-- ACCESS_REPLY (R106). A reply or acknowledgement returns to the issuing core, writing a load destination or recording an error. Args: fid. -/
  | accessReply
  /-- AMO_STEP (R113). The home core's handler slot performs an atomic read-modify-write step. Args: fid. -/
  | amoStep
  /-- AMSEND_ARRIVAL (R115). An active message reaches its target core and is checked, bounced or queued. Args: fid. -/
  | amsendArrival
  /-- LETTERBOX_ACCEPT (R156). A held message is accepted into a free Letterbox entry, subject to its age. Args: core. -/
  | letterboxAccept
  /-- AMSEND_REPLY (R115). The accept or bounce reply reaches the sender, raising its counter or recording a fault. Args: fid. -/
  | amsendReply
  /-- HANDLER_START (R158). An idle handler slot starts the oldest accepted handler message. Args: core. -/
  | handlerStart
  /-- HANDLER_LONG_ABORT (R160). A handler reaching 256 instructions without done is aborted and logged. Args: core. -/
  | handlerLongAbort
  /-- COPY_START (R230). A queued copy begins once its START event has occurred and a transfer place is free. Args: core, op. -/
  | copyStart
  /-- COPY_COMPLETE (R164). A copy finishes or stops; its watermark advances in push order and a commit is made if set. Args: core, op. -/
  | copyComplete
  /-- NPUT_LANDING (R171). A neighbour value is written into the target register and its presence bit set. Args: core, slot, t, value. -/
  | nputLanding
  /-- GRANULE_SAVE (R179). A granule of a halted partition is written to the Pantry when another partition claims it. Args: core, gran. -/
  | granuleSave
  /-- GRANULE_RESTORE (R179). A saved granule is loaded back on first touch after restore. Args: core, gran. -/
  | granuleRestore
  /-- MATRIX_OP_BEGIN (R220). A queued matrix operation begins once its ordering conditions hold. Args: core, op. -/
  | matrixOpBegin
  /-- MATRIX_OP_COMPLETE (R208). A matrix operation completes, frees its queue entry and raises its counter. Args: core, op. -/
  | matrixOpComplete
  /-- GEYSER_BOUNDARY (R239). A step-clock boundary steps every enabled cell of its domain and delivers fires. Args: core. -/
  | geyserBoundary
  /-- GEYSER_CLOCK_HALT (R238). An armed clock halts when REMAIN reaches zero and raises its counter. Args: core, clk. -/
  | geyserClockHalt
  /-- GEYSER_LINK_INCREMENT (R236). An increment sent over a column link is latched at the neighbour 4 cycles later. Args: core, cell, dx, neg. -/
  | geyserLinkIncrement
  /-- GSAVE_COMPLETE (R244). A Geyser save finishes writing its image and raises its counter. Args: core. -/
  | gsaveComplete
  /-- GREST_COMPLETE (R244). A Geyser restore finishes loading its image and raises its counter. Args: core. -/
  | grestComplete
  /-- RESERVATION_AT_HOME (R260). A reservation request reaches the corridor home and queues in arrival order. Args: fid. -/
  | reservationAtHome
  /-- RESERVATION_GRANT (R262). The home grants a reservation when the slot at RP becomes free. Args: corr. -/
  | reservationGrant
  /-- COMMIT_AT_HOME (R257). The home writes a slot header and makes the slot committed, ending waiting pops. Args: fid. -/
  | commitAtHome
  /-- RELEASE_AT_HOME (R257). A slot is released and the release frontier advances. Args: fid. -/
  | releaseAtHome
  /-- LINKED_RELEASE (R267). The input slot of a linked qpush is released once its commit is performed. Args: fid. -/
  | linkedRelease
  /-- DRAIN_END (R266). The column's drain ends when its slots are free or stalled at DRAUGHT slots. Args: col. -/
  | drainEnd
  /-- DRAIN_ALLOWANCE_EXPIRY (R266). The drain allowance runs out and ends the column's drain. Args: col. -/
  | drainAllowanceExpiry
  /-- DRAUGHT_FORWARD (R266). The column commits a DRAUGHT slot on every bound producer endpoint. Args: col. -/
  | draughtForward
  /-- COLUMN_FAULT (R272). A detected column error ends the partition's tasks in the column and flushes its corridors. Args: col. -/
  | columnFault
  /-- READY_SLOT_TIMEOUT (R271). A ready slot that has not issued for 2^24 cycles raises a column fault. Args: core, slot. -/
  | readySlotTimeout
  /-- ALD_LINE_LANDING (R278). An ald line is checked and written into local memory, or recorded ATTIC_DATA. Args: core, op, line. -/
  | aldLineLanding
  /-- AST_LINE_WRITE (R279). An ast line is written into the slice with new check bits. Args: core, op, line. -/
  | astLineWrite
  /-- AST_ACKNOWLEDGEMENT (R279). The ast acknowledgement arrives and the ast counts as performed. Args: core, op. -/
  | astAcknowledgement
  /-- ATTIC_SCRUB (R284). The base die scrubs an Attic dword, correcting or poisoning and logging it. Args: core, offset. -/
  | atticScrub
  /-- PART_LOSS (R285). A bank, Chimney or layer is lost; the package stops and restarts warm. Args: core, layer, bank, kind. -/
  | partLoss
  /-- AOP_ACCEPT (R287). The column pipeline accepts an attic command 4 cycles after issue. Args: core, op. -/
  | aopAccept
  /-- AOP_BEGIN (R287). An accepted attic command begins after the previous one completes and checks its record. Args: col. -/
  | aopBegin
  /-- AOP_COMPLETE (R293). An attic command completes, writes its results and advances its watermark. Args: col. -/
  | aopComplete
  /-- LAUNCH (R304). A write of an RCB address is checked and the launch queued or refused. Args: pkg, value. -/
  | launch
  /-- PREEMPT (R322). PREEMPT action 1 starts a drain that halts the partition. Args: pkg, rcb. -/
  | preempt
  /-- PREEMPT_AND_HOLD (R324). PREEMPT action 2 drains the partition, saves it eagerly and holds it. Args: pkg, rcb. -/
  | preemptAndHold
  /-- RESUME (R307). PREEMPT action 3 moves a held partition to HALTED for admission. Args: pkg, rcb. -/
  | resume
  /-- END_PARTITION (R307). PREEMPT action 4 ends a partition and reports its open seeds failed. Args: pkg, rcb. -/
  | endPartition
  /-- RECQ (R314). A write of a task record address makes the Foyer read the record into the dependence table. Args: pkg, src, value. -/
  | recq
  /-- HELD_WRITE_TAKEN (R328). A write held at a full window queue or mailbox is taken once room frees. Args: pkg, unit. -/
  | heldWriteTaken
  /-- PORTSEED (R383). A seed token is journalled and accepted, or refused. Args: pkg, port, value. -/
  | portseed
  /-- ADMISSION (R309). The Foyer evaluates queued launches and halted partitions and admits those that fit. Args: pkg. -/
  | admission
  /-- CONFIG_COMPLETE (R308). The wave has crossed the region; the port opens and the launch enters RUN. Args: rcb. -/
  | configComplete
  /-- LENDING_SAMPLE (R319). Each lending period the Foyer samples stages and chooses a core to lend. Args: pkg. -/
  | lendingSample
  /-- CORE_HANDOVER (R319). A chosen spare core passes to the borrower when its last slot is free. Args: core. -/
  | coreHandover
  /-- RECORD_COMPLETION (R318). A record's end updates successors, creates credits and raises its counter. Args: pkg, rec, cause. -/
  | recordCompletion
  /-- PARTITION_HALTED (R322). Every column has drained and frozen; the partition enters HALTED or HELD. Args: rcb. -/
  | partitionHalted
  /-- RESTORE_COMPLETE (R325). The last column is loaded and slots leave FROZEN. Args: rcb. -/
  | restoreComplete
  /-- MODEL_SWITCH (R326). At a switch point the Foyer waits for the stage, ends stalled tasks and flushes. Args: col, tag. -/
  | modelSwitch
  /-- SWITCH_REBIND (R346). After the refill the Foyer loads the successor stage and binds its tasks. Args: col. -/
  | switchRebind
  /-- COLUMN_RESTART (R327). After containment the Foyer rebinds the column's stage tasks. Args: col. -/
  | columnRestart
  /-- INVALIDATE_PAGE (R339). XINV scope 0 drops the cached translation of one page. Args: pkg, va. -/
  | invalidatePage
  /-- INVALIDATE_PARTITION (R339). XINV scope 1 drops every cached translation of a partition. Args: pkg. -/
  | invalidatePartition
  /-- INVALIDATE_ALL (R339). XINV scope 2 drops every cached translation. Args: pkg. -/
  | invalidateAll
  /-- INVALIDATION_COMPLETE (R339). An invalidation finishes and BUSY returns to 0. Args: pkg. -/
  | invalidationComplete
  /-- RANGE_WRITE (R339). A write to a range entry starts an invalidation of overlapping translations. Args: pkg, dword, value. -/
  | rangeWrite
  /-- PAGE_WALK_COMPLETE (R336). A page walk ends and serves or faults every miss it covers. Args: pkg, walk. -/
  | pageWalkComplete
  /-- DWQ (R341). A core submits a Dumbwaiter descriptor by virtual address. Args: pkg, src, value. -/
  | dwq
  /-- DWQP (R341). The control complex submits a Dumbwaiter descriptor by physical address. Args: pkg, value. -/
  | dwqp
  /-- DWQR (R411). The control complex submits a descriptor to be recorded in the residency list. Args: pkg, value. -/
  | dwqr
  /-- DUMBWAITER_START (R343). A free channel takes the first eligible descriptor and checks it. Args: pkg. -/
  | dumbwaiterStart
  /-- DUMBWAITER_COMPLETE (R345). A descriptor completes, writing DONE, decrementing its barrier and raising its counter. Args: pkg, op. -/
  | dumbwaiterComplete
  /-- DUMBWAITER_CHANNEL_FAULT (R344). A faulting channel leaves service and its descriptor restarts on another. Args: pkg, chan. -/
  | dumbwaiterChannelFault
  /-- BCFG_WRITE (R347). A write to BCFG configures and resets a Stair barrier. Args: pkg, bar, value. -/
  | bcfgWrite
  /-- BLINK_WRITE (R429). A write to BLINK sets a barrier's tree links and resets it. Args: pkg, bar, value. -/
  | blinkWrite
  /-- BARRIER_ARRIVAL (R350). An arrival is counted at the barrier, or breaks it. Args: fid. -/
  | barrierArrival
  /-- BARRIER_EXPECT (R350). A pending-byte change from bar.expect is applied at the barrier. Args: fid. -/
  | barrierExpect
  /-- BARRIER_DECREMENT (R350). An engine decrements the barrier's pending bytes as its bytes land. Args: pkg, bar, bytes. -/
  | barrierDecrement
  /-- BARRIER_PHASE_COMPLETE (R348). Arrivals and bytes are complete; the phase inverts or a child token is sent. Args: pkg, bar. -/
  | barrierPhaseComplete
  /-- BARRIER_GROUP_RELEASE (R348). A release group is released S cycles after the previous one. Args: pkg, bar, group. -/
  | barrierGroupRelease
  /-- BARRIER_WINDOW_CLOSE (R348). The release window closes and RELEASING returns to 0. Args: pkg, bar. -/
  | barrierWindowClose
  /-- ARRIVAL_TOKEN (R430). A child's arrival token reaches its parent barrier as one arrival. Args: pkg, bar. -/
  | arrivalToken
  /-- RELEASE_TOKEN (R430). A parent's release token completes the child's phase. Args: pkg, bar. -/
  | releaseToken
  /-- BREAK_TOKEN (R431). A break token breaks the receiving node and is passed on. Args: pkg, bar, fromPkg, fromBar. -/
  | breakToken
  /-- GDDR_BURST_ERROR (R332). A failed GDDR-7 burst is retried or poisons its granule. Args: addr, final. -/
  | gddrBurstError
  /-- HMERGE_SOURCE_ANSWER (R362). The source core answers a merge request once its earlier Sinter operations completed. Args: core, source, op. -/
  | hmergeSourceAnswer
  /-- HMERGE_APPLY (R362). The answer arrives and the merge is applied to the destination state. Args: core, op. -/
  | hmergeApply
  /-- VPROJ_COMPLETE (R359). A projection lap completes, merges flags and raises its counter. Args: core, op. -/
  | vprojComplete
  /-- MBIN (R379). A write appends a dword to the inbound mailbox. Args: pkg, value. -/
  | mbin
  /-- MBINPOP (R379). A read returns and removes the oldest inbound dword. Args: pkg. -/
  | mbinpop
  /-- MBOUT (R379). A write appends a dword to the outbound mailbox. Args: pkg, value. -/
  | mbout
  /-- MBOUTPOP (R379). A read returns and removes the oldest outbound dword. Args: pkg. -/
  | mboutpop
  /-- FDBASE (R440). A write places the fault log and resets the page manager. Args: pkg, value. -/
  | fdbase
  /-- FLBASE (R440). A write places the flash request ring and resets the page manager. Args: pkg, value. -/
  | flbase
  /-- KVPOOL (R392). A write sets the page pool base and resets the page manager. Args: pkg, value. -/
  | kvpool
  /-- KVSIZE (R392). A write sets page size and count and resets the page manager. Args: pkg, value. -/
  | kvsize
  /-- KVREF (R392). A write sets the page-manager area and resets the page manager. Args: pkg, value. -/
  | kvref
  /-- AJBASE (R440). A write places a port's acceptance journal while the port is closed. Args: pkg, port, value. -/
  | ajbase
  /-- CJBASE (R440). A write places a port's completion journal while the port is closed. Args: pkg, port, value. -/
  | cjbase
  /-- JCONS (R383). A write sets the consumed count, bounded by NEXTREP. Args: pkg, port, value. -/
  | jcons
  /-- PORTDONE (R384). A write completes a MODE 1 seed, or is ignored and logged. Args: pkg, port, src, value. -/
  | portdone
  /-- SEED_REPORT (R384). A completed seed is reported once every lower seed of the port has been reported. Args: pkg, port. -/
  | seedReport
  /-- KVQ (R391). A task submits a page-manager command record by virtual address. Args: pkg, src, value. -/
  | kvq
  /-- KVQP (R391). The control complex submits a page-manager record by physical address. Args: pkg, value. -/
  | kvqp
  /-- ALLOC (R392). Initialises a sequence descriptor with no pages. Args: pkg. -/
  | alloc
  /-- APPEND (R392). Makes room for n speculative tokens, allocating or copying pages. Args: pkg. -/
  | append
  /-- COMMIT (R392). Commits n speculative tokens and drops the rest. Args: pkg. -/
  | commit
  /-- FORK (R399). Builds a child sequence sharing the parent's committed pages. Args: pkg. -/
  | fork
  /-- FREE (R392). Counts down every page of a sequence. Args: pkg. -/
  | free
  /-- LOOKUP (R396). Pins the longest cached prefix of a prompt from the prefix table. Args: pkg. -/
  | lookup
  /-- INSERT (R397). Enters full committed blocks into the prefix table. Args: pkg. -/
  | insert
  /-- EVICT (R398). Removes the lowest-scored unprotected blocks of a sequence. Args: pkg. -/
  | evict
  /-- STAGE (R394). Copies pages into a column's Attic through the Dumbwaiter. Args: pkg. -/
  | stage
  /-- PAGEOUT (R395). Posts a flash request to move a sequence's pages out. Args: pkg. -/
  | pageout
  /-- PAGEIN (R395). Allocates pages and posts a flash request to bring a sequence back. Args: pkg. -/
  | pagein
  /-- FLDONE (R395). A flash request's status completes the waiting PAGEOUT or PAGEIN. Args: pkg, value. -/
  | fldone
  /-- KSLOAD (R401). A write names a key blob and slot to load, held while a descriptor uses the slot. Args: pkg, value. -/
  | ksload
  /-- KEY_BLOB_UNWRAP (R401). The die unwraps a key blob into its slot or clears the slot. Args: pkg. -/
  | keyBlobUnwrap
  /-- KSOWN (R400). A write sets a key slot's owner and clears its key. Args: pkg, key, value. -/
  | ksown
  /-- STATUS (R413). The recovery firmware answers the package state and failing step. Args: pkg. -/
  | status
  /-- SELFTEST (R413). Answers per-step self-test results. Args: pkg. -/
  | selftest
  /-- LOG (R413). Answers a fault-log entry and kept ATTLOG values. Args: pkg, entry. -/
  | log
  /-- ATTEST (R407). Writes a signed attestation report for a nonce. Args: pkg, addr. -/
  | attest
  /-- RECOVER (R413). Verifies an image, writes it to flash and cold starts. Args: pkg, addr. -/
  | recover
  /-- MINVER (R405). Raises the fused minimum version to the running version. Args: pkg. -/
  | minver
  /-- UNKNOWN_COMMAND (R413). An unknown mailbox or MCTP command is answered all ones. Args: pkg, value. -/
  | unknownCommand
  /-- COLD_START (R409). Runs the cold-start steps, entering the Porch state on failure. Args: pkg, failStep, code. -/
  | coldStart
  /-- WARM_START (R409). Runs the warm-start steps, mapping out lost parts and replaying journals. Args: pkg, failStep, code. -/
  | warmStart
  /-- WAKE_FROM_DORMANT (R409). Runs the wake steps after a wake event. Args: pkg, failStep, code. -/
  | wakeFromDormant
  /-- SLEEPCTL (R415). A write requests Dormant, accepted or refused with a reason. Args: pkg, value. -/
  | sleepctl
  /-- WAKE_FRAME (R416). An Ethernet frame matching the wake filter wakes the card. Args: pkg, mac, udp, token. -/
  | wakeFrame
  /-- MCTP_WAKE_MESSAGE (R416). An MCTP wake message wakes the card. Args: pkg. -/
  | mctpWakeMessage
  /-- DORMANT_ACCESS (R417). An access to a device window while Dormant is held and wakes the card. Args: pkg, addr, value, store. -/
  | dormantAccess
  /-- THROTTLE_RAISE (R419). Power or Attic temperature over its limit raises the throttle level. Args: pkg, power. -/
  | throttleRaise
  /-- THROTTLE_LOWER (R419). After 1 ms back in range the throttle level is lowered. Args: pkg, power. -/
  | throttleLower
  /-- MESH_HOP_FAILURE (R408). A mesh hop failing four times loses the link and restarts the package warm. Args: pkg. -/
  | meshHopFailure
  /-- FLIT_SEND (R425). A boundary element sends a flit when it holds a credit for its channel. Args: pkg, elem. -/
  | flitSend
  /-- FLIT_RECEIVE (R426). A boundary element takes in a flit, discarding duplicates and malformed flits. Args: pkg, elem, good. -/
  | flitReceive
  /-- FLIT_ACKNOWLEDGEMENT (R426). The peer's acknowledgement frees held flits. Args: pkg, elem, lseq. -/
  | flitAcknowledgement
  /-- LANE_FAILURE (R433). A lane failure degrades the link to x8. Args: pkg, elem. -/
  | laneFailure
  /-- LINK_LOST (R433). A lost link stops its element and reroutes its pairs, resending held flits. Args: pkg, elem. -/
  | linkLost
  /-- REROUTE_COMPLETE (R434). A reroute ends and held messages of the pair are released. Args: pkg, elem. -/
  | rerouteComplete
  /-- PACKAGE_OUT_OF_SERVICE (R435). Other packages treat a restarting or cut-off package's homes as out of service. Args: pkg. -/
  | packageOutOfService
  /-- W1C_CLEAR (R9). A write of ones clears bits of a W1C register. Args: addr, value. -/
  | w1cClear
  /-- REGISTER_WRITE (R9). A write to a storing register without a row of its own stores the value. Args: addr, value, half. -/
  | registerWrite
  /-- LOCAL_MEMORY_SCRUB (R153). Background scrub reads a local-memory dword through port B, corrects it and counts it in ECCCNT. Args: core, addr. -/
  | localMemoryScrub
  /-- BOARD_TEST (R414). An IEEE 1149.1 instruction (BYPASS, SAMPLE/PRELOAD, EXTEST or IDCODE 0x0A47_1F53) is taken over the test pins. Args: pkg, ir. -/
  | boardTest
  deriving DecidableEq, Repr

end Sys2Proof
end

