-- ==== Sys2Proof/WellFormed.lean ====
section
/-! DEFINITION. Which terms of Instr are instructions: what the encoding leaves illegal (R55, Tables 2-5 to 2-13).
A hardware step has no operands of its own. -/
namespace Sys2Proof

/-- The assigned control-register numbers (Table 2-9). -/
def csrAssigned (r : Nat) : Bool :=
  r ≤ 0x008 || (0x010 ≤ r && r ≤ 0x013) || r == 0x018 || r == 0x019 || r == 0x020 || r == 0x021

/-- The format codes `vcvt` converts between (R139). -/
def isWideCode (c : Nat) : Bool := c ≤ 0x05 || (0x0B ≤ c && c ≤ 0x0D)

/-- The narrow format codes of major 0x2A (R52, R193). -/
def isNarrowCode (c : Nat) : Bool := (0x06 ≤ c && c ≤ 0x0A) || c == 0x0E

/-- The destination format codes of `mrd` (R229). -/
def isMrdCode (c : Nat) : Bool := c ≤ 0x07 || (0x0B ≤ c && c ≤ 0x0D)

/-- Whether a term is an instruction word, not a hardware step. -/
def Instr.isWord : Instr → Bool
  | .add .. => true
  | .sub .. => true
  | .and .. => true
  | .or .. => true
  | .xor .. => true
  | .sll .. => true
  | .srl .. => true
  | .sra .. => true
  | .slt .. => true
  | .slto .. => true
  | .min .. => true
  | .max .. => true
  | .minw .. => true
  | .maxw .. => true
  | .mul .. => true
  | .mulh .. => true
  | .mulhw .. => true
  | .div .. => true
  | .divw .. => true
  | .rem .. => true
  | .remw .. => true
  | .clz .. => true
  | .ctz .. => true
  | .popc .. => true
  | .sext .. => true
  | .zext .. => true
  | .addsh .. => true
  | .csel .. => true
  | .chcfg .. => true
  | .chidx .. => true
  | .addi .. => true
  | .andi .. => true
  | .ori .. => true
  | .xori .. => true
  | .slti .. => true
  | .slli .. => true
  | .srli .. => true
  | .srai .. => true
  | .bfx .. => true
  | .bfi .. => true
  | .lih .. => true
  | .jal .. => true
  | .jalr .. => true
  | .beq .. => true
  | .bne .. => true
  | .blt .. => true
  | .bge .. => true
  | .blo .. => true
  | .bhs .. => true
  | .chloop .. => true
  | .ld .. => true
  | .ldz .. => true
  | .st .. => true
  | .ldgW .. => true
  | .ldgD .. => true
  | .stgW .. => true
  | .stgD .. => true
  | .ldbit .. => true
  | .stbit .. => true
  | .amoAdd .. => true
  | .amoAnd .. => true
  | .amoOr .. => true
  | .amoXor .. => true
  | .amoMin .. => true
  | .amoMax .. => true
  | .amoMinw .. => true
  | .amoMaxw .. => true
  | .amoSwap .. => true
  | .amoCas .. => true
  | .amsend .. => true
  | .nput .. => true
  | .nclr .. => true
  | .ccinc .. => true
  | .ccset .. => true
  | .waitlt .. => true
  | .csrr .. => true
  | .csrw .. => true
  | .csrs .. => true
  | .csrc .. => true
  | .tret .. => true
  | .done .. => true
  | .yield .. => true
  | .isync .. => true
  | .fenceTask .. => true
  | .fenceCore .. => true
  | .fenceCol .. => true
  | .fenceDie .. => true
  | .fencePkg .. => true
  | .fenceCard .. => true
  | .spl .. => true
  | .fil .. => true
  | .svc .. => true
  | .brk .. => true
  | .vadd .. => true
  | .vsub .. => true
  | .vmul .. => true
  | .vmin .. => true
  | .vmax .. => true
  | .vabs .. => true
  | .vneg .. => true
  | .vadds .. => true
  | .vsubs .. => true
  | .vmulh .. => true
  | .vand .. => true
  | .vor .. => true
  | .vxor .. => true
  | .vsll .. => true
  | .vsrl .. => true
  | .vsra .. => true
  | .vceq .. => true
  | .vcne .. => true
  | .vclt .. => true
  | .vcle .. => true
  | .vredsum .. => true
  | .vredmin .. => true
  | .vredmax .. => true
  | .vsel .. => true
  | .vdiv .. => true
  | .vsqrt .. => true
  | .vcvt .. => true
  | .vpack .. => true
  | .vunpack .. => true
  | .vbscale .. => true
  | .vbhdr .. => true
  | .vmov .. => true
  | .vbcast .. => true
  | .vperm .. => true
  | .vslideup .. => true
  | .vslidedn .. => true
  | .vxget .. => true
  | .vxput .. => true
  | .vrget .. => true
  | .vmand .. => true
  | .vmor .. => true
  | .vmxor .. => true
  | .vmnot .. => true
  | .vmset .. => true
  | .vmget .. => true
  | .vfmaF32 .. => true
  | .vfmaF16 .. => true
  | .vfmaBf16 .. => true
  | .vfnmaF32 .. => true
  | .vfnmaF16 .. => true
  | .vfnmaBf16 .. => true
  | .vmaccS32 .. => true
  | .vmaccW32 .. => true
  | .vld .. => true
  | .vst .. => true
  | .vexp2 .. => true
  | .vlog2 .. => true
  | .vrcp .. => true
  | .vrsqrt .. => true
  | .vtanh .. => true
  | .vsin .. => true
  | .vcos .. => true
  | .vsigm .. => true
  | .mwr .. => true
  | .mlds .. => true
  | .mswap .. => true
  | .mstr .. => true
  | .macfg .. => true
  | .marel .. => true
  | .mgang .. => true
  | .mwait .. => true
  | .mrd .. => true
  | .gpatch .. => true
  | .gcell .. => true
  | .grd .. => true
  | .gclk .. => true
  | .gstep .. => true
  | .grun .. => true
  | .ghalt .. => true
  | .gsave .. => true
  | .grest .. => true
  | .gstat .. => true
  | .ginj .. => true
  | .gtap .. => true
  | .qrsv .. => true
  | .qpush .. => true
  | .qpop .. => true
  | .qrel .. => true
  | .qflush .. => true
  | .qmark .. => true
  | .qmarkH .. => true
  | .ald .. => true
  | .ast .. => true
  | .aopRed .. => true
  | .aopCmpx .. => true
  | .aopSacc .. => true
  | .aopDot .. => true
  | .vproj .. => true
  | .vprojLap2 .. => true
  | .hmerge .. => true
  | .hread .. => true
  | .snorm .. => true
  | .sdraw .. => true
  | .slabel .. => true
  | .cqpush .. => true
  | .cqpushNb .. => true
  | .wmwait .. => true
  | .barArrive .. => true
  | .barExpect .. => true
  | .barWait .. => true
  | .barTry .. => true
  | .trapEntry => false
  | .draughtInstructionLimit => false
  | .slotFreeze => false
  | .bindSeedTask => false
  | .bindStageTasks => false
  | .bindTileTask => false
  | .accessAtHome => false
  | .accessReply => false
  | .amoStep => false
  | .amsendArrival => false
  | .letterboxAccept => false
  | .amsendReply => false
  | .handlerStart => false
  | .handlerLongAbort => false
  | .copyStart => false
  | .copyComplete => false
  | .nputLanding => false
  | .granuleSave => false
  | .granuleRestore => false
  | .matrixOpBegin => false
  | .matrixOpComplete => false
  | .geyserBoundary => false
  | .geyserClockHalt => false
  | .geyserLinkIncrement => false
  | .gsaveComplete => false
  | .grestComplete => false
  | .reservationAtHome => false
  | .reservationGrant => false
  | .commitAtHome => false
  | .releaseAtHome => false
  | .linkedRelease => false
  | .drainEnd => false
  | .drainAllowanceExpiry => false
  | .draughtForward => false
  | .columnFault => false
  | .readySlotTimeout => false
  | .aldLineLanding => false
  | .astLineWrite => false
  | .astAcknowledgement => false
  | .atticScrub => false
  | .partLoss => false
  | .aopAccept => false
  | .aopBegin => false
  | .aopComplete => false
  | .launch => false
  | .preempt => false
  | .preemptAndHold => false
  | .resume => false
  | .endPartition => false
  | .recq => false
  | .heldWriteTaken => false
  | .portseed => false
  | .admission => false
  | .configComplete => false
  | .lendingSample => false
  | .coreHandover => false
  | .recordCompletion => false
  | .partitionHalted => false
  | .restoreComplete => false
  | .modelSwitch => false
  | .switchRebind => false
  | .columnRestart => false
  | .invalidatePage => false
  | .invalidatePartition => false
  | .invalidateAll => false
  | .invalidationComplete => false
  | .rangeWrite => false
  | .pageWalkComplete => false
  | .dwq => false
  | .dwqp => false
  | .dwqr => false
  | .dumbwaiterStart => false
  | .dumbwaiterComplete => false
  | .dumbwaiterChannelFault => false
  | .bcfgWrite => false
  | .blinkWrite => false
  | .barrierArrival => false
  | .barrierExpect => false
  | .barrierDecrement => false
  | .barrierPhaseComplete => false
  | .barrierGroupRelease => false
  | .barrierWindowClose => false
  | .arrivalToken => false
  | .releaseToken => false
  | .breakToken => false
  | .gddrBurstError => false
  | .hmergeSourceAnswer => false
  | .hmergeApply => false
  | .vprojComplete => false
  | .mbin => false
  | .mbinpop => false
  | .mbout => false
  | .mboutpop => false
  | .fdbase => false
  | .flbase => false
  | .kvpool => false
  | .kvsize => false
  | .kvref => false
  | .ajbase => false
  | .cjbase => false
  | .jcons => false
  | .portdone => false
  | .seedReport => false
  | .kvq => false
  | .kvqp => false
  | .alloc => false
  | .append => false
  | .commit => false
  | .fork => false
  | .free => false
  | .lookup => false
  | .insert => false
  | .evict => false
  | .stage => false
  | .pageout => false
  | .pagein => false
  | .fldone => false
  | .ksload => false
  | .keyBlobUnwrap => false
  | .ksown => false
  | .status => false
  | .selftest => false
  | .log => false
  | .attest => false
  | .recover => false
  | .minver => false
  | .unknownCommand => false
  | .coldStart => false
  | .warmStart => false
  | .wakeFromDormant => false
  | .sleepctl => false
  | .wakeFrame => false
  | .mctpWakeMessage => false
  | .dormantAccess => false
  | .throttleRaise => false
  | .throttleLower => false
  | .meshHopFailure => false
  | .flitSend => false
  | .flitReceive => false
  | .flitAcknowledgement => false
  | .laneFailure => false
  | .linkLost => false
  | .rerouteComplete => false
  | .packageOutOfService => false
  | .w1cClear => false
  | .registerWrite => false
  | .localMemoryScrub => false
  | .boardTest => false

/-- Whether a term is well formed: its operand values are ones the encoding allows. -/
def Instr.wf : Instr → Bool
  | .add .. => true
  | .sub .. => true
  | .and .. => true
  | .or .. => true
  | .xor .. => true
  | .sll .. => true
  | .srl .. => true
  | .sra .. => true
  | .slt .. => true
  | .slto .. => true
  | .min .. => true
  | .max .. => true
  | .minw .. => true
  | .maxw .. => true
  | .mul .. => true
  | .mulh .. => true
  | .mulhw .. => true
  | .div .. => true
  | .divw .. => true
  | .rem .. => true
  | .remw .. => true
  | .clz .. => true
  | .ctz .. => true
  | .popc .. => true
  | .sext _ _ _ c => c.toNat ≤ 2
  | .zext _ _ _ c => c.toNat ≤ 2
  | .addsh .. => true
  | .csel .. => true
  | .chcfg _ c _ _ l => c.toNat < 4 && l.toNat ≤ 2
  | .chidx _ _ c l => c.toNat < 4 && l.toNat ≤ 2
  | .addi .. => true
  | .andi .. => true
  | .ori .. => true
  | .xori .. => true
  | .slti .. => true
  | .slli .. => true
  | .srli .. => true
  | .srai .. => true
  | .bfx _ _ _ l p => p.toNat + l.toNat < 64
  | .bfi _ _ _ l p => p.toNat + l.toNat < 64
  | .lih .. => true
  | .jal .. => true
  | .jalr .. => true
  | .beq .. => true
  | .bne .. => true
  | .blt .. => true
  | .bge .. => true
  | .blo .. => true
  | .bhs .. => true
  | .chloop _ c _ => c.toNat < 4
  | .ld .. => true
  | .ldz _ _ _ s _ => s.toNat ≤ 2
  | .st .. => true
  | .ldgW .. => true
  | .ldgD .. => true
  | .stgW .. => true
  | .stgD .. => true
  | .ldbit .. => true
  | .stbit .. => true
  | .amoAdd .. => true
  | .amoAnd .. => true
  | .amoOr .. => true
  | .amoXor .. => true
  | .amoMin .. => true
  | .amoMax .. => true
  | .amoMinw .. => true
  | .amoMaxw .. => true
  | .amoSwap .. => true
  | .amoCas .. => true
  | .amsend _ _ _ m n _ => n == 1 || m == 0
  | .nput .. => true
  | .nclr .. => true
  | .ccinc .. => true
  | .ccset .. => true
  | .waitlt .. => true
  | .csrr _ _ r => csrAssigned r.toNat
  | .csrw _ _ _ r => csrAssigned r.toNat
  | .csrs _ _ _ r => csrAssigned r.toNat
  | .csrc _ _ _ r => csrAssigned r.toNat
  | .tret .. => true
  | .done .. => true
  | .yield .. => true
  | .isync .. => true
  | .fenceTask .. => true
  | .fenceCore .. => true
  | .fenceCol .. => true
  | .fenceDie .. => true
  | .fencePkg .. => true
  | .fenceCard .. => true
  | .spl _ _ f _ c => f.toNat + c.toNat + 1 ≤ 32
  | .fil _ _ f _ c => f.toNat + c.toNat + 1 ≤ 32
  | .svc .. => true
  | .brk .. => true
  | .vadd _ t _ _ _ _ => t.toNat ≤ 8
  | .vsub _ t _ _ _ _ => t.toNat ≤ 8
  | .vmul _ t _ _ _ _ => t.toNat ≤ 8
  | .vmin _ t _ _ _ _ => t.toNat ≤ 8
  | .vmax _ t _ _ _ _ => t.toNat ≤ 8
  | .vabs _ t _ _ _ => t.toNat ≤ 2 || (6 ≤ t.toNat && t.toNat ≤ 8)
  | .vneg _ t _ _ _ => t.toNat ≤ 2 || (6 ≤ t.toNat && t.toNat ≤ 8)
  | .vadds _ t _ _ _ _ => t.toNat ≤ 5
  | .vsubs _ t _ _ _ _ => t.toNat ≤ 5
  | .vmulh _ t _ _ _ _ => t.toNat ≤ 5
  | .vand _ t _ _ _ _ => t.toNat ≤ 5
  | .vor _ t _ _ _ _ => t.toNat ≤ 5
  | .vxor _ t _ _ _ _ => t.toNat ≤ 5
  | .vsll _ t _ _ _ _ => t.toNat ≤ 5
  | .vsrl _ t _ _ _ _ => t.toNat ≤ 5
  | .vsra _ t _ _ _ _ => t.toNat ≤ 2
  | .vceq _ t d _ _ _ => t.toNat ≤ 8 && d.toNat < 8
  | .vcne _ t d _ _ _ => t.toNat ≤ 8 && d.toNat < 8
  | .vclt _ t d _ _ _ => t.toNat ≤ 8 && d.toNat < 8
  | .vcle _ t d _ _ _ => t.toNat ≤ 8 && d.toNat < 8
  | .vredsum _ t _ _ _ => t.toNat ≤ 8
  | .vredmin _ t _ _ _ => t.toNat ≤ 8
  | .vredmax _ t _ _ _ => t.toNat ≤ 8
  | .vsel _ t _ _ _ _ => t.toNat ≤ 8
  | .vdiv _ t _ _ _ _ => 6 ≤ t.toNat && t.toNat ≤ 8
  | .vsqrt _ t _ _ _ => 6 ≤ t.toNat && t.toNat ≤ 8
  | .vcvt _ _ _ s _ c => isWideCode s.toNat && isWideCode c.toNat && s != c
  | .vpack _ _ _ f _ _ => isNarrowCode f.toNat
  | .vunpack _ _ _ f _ _ => isNarrowCode f.toNat
  | .vbscale _ _ _ f _ p => isNarrowCode f.toNat && p.toNat < 2
  | .vbhdr _ _ _ f _ _ => isNarrowCode f.toNat
  | .vmov .. => true
  | .vbcast _ _ _ c => c.toNat < 4
  | .vperm .. => true
  | .vslideup .. => true
  | .vslidedn .. => true
  | .vxget _ _ _ _ c => c.toNat < 4
  | .vxput _ _ _ _ c => c.toNat < 4
  | .vrget .. => true
  | .vmand _ d a b => d.toNat < 8 && a.toNat < 8 && b.toNat < 8
  | .vmor _ d a b => d.toNat < 8 && a.toNat < 8 && b.toNat < 8
  | .vmxor _ d a b => d.toNat < 8 && a.toNat < 8 && b.toNat < 8
  | .vmnot _ d a => d.toNat < 8 && a.toNat < 8
  | .vmset _ d _ => d.toNat < 8
  | .vmget _ _ a => a.toNat < 8
  | .vfmaF32 .. => true
  | .vfmaF16 .. => true
  | .vfmaBf16 .. => true
  | .vfnmaF32 .. => true
  | .vfnmaF16 .. => true
  | .vfnmaBf16 .. => true
  | .vmaccS32 .. => true
  | .vmaccW32 .. => true
  | .vld .. => true
  | .vst .. => true
  | .vexp2 _ _ _ _ t => t.toNat < 3
  | .vlog2 _ _ _ _ t => t.toNat < 3
  | .vrcp _ _ _ _ t => t.toNat < 3
  | .vrsqrt _ _ _ _ t => t.toNat < 3
  | .vtanh _ _ _ _ t => t.toNat < 3
  | .vsin _ _ _ _ t => t.toNat < 3
  | .vcos _ _ _ _ t => t.toNat < 3
  | .vsigm _ _ _ _ t => t.toNat < 3
  | .mwr .. => true
  | .mlds .. => true
  | .mswap .. => true
  | .mstr .. => true
  | .macfg .. => true
  | .marel .. => true
  | .mgang .. => true
  | .mwait .. => true
  | .mrd _ _ _ _ _ f => isMrdCode f.toNat
  | .gpatch .. => true
  | .gcell _ _ _ f => f.toNat ≤ 2
  | .grd .. => true
  | .gclk .. => true
  | .gstep _ _ m c _ => c == 1 || m == 0
  | .grun _ m c _ => c == 1 || m == 0
  | .ghalt .. => true
  | .gsave _ _ _ m c _ => c == 1 || m == 0
  | .grest _ _ _ m c _ => c == 1 || m == 0
  | .gstat .. => true
  | .ginj .. => true
  | .gtap .. => true
  | .qrsv .. => true
  | .qpush _ _ _ l m _ => l == 1 || m == 0
  | .qpop .. => true
  | .qrel .. => true
  | .qflush .. => true
  | .qmark .. => true
  | .qmarkH .. => true
  | .ald .. => true
  | .ast .. => true
  | .aopRed _ _ n e => e == 1 || n == 0
  | .aopCmpx _ _ n e => e == 1 || n == 0
  | .aopSacc _ _ n e => e == 1 || n == 0
  | .aopDot _ _ n e => e == 1 || n == 0
  | .vproj _ _ m c _ _ => c == 1 || m == 0
  | .vprojLap2 _ _ _ m c => c == 1 || m == 0
  | .hmerge _ _ m c => c == 1 || m == 0
  | .hread .. => true
  | .snorm .. => true
  | .sdraw .. => true
  | .slabel .. => true
  | .cqpush .. => true
  | .cqpushNb .. => true
  | .wmwait .. => true
  | .barArrive .. => true
  | .barExpect .. => true
  | .barWait .. => true
  | .barTry .. => true
  | .trapEntry => true
  | .draughtInstructionLimit => true
  | .slotFreeze => true
  | .bindSeedTask => true
  | .bindStageTasks => true
  | .bindTileTask => true
  | .accessAtHome => true
  | .accessReply => true
  | .amoStep => true
  | .amsendArrival => true
  | .letterboxAccept => true
  | .amsendReply => true
  | .handlerStart => true
  | .handlerLongAbort => true
  | .copyStart => true
  | .copyComplete => true
  | .nputLanding => true
  | .granuleSave => true
  | .granuleRestore => true
  | .matrixOpBegin => true
  | .matrixOpComplete => true
  | .geyserBoundary => true
  | .geyserClockHalt => true
  | .geyserLinkIncrement => true
  | .gsaveComplete => true
  | .grestComplete => true
  | .reservationAtHome => true
  | .reservationGrant => true
  | .commitAtHome => true
  | .releaseAtHome => true
  | .linkedRelease => true
  | .drainEnd => true
  | .drainAllowanceExpiry => true
  | .draughtForward => true
  | .columnFault => true
  | .readySlotTimeout => true
  | .aldLineLanding => true
  | .astLineWrite => true
  | .astAcknowledgement => true
  | .atticScrub => true
  | .partLoss => true
  | .aopAccept => true
  | .aopBegin => true
  | .aopComplete => true
  | .launch => true
  | .preempt => true
  | .preemptAndHold => true
  | .resume => true
  | .endPartition => true
  | .recq => true
  | .heldWriteTaken => true
  | .portseed => true
  | .admission => true
  | .configComplete => true
  | .lendingSample => true
  | .coreHandover => true
  | .recordCompletion => true
  | .partitionHalted => true
  | .restoreComplete => true
  | .modelSwitch => true
  | .switchRebind => true
  | .columnRestart => true
  | .invalidatePage => true
  | .invalidatePartition => true
  | .invalidateAll => true
  | .invalidationComplete => true
  | .rangeWrite => true
  | .pageWalkComplete => true
  | .dwq => true
  | .dwqp => true
  | .dwqr => true
  | .dumbwaiterStart => true
  | .dumbwaiterComplete => true
  | .dumbwaiterChannelFault => true
  | .bcfgWrite => true
  | .blinkWrite => true
  | .barrierArrival => true
  | .barrierExpect => true
  | .barrierDecrement => true
  | .barrierPhaseComplete => true
  | .barrierGroupRelease => true
  | .barrierWindowClose => true
  | .arrivalToken => true
  | .releaseToken => true
  | .breakToken => true
  | .gddrBurstError => true
  | .hmergeSourceAnswer => true
  | .hmergeApply => true
  | .vprojComplete => true
  | .mbin => true
  | .mbinpop => true
  | .mbout => true
  | .mboutpop => true
  | .fdbase => true
  | .flbase => true
  | .kvpool => true
  | .kvsize => true
  | .kvref => true
  | .ajbase => true
  | .cjbase => true
  | .jcons => true
  | .portdone => true
  | .seedReport => true
  | .kvq => true
  | .kvqp => true
  | .alloc => true
  | .append => true
  | .commit => true
  | .fork => true
  | .free => true
  | .lookup => true
  | .insert => true
  | .evict => true
  | .stage => true
  | .pageout => true
  | .pagein => true
  | .fldone => true
  | .ksload => true
  | .keyBlobUnwrap => true
  | .ksown => true
  | .status => true
  | .selftest => true
  | .log => true
  | .attest => true
  | .recover => true
  | .minver => true
  | .unknownCommand => true
  | .coldStart => true
  | .warmStart => true
  | .wakeFromDormant => true
  | .sleepctl => true
  | .wakeFrame => true
  | .mctpWakeMessage => true
  | .dormantAccess => true
  | .throttleRaise => true
  | .throttleLower => true
  | .meshHopFailure => true
  | .flitSend => true
  | .flitReceive => true
  | .flitAcknowledgement => true
  | .laneFailure => true
  | .linkLost => true
  | .rerouteComplete => true
  | .packageOutOfService => true
  | .w1cClear => true
  | .registerWrite => true
  | .localMemoryScrub => true
  | .boardTest => true

end Sys2Proof
end

