-- ==== Sys2Proof/Decode.lean ====
section
/-! DEFINITION. The decoder, total on any word and rejecting by name (R55), and after it the encoder, both written from
the formats of Table 2-3 and the sub-maps of Tables 2-4 to 2-12. -/
namespace Sys2Proof

/-- Why a word is no instruction (R55). -/
inductive DecodeError where
  /-- The major opcode is unassigned. -/
  | major
  /-- The sub-field that selects the operation holds an unassigned value. -/
  | selector
  /-- A reserved or must-be-zero field is non-zero. -/
  | reserved
  /-- A field holds a value that the tables call illegal, or names no register. -/
  | value
  /-- The bits do not make one 32-bit word. -/
  | length
  deriving DecidableEq, Repr

/-- Bits [lo + len - 1 : lo] of a number. -/
def fld (n lo len : Nat) : Nat := n / 2 ^ lo % 2 ^ len

/-- Bits [lo + len - 1 : lo] of a number as a field of that width. -/
def fldv (n lo len : Nat) : BitVec len := BitVec.ofNat len (n / 2 ^ lo)

/-- A candidate whose reserved bits must be zero, and whose operand values must be allowed (R55). -/
def checked (res : Bool) (i : Instr) : Except DecodeError Instr :=
  if res then (if i.wf then .ok i else .error .value) else .error .reserved

/-- Major 0x01. -/
def decMajor01 (n : Nat) : Except DecodeError Instr :=
  if fld n 0 8 = 0 then checked true (.add (fldv n 29 3) (fldv n 18 5) (fldv n 13 5) (fldv n 8 5))
  else if fld n 0 8 = 1 then checked true (.sub (fldv n 29 3) (fldv n 18 5) (fldv n 13 5) (fldv n 8 5))
  else if fld n 0 8 = 2 then checked true (.and (fldv n 29 3) (fldv n 18 5) (fldv n 13 5) (fldv n 8 5))
  else if fld n 0 8 = 3 then checked true (.or (fldv n 29 3) (fldv n 18 5) (fldv n 13 5) (fldv n 8 5))
  else if fld n 0 8 = 4 then checked true (.xor (fldv n 29 3) (fldv n 18 5) (fldv n 13 5) (fldv n 8 5))
  else if fld n 0 8 = 5 then checked true (.sll (fldv n 29 3) (fldv n 18 5) (fldv n 13 5) (fldv n 8 5))
  else if fld n 0 8 = 6 then checked true (.srl (fldv n 29 3) (fldv n 18 5) (fldv n 13 5) (fldv n 8 5))
  else if fld n 0 8 = 7 then checked true (.sra (fldv n 29 3) (fldv n 18 5) (fldv n 13 5) (fldv n 8 5))
  else if fld n 0 8 = 8 then checked true (.slt (fldv n 29 3) (fldv n 18 5) (fldv n 13 5) (fldv n 8 5))
  else if fld n 0 8 = 9 then checked true (.slto (fldv n 29 3) (fldv n 18 5) (fldv n 13 5) (fldv n 8 5))
  else if fld n 0 8 = 10 then checked true (.min (fldv n 29 3) (fldv n 18 5) (fldv n 13 5) (fldv n 8 5))
  else if fld n 0 8 = 11 then checked true (.max (fldv n 29 3) (fldv n 18 5) (fldv n 13 5) (fldv n 8 5))
  else if fld n 0 8 = 12 then checked true (.minw (fldv n 29 3) (fldv n 18 5) (fldv n 13 5) (fldv n 8 5))
  else if fld n 0 8 = 13 then checked true (.maxw (fldv n 29 3) (fldv n 18 5) (fldv n 13 5) (fldv n 8 5))
  else if fld n 0 8 = 16 then checked true (.mul (fldv n 29 3) (fldv n 18 5) (fldv n 13 5) (fldv n 8 5))
  else if fld n 0 8 = 17 then checked true (.mulh (fldv n 29 3) (fldv n 18 5) (fldv n 13 5) (fldv n 8 5))
  else if fld n 0 8 = 18 then checked true (.mulhw (fldv n 29 3) (fldv n 18 5) (fldv n 13 5) (fldv n 8 5))
  else if fld n 0 8 = 20 then checked true (.div (fldv n 29 3) (fldv n 18 5) (fldv n 13 5) (fldv n 8 5))
  else if fld n 0 8 = 21 then checked true (.divw (fldv n 29 3) (fldv n 18 5) (fldv n 13 5) (fldv n 8 5))
  else if fld n 0 8 = 22 then checked true (.rem (fldv n 29 3) (fldv n 18 5) (fldv n 13 5) (fldv n 8 5))
  else if fld n 0 8 = 23 then checked true (.remw (fldv n 29 3) (fldv n 18 5) (fldv n 13 5) (fldv n 8 5))
  else if fld n 0 8 = 24 then checked (fld n 8 5 == 0) (.clz (fldv n 29 3) (fldv n 18 5) (fldv n 13 5))
  else if fld n 0 8 = 25 then checked (fld n 8 5 == 0) (.ctz (fldv n 29 3) (fldv n 18 5) (fldv n 13 5))
  else if fld n 0 8 = 26 then checked (fld n 8 5 == 0) (.popc (fldv n 29 3) (fldv n 18 5) (fldv n 13 5))
  else if fld n 0 8 = 28 then checked true (.sext (fldv n 29 3) (fldv n 18 5) (fldv n 13 5) (fldv n 8 5))
  else if fld n 0 8 = 29 then checked true (.zext (fldv n 29 3) (fldv n 18 5) (fldv n 13 5) (fldv n 8 5))
  else if fld n 2 6 = 8 then checked true (.addsh (fldv n 29 3) (fldv n 18 5) (fldv n 13 5) (fldv n 8 5) (fldv n 0 2))
  else if fld n 5 3 = 7 then checked true (.csel (fldv n 29 3) (fldv n 18 5) (fldv n 13 5) (fldv n 8 5) (fldv n 0 5))
  else if fld n 2 6 = 16 then checked true (.chcfg (fldv n 29 3) (fldv n 18 5) (fldv n 13 5) (fldv n 8 5) (fldv n 0 2))
  else if fld n 2 6 = 17 then checked (fld n 8 5 == 0) (.chidx (fldv n 29 3) (fldv n 18 5) (fldv n 13 5) (fldv n 0 2))
  else .error .selector

/-- Major 0x02. -/
def decMajor02 (n : Nat) : Except DecodeError Instr :=
  checked true (.addi (fldv n 29 3) (fldv n 18 5) (fldv n 13 5) (fldv n 0 13))

/-- Major 0x03. -/
def decMajor03 (n : Nat) : Except DecodeError Instr :=
  if fld n 11 2 = 0 then checked true (.andi (fldv n 29 3) (fldv n 18 5) (fldv n 13 5) (fldv n 0 11))
  else if fld n 11 2 = 1 then checked true (.ori (fldv n 29 3) (fldv n 18 5) (fldv n 13 5) (fldv n 0 11))
  else if fld n 11 2 = 2 then checked true (.xori (fldv n 29 3) (fldv n 18 5) (fldv n 13 5) (fldv n 0 11))
  else if fld n 11 2 = 3 then checked true (.slti (fldv n 29 3) (fldv n 18 5) (fldv n 13 5) (fldv n 0 11))
  else .error .selector

/-- Major 0x04. -/
def decMajor04 (n : Nat) : Except DecodeError Instr :=
  if fld n 8 5 = 0 then checked (fld n 6 2 == 0) (.slli (fldv n 29 3) (fldv n 18 5) (fldv n 13 5) (fldv n 0 6))
  else if fld n 8 5 = 1 then checked (fld n 6 2 == 0) (.srli (fldv n 29 3) (fldv n 18 5) (fldv n 13 5) (fldv n 0 6))
  else if fld n 8 5 = 2 then checked (fld n 6 2 == 0) (.srai (fldv n 29 3) (fldv n 18 5) (fldv n 13 5) (fldv n 0 6))
  else .error .selector

/-- Major 0x05. -/
def decMajor05 (n : Nat) : Except DecodeError Instr :=
  if fld n 12 1 = 0 then checked true (.bfx (fldv n 29 3) (fldv n 18 5) (fldv n 13 5) (fldv n 6 6) (fldv n 0 6))
  else if fld n 12 1 = 1 then checked true (.bfi (fldv n 29 3) (fldv n 18 5) (fldv n 13 5) (fldv n 6 6) (fldv n 0 6))
  else .error .selector

/-- Major 0x06. -/
def decMajor06 (n : Nat) : Except DecodeError Instr :=
  checked true (.lih (fldv n 29 3) (fldv n 18 5) (fldv n 0 18))

/-- Major 0x07. -/
def decMajor07 (n : Nat) : Except DecodeError Instr :=
  checked true (.jal (fldv n 29 3) (fldv n 18 5) (fldv n 0 18))

/-- Major 0x08. -/
def decMajor08 (n : Nat) : Except DecodeError Instr :=
  checked true (.jalr (fldv n 29 3) (fldv n 18 5) (fldv n 13 5) (fldv n 0 13))

/-- Major 0x09. -/
def decMajor09 (n : Nat) : Except DecodeError Instr :=
  checked true (.beq (fldv n 29 3) (fldv n 18 5) (fldv n 13 5) (fldv n 0 13))

/-- Major 0x0A. -/
def decMajor0A (n : Nat) : Except DecodeError Instr :=
  checked true (.bne (fldv n 29 3) (fldv n 18 5) (fldv n 13 5) (fldv n 0 13))

/-- Major 0x0B. -/
def decMajor0B (n : Nat) : Except DecodeError Instr :=
  checked true (.blt (fldv n 29 3) (fldv n 18 5) (fldv n 13 5) (fldv n 0 13))

/-- Major 0x0C. -/
def decMajor0C (n : Nat) : Except DecodeError Instr :=
  checked true (.bge (fldv n 29 3) (fldv n 18 5) (fldv n 13 5) (fldv n 0 13))

/-- Major 0x0D. -/
def decMajor0D (n : Nat) : Except DecodeError Instr :=
  checked true (.blo (fldv n 29 3) (fldv n 18 5) (fldv n 13 5) (fldv n 0 13))

/-- Major 0x0E. -/
def decMajor0E (n : Nat) : Except DecodeError Instr :=
  checked true (.bhs (fldv n 29 3) (fldv n 18 5) (fldv n 13 5) (fldv n 0 13))

/-- Major 0x0F. -/
def decMajor0F (n : Nat) : Except DecodeError Instr :=
  checked true (.chloop (fldv n 29 3) (fldv n 18 5) (fldv n 0 18))

/-- Major 0x10. -/
def decMajor10 (n : Nat) : Except DecodeError Instr :=
  checked true (.ld (fldv n 29 3) (fldv n 18 5) (fldv n 13 5) (fldv n 11 2) (fldv n 0 11))

/-- Major 0x11. -/
def decMajor11 (n : Nat) : Except DecodeError Instr :=
  checked true (.ldz (fldv n 29 3) (fldv n 18 5) (fldv n 13 5) (fldv n 11 2) (fldv n 0 11))

/-- Major 0x12. -/
def decMajor12 (n : Nat) : Except DecodeError Instr :=
  checked true (.st (fldv n 29 3) (fldv n 18 5) (fldv n 13 5) (fldv n 11 2) (fldv n 0 11))

/-- Major 0x13. -/
def decMajor13 (n : Nat) : Except DecodeError Instr :=
  checked true (.ldgW (fldv n 29 3) (fldv n 18 5) (fldv n 13 5) (fldv n 11 2) (fldv n 0 11))

/-- Major 0x14. -/
def decMajor14 (n : Nat) : Except DecodeError Instr :=
  checked true (.ldgD (fldv n 29 3) (fldv n 18 5) (fldv n 13 5) (fldv n 11 2) (fldv n 0 11))

/-- Major 0x15. -/
def decMajor15 (n : Nat) : Except DecodeError Instr :=
  checked true (.stgW (fldv n 29 3) (fldv n 18 5) (fldv n 13 5) (fldv n 11 2) (fldv n 0 11))

/-- Major 0x16. -/
def decMajor16 (n : Nat) : Except DecodeError Instr :=
  checked true (.stgD (fldv n 29 3) (fldv n 18 5) (fldv n 13 5) (fldv n 11 2) (fldv n 0 11))

/-- Major 0x17. -/
def decMajor17 (n : Nat) : Except DecodeError Instr :=
  if fld n 6 2 = 0 then checked (fld n 8 5 == 0) (.ldbit (fldv n 29 3) (fldv n 18 5) (fldv n 13 5) (fldv n 0 6))
  else if fld n 6 2 = 1 then checked (fld n 18 5 == 0) (.stbit (fldv n 29 3) (fldv n 13 5) (fldv n 8 5) (fldv n 0 6))
  else .error .selector

/-- Major 0x18. -/
def decMajor18 (n : Nat) : Except DecodeError Instr :=
  if fld n 4 4 = 0 then checked (fld n 0 1 == 0) (.amoAdd (fldv n 29 3) (fldv n 18 5) (fldv n 13 5) (fldv n 8 5) (fldv n 2 2) (fldv n 1 1))
  else if fld n 4 4 = 1 then checked (fld n 0 1 == 0) (.amoAnd (fldv n 29 3) (fldv n 18 5) (fldv n 13 5) (fldv n 8 5) (fldv n 2 2) (fldv n 1 1))
  else if fld n 4 4 = 2 then checked (fld n 0 1 == 0) (.amoOr (fldv n 29 3) (fldv n 18 5) (fldv n 13 5) (fldv n 8 5) (fldv n 2 2) (fldv n 1 1))
  else if fld n 4 4 = 3 then checked (fld n 0 1 == 0) (.amoXor (fldv n 29 3) (fldv n 18 5) (fldv n 13 5) (fldv n 8 5) (fldv n 2 2) (fldv n 1 1))
  else if fld n 4 4 = 4 then checked (fld n 0 1 == 0) (.amoMin (fldv n 29 3) (fldv n 18 5) (fldv n 13 5) (fldv n 8 5) (fldv n 2 2) (fldv n 1 1))
  else if fld n 4 4 = 5 then checked (fld n 0 1 == 0) (.amoMax (fldv n 29 3) (fldv n 18 5) (fldv n 13 5) (fldv n 8 5) (fldv n 2 2) (fldv n 1 1))
  else if fld n 4 4 = 6 then checked (fld n 0 1 == 0) (.amoMinw (fldv n 29 3) (fldv n 18 5) (fldv n 13 5) (fldv n 8 5) (fldv n 2 2) (fldv n 1 1))
  else if fld n 4 4 = 7 then checked (fld n 0 1 == 0) (.amoMaxw (fldv n 29 3) (fldv n 18 5) (fldv n 13 5) (fldv n 8 5) (fldv n 2 2) (fldv n 1 1))
  else if fld n 4 4 = 8 then checked (fld n 0 1 == 0) (.amoSwap (fldv n 29 3) (fldv n 18 5) (fldv n 13 5) (fldv n 8 5) (fldv n 2 2) (fldv n 1 1))
  else if fld n 4 4 = 9 then checked (fld n 0 1 == 0) (.amoCas (fldv n 29 3) (fldv n 18 5) (fldv n 13 5) (fldv n 8 5) (fldv n 2 2) (fldv n 1 1))
  else .error .selector

/-- Major 0x19. -/
def decMajor19 (n : Nat) : Except DecodeError Instr :=
  if fld n 18 5 = 0 then checked (fld n 2 1 == 0) (.amsend (fldv n 29 3) (fldv n 13 5) (fldv n 8 5) (fldv n 4 4) (fldv n 3 1) (fldv n 0 2))
  else if fld n 18 5 = 1 then checked (fld n 3 2 == 0 && fld n 8 5 == 0) (.nput (fldv n 29 3) (fldv n 13 5) (fldv n 7 1) (fldv n 5 2) (fldv n 0 3))
  else if fld n 18 5 = 2 then checked (fld n 3 15 == 0) (.nclr (fldv n 29 3) (fldv n 0 3))
  else .error .selector

/-- Major 0x1A. -/
def decMajor1A (n : Nat) : Except DecodeError Instr :=
  if fld n 18 5 = 0 then checked (fld n 4 9 == 0) (.ccinc (fldv n 29 3) (fldv n 13 5) (fldv n 0 4))
  else if fld n 18 5 = 1 then checked (fld n 4 9 == 0) (.ccset (fldv n 29 3) (fldv n 13 5) (fldv n 0 4))
  else if fld n 18 5 = 2 then checked (fld n 4 9 == 0) (.waitlt (fldv n 29 3) (fldv n 13 5) (fldv n 0 4))
  else .error .selector

/-- Major 0x1C. -/
def decMajor1C (n : Nat) : Except DecodeError Instr :=
  if fld n 11 2 = 0 then checked (fld n 13 5 == 0) (.csrr (fldv n 29 3) (fldv n 18 5) (fldv n 0 11))
  else if fld n 11 2 = 1 then checked true (.csrw (fldv n 29 3) (fldv n 18 5) (fldv n 13 5) (fldv n 0 11))
  else if fld n 11 2 = 2 then checked true (.csrs (fldv n 29 3) (fldv n 18 5) (fldv n 13 5) (fldv n 0 11))
  else if fld n 11 2 = 3 then checked true (.csrc (fldv n 29 3) (fldv n 18 5) (fldv n 13 5) (fldv n 0 11))
  else .error .selector

/-- Major 0x1D. -/
def decMajor1D (n : Nat) : Except DecodeError Instr :=
  if fld n 0 8 = 1 then checked (fld n 8 15 == 0) (.tret (fldv n 29 3))
  else if fld n 0 8 = 2 then checked (fld n 8 15 == 0) (.done (fldv n 29 3))
  else if fld n 0 8 = 3 then checked (fld n 8 15 == 0) (.yield (fldv n 29 3))
  else if fld n 0 8 = 4 then checked (fld n 8 15 == 0) (.isync (fldv n 29 3))
  else if fld n 0 8 = 8 then checked (fld n 8 15 == 0) (.fenceTask (fldv n 29 3))
  else if fld n 0 8 = 9 then checked (fld n 8 15 == 0) (.fenceCore (fldv n 29 3))
  else if fld n 0 8 = 10 then checked (fld n 8 15 == 0) (.fenceCol (fldv n 29 3))
  else if fld n 0 8 = 11 then checked (fld n 8 15 == 0) (.fenceDie (fldv n 29 3))
  else if fld n 0 8 = 12 then checked (fld n 8 15 == 0) (.fencePkg (fldv n 29 3))
  else if fld n 0 8 = 13 then checked (fld n 8 15 == 0) (.fenceCard (fldv n 29 3))
  else if fld n 0 8 = 16 then checked true (.spl (fldv n 29 3) (fldv n 18 5) (fldv n 13 5) (fldv n 12 1) (fldv n 8 4))
  else if fld n 0 8 = 17 then checked true (.fil (fldv n 29 3) (fldv n 18 5) (fldv n 13 5) (fldv n 12 1) (fldv n 8 4))
  else .error .selector

/-- Major 0x1E. -/
def decMajor1E (n : Nat) : Except DecodeError Instr :=
  if fld n 18 5 = 0 then checked true (.svc (fldv n 29 3) (fldv n 0 18))
  else if fld n 18 5 = 1 then checked true (.brk (fldv n 29 3) (fldv n 0 18))
  else .error .selector

/-- Major 0x20-0x28: typed vector operations. -/
def decMajor20 (n : Nat) : Except DecodeError Instr :=
  if fld n 0 5 = 0 then checked true (.vadd (fldv n 29 3) (fldv n 23 4) (fldv n 18 5) (fldv n 13 5) (fldv n 8 5) (fldv n 5 3))
  else if fld n 0 5 = 1 then checked true (.vsub (fldv n 29 3) (fldv n 23 4) (fldv n 18 5) (fldv n 13 5) (fldv n 8 5) (fldv n 5 3))
  else if fld n 0 5 = 2 then checked true (.vmul (fldv n 29 3) (fldv n 23 4) (fldv n 18 5) (fldv n 13 5) (fldv n 8 5) (fldv n 5 3))
  else if fld n 0 5 = 3 then checked true (.vmin (fldv n 29 3) (fldv n 23 4) (fldv n 18 5) (fldv n 13 5) (fldv n 8 5) (fldv n 5 3))
  else if fld n 0 5 = 4 then checked true (.vmax (fldv n 29 3) (fldv n 23 4) (fldv n 18 5) (fldv n 13 5) (fldv n 8 5) (fldv n 5 3))
  else if fld n 0 5 = 5 then checked (fld n 8 5 == 0) (.vabs (fldv n 29 3) (fldv n 23 4) (fldv n 18 5) (fldv n 13 5) (fldv n 5 3))
  else if fld n 0 5 = 6 then checked (fld n 8 5 == 0) (.vneg (fldv n 29 3) (fldv n 23 4) (fldv n 18 5) (fldv n 13 5) (fldv n 5 3))
  else if fld n 0 5 = 7 then checked true (.vadds (fldv n 29 3) (fldv n 23 4) (fldv n 18 5) (fldv n 13 5) (fldv n 8 5) (fldv n 5 3))
  else if fld n 0 5 = 8 then checked true (.vsubs (fldv n 29 3) (fldv n 23 4) (fldv n 18 5) (fldv n 13 5) (fldv n 8 5) (fldv n 5 3))
  else if fld n 0 5 = 9 then checked true (.vmulh (fldv n 29 3) (fldv n 23 4) (fldv n 18 5) (fldv n 13 5) (fldv n 8 5) (fldv n 5 3))
  else if fld n 0 5 = 10 then checked true (.vand (fldv n 29 3) (fldv n 23 4) (fldv n 18 5) (fldv n 13 5) (fldv n 8 5) (fldv n 5 3))
  else if fld n 0 5 = 11 then checked true (.vor (fldv n 29 3) (fldv n 23 4) (fldv n 18 5) (fldv n 13 5) (fldv n 8 5) (fldv n 5 3))
  else if fld n 0 5 = 12 then checked true (.vxor (fldv n 29 3) (fldv n 23 4) (fldv n 18 5) (fldv n 13 5) (fldv n 8 5) (fldv n 5 3))
  else if fld n 0 5 = 13 then checked true (.vsll (fldv n 29 3) (fldv n 23 4) (fldv n 18 5) (fldv n 13 5) (fldv n 8 5) (fldv n 5 3))
  else if fld n 0 5 = 14 then checked true (.vsrl (fldv n 29 3) (fldv n 23 4) (fldv n 18 5) (fldv n 13 5) (fldv n 8 5) (fldv n 5 3))
  else if fld n 0 5 = 15 then checked true (.vsra (fldv n 29 3) (fldv n 23 4) (fldv n 18 5) (fldv n 13 5) (fldv n 8 5) (fldv n 5 3))
  else if fld n 0 5 = 16 then checked true (.vceq (fldv n 29 3) (fldv n 23 4) (fldv n 18 5) (fldv n 13 5) (fldv n 8 5) (fldv n 5 3))
  else if fld n 0 5 = 17 then checked true (.vcne (fldv n 29 3) (fldv n 23 4) (fldv n 18 5) (fldv n 13 5) (fldv n 8 5) (fldv n 5 3))
  else if fld n 0 5 = 18 then checked true (.vclt (fldv n 29 3) (fldv n 23 4) (fldv n 18 5) (fldv n 13 5) (fldv n 8 5) (fldv n 5 3))
  else if fld n 0 5 = 19 then checked true (.vcle (fldv n 29 3) (fldv n 23 4) (fldv n 18 5) (fldv n 13 5) (fldv n 8 5) (fldv n 5 3))
  else if fld n 0 5 = 20 then checked (fld n 8 5 == 0) (.vredsum (fldv n 29 3) (fldv n 23 4) (fldv n 18 5) (fldv n 13 5) (fldv n 5 3))
  else if fld n 0 5 = 21 then checked (fld n 8 5 == 0) (.vredmin (fldv n 29 3) (fldv n 23 4) (fldv n 18 5) (fldv n 13 5) (fldv n 5 3))
  else if fld n 0 5 = 22 then checked (fld n 8 5 == 0) (.vredmax (fldv n 29 3) (fldv n 23 4) (fldv n 18 5) (fldv n 13 5) (fldv n 5 3))
  else if fld n 0 5 = 23 then checked true (.vsel (fldv n 29 3) (fldv n 23 4) (fldv n 18 5) (fldv n 13 5) (fldv n 8 5) (fldv n 5 3))
  else if fld n 0 5 = 24 then checked true (.vdiv (fldv n 29 3) (fldv n 23 4) (fldv n 18 5) (fldv n 13 5) (fldv n 8 5) (fldv n 5 3))
  else if fld n 0 5 = 25 then checked (fld n 8 5 == 0) (.vsqrt (fldv n 29 3) (fldv n 23 4) (fldv n 18 5) (fldv n 13 5) (fldv n 5 3))
  else .error .selector

/-- Major 0x29. -/
def decMajor29 (n : Nat) : Except DecodeError Instr :=
  checked true (.vcvt (fldv n 29 3) (fldv n 18 5) (fldv n 13 5) (fldv n 8 5) (fldv n 5 3) (fldv n 0 5))

/-- Major 0x2A. -/
def decMajor2A (n : Nat) : Except DecodeError Instr :=
  if fld n 2 3 = 0 then checked true (.vpack (fldv n 29 3) (fldv n 18 5) (fldv n 13 5) (fldv n 8 5) (fldv n 5 3) (fldv n 0 2))
  else if fld n 2 3 = 1 then checked true (.vunpack (fldv n 29 3) (fldv n 18 5) (fldv n 13 5) (fldv n 8 5) (fldv n 5 3) (fldv n 0 2))
  else if fld n 2 3 = 2 then checked true (.vbscale (fldv n 29 3) (fldv n 18 5) (fldv n 13 5) (fldv n 8 5) (fldv n 5 3) (fldv n 0 2))
  else if fld n 2 3 = 3 then checked true (.vbhdr (fldv n 29 3) (fldv n 18 5) (fldv n 13 5) (fldv n 8 5) (fldv n 5 3) (fldv n 0 2))
  else .error .selector

/-- Major 0x2B. -/
def decMajor2B (n : Nat) : Except DecodeError Instr :=
  if fld n 0 5 = 0 then checked (fld n 8 5 == 0) (.vmov (fldv n 29 3) (fldv n 18 5) (fldv n 13 5) (fldv n 5 3))
  else if fld n 0 5 = 1 then checked (fld n 8 5 == 0) (.vbcast (fldv n 29 3) (fldv n 18 5) (fldv n 13 5) (fldv n 5 3))
  else if fld n 0 5 = 2 then checked true (.vperm (fldv n 29 3) (fldv n 18 5) (fldv n 13 5) (fldv n 8 5) (fldv n 5 3))
  else if fld n 0 5 = 3 then checked true (.vslideup (fldv n 29 3) (fldv n 18 5) (fldv n 13 5) (fldv n 8 5) (fldv n 5 3))
  else if fld n 0 5 = 4 then checked true (.vslidedn (fldv n 29 3) (fldv n 18 5) (fldv n 13 5) (fldv n 8 5) (fldv n 5 3))
  else if fld n 0 5 = 5 then checked true (.vxget (fldv n 29 3) (fldv n 18 5) (fldv n 13 5) (fldv n 8 5) (fldv n 5 3))
  else if fld n 0 5 = 6 then checked true (.vxput (fldv n 29 3) (fldv n 18 5) (fldv n 13 5) (fldv n 8 5) (fldv n 5 3))
  else if fld n 0 5 = 7 then checked (fld n 8 5 == 0) (.vrget (fldv n 29 3) (fldv n 18 5) (fldv n 13 5) (fldv n 5 3))
  else if fld n 0 5 = 16 then checked (fld n 5 3 == 0) (.vmand (fldv n 29 3) (fldv n 18 5) (fldv n 13 5) (fldv n 8 5))
  else if fld n 0 5 = 17 then checked (fld n 5 3 == 0) (.vmor (fldv n 29 3) (fldv n 18 5) (fldv n 13 5) (fldv n 8 5))
  else if fld n 0 5 = 18 then checked (fld n 5 3 == 0) (.vmxor (fldv n 29 3) (fldv n 18 5) (fldv n 13 5) (fldv n 8 5))
  else if fld n 0 5 = 19 then checked (fld n 5 8 == 0) (.vmnot (fldv n 29 3) (fldv n 18 5) (fldv n 13 5))
  else if fld n 0 5 = 20 then checked (fld n 5 8 == 0) (.vmset (fldv n 29 3) (fldv n 18 5) (fldv n 13 5))
  else if fld n 0 5 = 21 then checked (fld n 5 8 == 0) (.vmget (fldv n 29 3) (fldv n 18 5) (fldv n 13 5))
  else .error .selector

/-- Major 0x2C. -/
def decMajor2C (n : Nat) : Except DecodeError Instr :=
  if fld n 0 3 = 0 then checked true (.vfmaF32 (fldv n 29 3) (fldv n 18 5) (fldv n 13 5) (fldv n 8 5) (fldv n 3 5))
  else if fld n 0 3 = 1 then checked true (.vfmaF16 (fldv n 29 3) (fldv n 18 5) (fldv n 13 5) (fldv n 8 5) (fldv n 3 5))
  else if fld n 0 3 = 2 then checked true (.vfmaBf16 (fldv n 29 3) (fldv n 18 5) (fldv n 13 5) (fldv n 8 5) (fldv n 3 5))
  else if fld n 0 3 = 3 then checked true (.vfnmaF32 (fldv n 29 3) (fldv n 18 5) (fldv n 13 5) (fldv n 8 5) (fldv n 3 5))
  else if fld n 0 3 = 4 then checked true (.vfnmaF16 (fldv n 29 3) (fldv n 18 5) (fldv n 13 5) (fldv n 8 5) (fldv n 3 5))
  else if fld n 0 3 = 5 then checked true (.vfnmaBf16 (fldv n 29 3) (fldv n 18 5) (fldv n 13 5) (fldv n 8 5) (fldv n 3 5))
  else if fld n 0 3 = 6 then checked true (.vmaccS32 (fldv n 29 3) (fldv n 18 5) (fldv n 13 5) (fldv n 8 5) (fldv n 3 5))
  else if fld n 0 3 = 7 then checked true (.vmaccW32 (fldv n 29 3) (fldv n 18 5) (fldv n 13 5) (fldv n 8 5) (fldv n 3 5))
  else .error .selector

/-- Major 0x2D. -/
def decMajor2D (n : Nat) : Except DecodeError Instr :=
  checked (fld n 11 2 == 0) (.vld (fldv n 29 3) (fldv n 18 5) (fldv n 13 5) (fldv n 0 11))

/-- Major 0x2E. -/
def decMajor2E (n : Nat) : Except DecodeError Instr :=
  checked (fld n 11 2 == 0) (.vst (fldv n 29 3) (fldv n 18 5) (fldv n 13 5) (fldv n 0 11))

/-- Major 0x2F. -/
def decMajor2F (n : Nat) : Except DecodeError Instr :=
  if fld n 0 3 = 0 then checked (fld n 8 5 == 0) (.vexp2 (fldv n 29 3) (fldv n 18 5) (fldv n 13 5) (fldv n 5 3) (fldv n 3 2))
  else if fld n 0 3 = 1 then checked (fld n 8 5 == 0) (.vlog2 (fldv n 29 3) (fldv n 18 5) (fldv n 13 5) (fldv n 5 3) (fldv n 3 2))
  else if fld n 0 3 = 2 then checked (fld n 8 5 == 0) (.vrcp (fldv n 29 3) (fldv n 18 5) (fldv n 13 5) (fldv n 5 3) (fldv n 3 2))
  else if fld n 0 3 = 3 then checked (fld n 8 5 == 0) (.vrsqrt (fldv n 29 3) (fldv n 18 5) (fldv n 13 5) (fldv n 5 3) (fldv n 3 2))
  else if fld n 0 3 = 4 then checked (fld n 8 5 == 0) (.vtanh (fldv n 29 3) (fldv n 18 5) (fldv n 13 5) (fldv n 5 3) (fldv n 3 2))
  else if fld n 0 3 = 5 then checked (fld n 8 5 == 0) (.vsin (fldv n 29 3) (fldv n 18 5) (fldv n 13 5) (fldv n 5 3) (fldv n 3 2))
  else if fld n 0 3 = 6 then checked (fld n 8 5 == 0) (.vcos (fldv n 29 3) (fldv n 18 5) (fldv n 13 5) (fldv n 5 3) (fldv n 3 2))
  else if fld n 0 3 = 7 then checked (fld n 8 5 == 0) (.vsigm (fldv n 29 3) (fldv n 18 5) (fldv n 13 5) (fldv n 5 3) (fldv n 3 2))
  else .error .selector

/-- Major 0x30. -/
def decMajor30 (n : Nat) : Except DecodeError Instr :=
  if fld n 18 5 = 0 then checked (fld n 0 3 == 0 && fld n 8 5 == 0) (.mwr (fldv n 29 3) (fldv n 13 5) (fldv n 5 3) (fldv n 3 2))
  else if fld n 18 5 = 1 then checked (fld n 0 5 == 0) (.mlds (fldv n 29 3) (fldv n 13 5) (fldv n 8 5) (fldv n 5 3))
  else if fld n 18 5 = 2 then checked (fld n 0 18 == 0) (.mswap (fldv n 29 3))
  else if fld n 18 5 = 3 then checked true (.mstr (fldv n 29 3) (fldv n 13 5) (fldv n 8 5) (fldv n 5 3) (fldv n 2 3) (fldv n 1 1) (fldv n 0 1))
  else if fld n 18 5 = 4 then checked (fld n 3 1 == 0 && fld n 5 8 == 0) (.macfg (fldv n 29 3) (fldv n 13 5) (fldv n 4 1) (fldv n 0 3))
  else if fld n 18 5 = 5 then checked (fld n 3 1 == 0 && fld n 5 13 == 0) (.marel (fldv n 29 3) (fldv n 4 1) (fldv n 0 3))
  else if fld n 18 5 = 6 then checked (fld n 0 8 == 0) (.mgang (fldv n 29 3) (fldv n 13 5) (fldv n 8 5))
  else if fld n 18 5 = 7 then checked (fld n 0 18 == 0) (.mwait (fldv n 29 3))
  else .error .selector

/-- Major 0x31. -/
def decMajor31 (n : Nat) : Except DecodeError Instr :=
  checked (fld n 11 2 == 0) (.mrd (fldv n 29 3) (fldv n 18 5) (fldv n 13 5) (fldv n 8 3) (fldv n 5 3) (fldv n 0 5))

/-- Major 0x38. -/
def decMajor38 (n : Nat) : Except DecodeError Instr :=
  if fld n 18 5 = 0 then checked (fld n 0 8 == 0) (.gpatch (fldv n 29 3) (fldv n 13 5) (fldv n 8 5))
  else if fld n 18 5 = 1 then checked (fld n 2 6 == 0) (.gcell (fldv n 29 3) (fldv n 13 5) (fldv n 8 5) (fldv n 0 2))
  else if fld n 18 5 = 2 then checked (fld n 0 8 == 0) (.grd (fldv n 29 3) (fldv n 13 5) (fldv n 8 5))
  else if fld n 18 5 = 3 then checked (fld n 2 11 == 0) (.gclk (fldv n 29 3) (fldv n 13 5) (fldv n 0 2))
  else if fld n 18 5 = 4 then checked (fld n 2 1 == 0 && fld n 8 5 == 0) (.gstep (fldv n 29 3) (fldv n 13 5) (fldv n 4 4) (fldv n 3 1) (fldv n 0 2))
  else if fld n 18 5 = 5 then checked (fld n 2 1 == 0 && fld n 8 10 == 0) (.grun (fldv n 29 3) (fldv n 4 4) (fldv n 3 1) (fldv n 0 2))
  else if fld n 18 5 = 6 then checked (fld n 2 16 == 0) (.ghalt (fldv n 29 3) (fldv n 0 2))
  else if fld n 18 5 = 7 then checked (fld n 1 2 == 0) (.gsave (fldv n 29 3) (fldv n 13 5) (fldv n 8 5) (fldv n 4 4) (fldv n 3 1) (fldv n 0 1))
  else if fld n 18 5 = 8 then checked (fld n 1 2 == 0) (.grest (fldv n 29 3) (fldv n 13 5) (fldv n 8 5) (fldv n 4 4) (fldv n 3 1) (fldv n 0 1))
  else if fld n 18 5 = 9 then checked (fld n 0 8 == 0) (.gstat (fldv n 29 3) (fldv n 13 5) (fldv n 8 5))
  else .error .selector

/-- Major 0x39. -/
def decMajor39 (n : Nat) : Except DecodeError Instr :=
  if fld n 0 5 = 0 then checked (fld n 8 5 == 0 && fld n 18 5 == 0) (.ginj (fldv n 29 3) (fldv n 13 5) (fldv n 5 3))
  else if fld n 0 5 = 1 then checked (fld n 8 5 == 0) (.gtap (fldv n 29 3) (fldv n 18 5) (fldv n 13 5) (fldv n 5 3))
  else .error .selector

/-- Major 0x3C. -/
def decMajor3C (n : Nat) : Except DecodeError Instr :=
  if fld n 18 5 = 0 then checked (fld n 3 5 == 0 && fld n 13 5 == 0) (.qrsv (fldv n 29 3) (fldv n 8 5) (fldv n 0 3))
  else if fld n 18 5 = 1 then checked (fld n 3 1 == 0) (.qpush (fldv n 29 3) (fldv n 13 5) (fldv n 8 5) (fldv n 7 1) (fldv n 4 3) (fldv n 0 3))
  else if fld n 18 5 = 2 then checked (fld n 3 5 == 0 && fld n 13 5 == 0) (.qpop (fldv n 29 3) (fldv n 8 5) (fldv n 0 3))
  else if fld n 18 5 = 3 then checked (fld n 3 15 == 0) (.qrel (fldv n 29 3) (fldv n 0 3))
  else if fld n 18 5 = 4 then checked (fld n 3 10 == 0) (.qflush (fldv n 29 3) (fldv n 13 5) (fldv n 0 3))
  else if fld n 18 5 = 5 ∧ fld n 3 1 = 0 then checked (fld n 4 9 == 0) (.qmark (fldv n 29 3) (fldv n 13 5) (fldv n 0 3))
  else if fld n 18 5 = 5 ∧ fld n 3 1 = 1 then checked (fld n 4 9 == 0) (.qmarkH (fldv n 29 3) (fldv n 13 5) (fldv n 0 3))
  else if fld n 18 5 = 8 then checked (fld n 6 2 == 0) (.ald (fldv n 29 3) (fldv n 13 5) (fldv n 8 5) (fldv n 0 6))
  else if fld n 18 5 = 9 then checked (fld n 6 2 == 0) (.ast (fldv n 29 3) (fldv n 13 5) (fldv n 8 5) (fldv n 0 6))
  else if fld n 18 5 = 12 then checked (fld n 0 4 == 0 && fld n 8 5 == 0) (.aopRed (fldv n 29 3) (fldv n 13 5) (fldv n 5 3) (fldv n 4 1))
  else if fld n 18 5 = 13 then checked (fld n 0 4 == 0 && fld n 8 5 == 0) (.aopCmpx (fldv n 29 3) (fldv n 13 5) (fldv n 5 3) (fldv n 4 1))
  else if fld n 18 5 = 14 then checked (fld n 0 4 == 0 && fld n 8 5 == 0) (.aopSacc (fldv n 29 3) (fldv n 13 5) (fldv n 5 3) (fldv n 4 1))
  else if fld n 18 5 = 15 then checked (fld n 0 4 == 0 && fld n 8 5 == 0) (.aopDot (fldv n 29 3) (fldv n 13 5) (fldv n 5 3) (fldv n 4 1))
  else .error .selector

/-- Major 0x3D. -/
def decMajor3D (n : Nat) : Except DecodeError Instr :=
  if fld n 18 5 = 0 ∧ fld n 2 1 = 0 then checked (fld n 8 5 == 0) (.vproj (fldv n 29 3) (fldv n 13 5) (fldv n 4 4) (fldv n 3 1) (fldv n 1 1) (fldv n 0 1))
  else if fld n 18 5 = 0 ∧ fld n 2 1 = 1 then checked (fld n 0 2 == 0) (.vprojLap2 (fldv n 29 3) (fldv n 13 5) (fldv n 8 5) (fldv n 4 4) (fldv n 3 1))
  else if fld n 18 5 = 1 then checked (fld n 0 3 == 0 && fld n 8 5 == 0) (.hmerge (fldv n 29 3) (fldv n 13 5) (fldv n 4 4) (fldv n 3 1))
  else if fld n 18 5 = 2 then checked (fld n 0 8 == 0) (.hread (fldv n 29 3) (fldv n 13 5) (fldv n 8 5))
  else if fld n 18 5 = 3 then checked (fld n 0 13 == 0) (.snorm (fldv n 29 3) (fldv n 13 5))
  else if fld n 18 5 = 4 then checked (fld n 0 8 == 0) (.sdraw (fldv n 29 3) (fldv n 13 5) (fldv n 8 5))
  else if fld n 18 5 = 5 then checked (fld n 0 8 == 0) (.slabel (fldv n 29 3) (fldv n 13 5) (fldv n 8 5))
  else .error .selector

/-- Major 0x3E. -/
def decMajor3E (n : Nat) : Except DecodeError Instr :=
  if fld n 18 5 = 0 then checked (fld n 0 1 == 0 && fld n 8 5 == 0) (.cqpush (fldv n 29 3) (fldv n 13 5) (fldv n 5 3) (fldv n 4 1) (fldv n 2 2) (fldv n 1 1))
  else if fld n 18 5 = 1 then checked (fld n 0 1 == 0) (.cqpushNb (fldv n 29 3) (fldv n 13 5) (fldv n 8 5) (fldv n 5 3) (fldv n 4 1) (fldv n 2 2) (fldv n 1 1))
  else if fld n 18 5 = 2 then checked (fld n 3 10 == 0) (.wmwait (fldv n 29 3) (fldv n 13 5) (fldv n 0 3))
  else if fld n 18 5 = 8 then checked (fld n 6 7 == 0) (.barArrive (fldv n 29 3) (fldv n 13 5) (fldv n 0 6))
  else if fld n 18 5 = 9 then checked (fld n 6 7 == 0) (.barExpect (fldv n 29 3) (fldv n 13 5) (fldv n 0 6))
  else if fld n 18 5 = 10 then checked (fld n 6 7 == 0) (.barWait (fldv n 29 3) (fldv n 13 5) (fldv n 0 6))
  else if fld n 18 5 = 11 then checked (fld n 6 2 == 0 && fld n 13 5 == 0) (.barTry (fldv n 29 3) (fldv n 8 5) (fldv n 0 6))
  else .error .selector

/-- The major opcode map (Table 2-4); a major not listed is unassigned. -/
def decodeNat (n : Nat) : Except DecodeError Instr :=
  match fld n 23 6 with
  | 0x01 => decMajor01 n
  | 0x02 => decMajor02 n
  | 0x03 => decMajor03 n
  | 0x04 => decMajor04 n
  | 0x05 => decMajor05 n
  | 0x06 => decMajor06 n
  | 0x07 => decMajor07 n
  | 0x08 => decMajor08 n
  | 0x09 => decMajor09 n
  | 0x0A => decMajor0A n
  | 0x0B => decMajor0B n
  | 0x0C => decMajor0C n
  | 0x0D => decMajor0D n
  | 0x0E => decMajor0E n
  | 0x0F => decMajor0F n
  | 0x10 => decMajor10 n
  | 0x11 => decMajor11 n
  | 0x12 => decMajor12 n
  | 0x13 => decMajor13 n
  | 0x14 => decMajor14 n
  | 0x15 => decMajor15 n
  | 0x16 => decMajor16 n
  | 0x17 => decMajor17 n
  | 0x18 => decMajor18 n
  | 0x19 => decMajor19 n
  | 0x1A => decMajor1A n
  | 0x1C => decMajor1C n
  | 0x1D => decMajor1D n
  | 0x1E => decMajor1E n
  | 0x20 => decMajor20 n
  | 0x21 => decMajor20 n
  | 0x22 => decMajor20 n
  | 0x23 => decMajor20 n
  | 0x24 => decMajor20 n
  | 0x25 => decMajor20 n
  | 0x26 => decMajor20 n
  | 0x27 => decMajor20 n
  | 0x28 => decMajor20 n
  | 0x29 => decMajor29 n
  | 0x2A => decMajor2A n
  | 0x2B => decMajor2B n
  | 0x2C => decMajor2C n
  | 0x2D => decMajor2D n
  | 0x2E => decMajor2E n
  | 0x2F => decMajor2F n
  | 0x30 => decMajor30 n
  | 0x31 => decMajor31 n
  | 0x38 => decMajor38 n
  | 0x39 => decMajor39 n
  | 0x3C => decMajor3C n
  | 0x3D => decMajor3D n
  | 0x3E => decMajor3E n
  | _ => .error .major

/-- The instruction a word holds, or why it holds none (R32, R55). -/
def decode (word : W32) : Except DecodeError Instr := decodeNat word.toNat

/-- The word read from bytes as they stand in memory, least significant first (R6, R32). -/
def decodeBytes : List Byte → Except DecodeError Instr
  | [b0, b1, b2, b3] => decode (b3 ++ b2 ++ b1 ++ b0)
  | _ => .error .length

/-- A field placed with its lowest bit at bit `lo`. -/
def put {k : Nat} (f : BitVec k) (lo : Nat) : Nat := f.toNat * 2 ^ lo

/-- The number of an instruction's word: each field in its place, the fixed bits as the opcode map gives them. A hardware
step has no word; 0, which is illegal, stands for it. -/
def encodeNat : Instr → Nat
  | .add w d a b => 0x00800000 + put w 29 + put d 18 + put a 13 + put b 8
  | .sub w d a b => 0x00800001 + put w 29 + put d 18 + put a 13 + put b 8
  | .and w d a b => 0x00800002 + put w 29 + put d 18 + put a 13 + put b 8
  | .or w d a b => 0x00800003 + put w 29 + put d 18 + put a 13 + put b 8
  | .xor w d a b => 0x00800004 + put w 29 + put d 18 + put a 13 + put b 8
  | .sll w d a b => 0x00800005 + put w 29 + put d 18 + put a 13 + put b 8
  | .srl w d a b => 0x00800006 + put w 29 + put d 18 + put a 13 + put b 8
  | .sra w d a b => 0x00800007 + put w 29 + put d 18 + put a 13 + put b 8
  | .slt w d a b => 0x00800008 + put w 29 + put d 18 + put a 13 + put b 8
  | .slto w d a b => 0x00800009 + put w 29 + put d 18 + put a 13 + put b 8
  | .min w d a b => 0x0080000A + put w 29 + put d 18 + put a 13 + put b 8
  | .max w d a b => 0x0080000B + put w 29 + put d 18 + put a 13 + put b 8
  | .minw w d a b => 0x0080000C + put w 29 + put d 18 + put a 13 + put b 8
  | .maxw w d a b => 0x0080000D + put w 29 + put d 18 + put a 13 + put b 8
  | .mul w d a b => 0x00800010 + put w 29 + put d 18 + put a 13 + put b 8
  | .mulh w d a b => 0x00800011 + put w 29 + put d 18 + put a 13 + put b 8
  | .mulhw w d a b => 0x00800012 + put w 29 + put d 18 + put a 13 + put b 8
  | .div w d a b => 0x00800014 + put w 29 + put d 18 + put a 13 + put b 8
  | .divw w d a b => 0x00800015 + put w 29 + put d 18 + put a 13 + put b 8
  | .rem w d a b => 0x00800016 + put w 29 + put d 18 + put a 13 + put b 8
  | .remw w d a b => 0x00800017 + put w 29 + put d 18 + put a 13 + put b 8
  | .clz w d a => 0x00800018 + put w 29 + put d 18 + put a 13
  | .ctz w d a => 0x00800019 + put w 29 + put d 18 + put a 13
  | .popc w d a => 0x0080001A + put w 29 + put d 18 + put a 13
  | .sext w d a c => 0x0080001C + put w 29 + put d 18 + put a 13 + put c 8
  | .zext w d a c => 0x0080001D + put w 29 + put d 18 + put a 13 + put c 8
  | .addsh w d a b s => 0x00800020 + put w 29 + put d 18 + put a 13 + put b 8 + put s 0
  | .csel w d a b c => 0x008000E0 + put w 29 + put d 18 + put a 13 + put b 8 + put c 0
  | .chcfg w c a b l => 0x00800040 + put w 29 + put c 18 + put a 13 + put b 8 + put l 0
  | .chidx w d c l => 0x00800044 + put w 29 + put d 18 + put c 13 + put l 0
  | .addi w d a i => 0x01000000 + put w 29 + put d 18 + put a 13 + put i 0
  | .andi w d a i => 0x01800000 + put w 29 + put d 18 + put a 13 + put i 0
  | .ori w d a i => 0x01800800 + put w 29 + put d 18 + put a 13 + put i 0
  | .xori w d a i => 0x01801000 + put w 29 + put d 18 + put a 13 + put i 0
  | .slti w d a i => 0x01801800 + put w 29 + put d 18 + put a 13 + put i 0
  | .slli w d a s => 0x02000000 + put w 29 + put d 18 + put a 13 + put s 0
  | .srli w d a s => 0x02000100 + put w 29 + put d 18 + put a 13 + put s 0
  | .srai w d a s => 0x02000200 + put w 29 + put d 18 + put a 13 + put s 0
  | .bfx w d a l p => 0x02800000 + put w 29 + put d 18 + put a 13 + put l 6 + put p 0
  | .bfi w d a l p => 0x02801000 + put w 29 + put d 18 + put a 13 + put l 6 + put p 0
  | .lih w d i => 0x03000000 + put w 29 + put d 18 + put i 0
  | .jal w d o => 0x03800000 + put w 29 + put d 18 + put o 0
  | .jalr w d a i => 0x04000000 + put w 29 + put d 18 + put a 13 + put i 0
  | .beq w a b o => 0x04800000 + put w 29 + put a 18 + put b 13 + put o 0
  | .bne w a b o => 0x05000000 + put w 29 + put a 18 + put b 13 + put o 0
  | .blt w a b o => 0x05800000 + put w 29 + put a 18 + put b 13 + put o 0
  | .bge w a b o => 0x06000000 + put w 29 + put a 18 + put b 13 + put o 0
  | .blo w a b o => 0x06800000 + put w 29 + put a 18 + put b 13 + put o 0
  | .bhs w a b o => 0x07000000 + put w 29 + put a 18 + put b 13 + put o 0
  | .chloop w c o => 0x07800000 + put w 29 + put c 18 + put o 0
  | .ld w d a s o => 0x08000000 + put w 29 + put d 18 + put a 13 + put s 11 + put o 0
  | .ldz w d a s o => 0x08800000 + put w 29 + put d 18 + put a 13 + put s 11 + put o 0
  | .st w b a s o => 0x09000000 + put w 29 + put b 18 + put a 13 + put s 11 + put o 0
  | .ldgW w d a c o => 0x09800000 + put w 29 + put d 18 + put a 13 + put c 11 + put o 0
  | .ldgD w d a c o => 0x0A000000 + put w 29 + put d 18 + put a 13 + put c 11 + put o 0
  | .stgW w b a c o => 0x0A800000 + put w 29 + put b 18 + put a 13 + put c 11 + put o 0
  | .stgD w b a c o => 0x0B000000 + put w 29 + put b 18 + put a 13 + put c 11 + put o 0
  | .ldbit w d a n => 0x0B800000 + put w 29 + put d 18 + put a 13 + put n 0
  | .stbit w a b n => 0x0B800040 + put w 29 + put a 13 + put b 8 + put n 0
  | .amoAdd w d a b c s => 0x0C000000 + put w 29 + put d 18 + put a 13 + put b 8 + put c 2 + put s 1
  | .amoAnd w d a b c s => 0x0C000010 + put w 29 + put d 18 + put a 13 + put b 8 + put c 2 + put s 1
  | .amoOr w d a b c s => 0x0C000020 + put w 29 + put d 18 + put a 13 + put b 8 + put c 2 + put s 1
  | .amoXor w d a b c s => 0x0C000030 + put w 29 + put d 18 + put a 13 + put b 8 + put c 2 + put s 1
  | .amoMin w d a b c s => 0x0C000040 + put w 29 + put d 18 + put a 13 + put b 8 + put c 2 + put s 1
  | .amoMax w d a b c s => 0x0C000050 + put w 29 + put d 18 + put a 13 + put b 8 + put c 2 + put s 1
  | .amoMinw w d a b c s => 0x0C000060 + put w 29 + put d 18 + put a 13 + put b 8 + put c 2 + put s 1
  | .amoMaxw w d a b c s => 0x0C000070 + put w 29 + put d 18 + put a 13 + put b 8 + put c 2 + put s 1
  | .amoSwap w d a b c s => 0x0C000080 + put w 29 + put d 18 + put a 13 + put b 8 + put c 2 + put s 1
  | .amoCas w d a b c s => 0x0C000090 + put w 29 + put d 18 + put a 13 + put b 8 + put c 2 + put s 1
  | .amsend w a b m n c => 0x0C800000 + put w 29 + put a 13 + put b 8 + put m 4 + put n 3 + put c 0
  | .nput w a d s t => 0x0C840000 + put w 29 + put a 13 + put d 7 + put s 5 + put t 0
  | .nclr w t => 0x0C880000 + put w 29 + put t 0
  | .ccinc w a n => 0x0D000000 + put w 29 + put a 13 + put n 0
  | .ccset w a n => 0x0D040000 + put w 29 + put a 13 + put n 0
  | .waitlt w a n => 0x0D080000 + put w 29 + put a 13 + put n 0
  | .csrr w d r => 0x0E000000 + put w 29 + put d 18 + put r 0
  | .csrw w d a r => 0x0E000800 + put w 29 + put d 18 + put a 13 + put r 0
  | .csrs w d a r => 0x0E001000 + put w 29 + put d 18 + put a 13 + put r 0
  | .csrc w d a r => 0x0E001800 + put w 29 + put d 18 + put a 13 + put r 0
  | .tret w => 0x0E800001 + put w 29
  | .done w => 0x0E800002 + put w 29
  | .yield w => 0x0E800003 + put w 29
  | .isync w => 0x0E800004 + put w 29
  | .fenceTask w => 0x0E800008 + put w 29
  | .fenceCore w => 0x0E800009 + put w 29
  | .fenceCol w => 0x0E80000A + put w 29
  | .fenceDie w => 0x0E80000B + put w 29
  | .fencePkg w => 0x0E80000C + put w 29
  | .fenceCard w => 0x0E80000D + put w 29
  | .spl w g f e c => 0x0E800010 + put w 29 + put g 18 + put f 13 + put e 12 + put c 8
  | .fil w g f e c => 0x0E800011 + put w 29 + put g 18 + put f 13 + put e 12 + put c 8
  | .svc w i => 0x0F000000 + put w 29 + put i 0
  | .brk w i => 0x0F040000 + put w 29 + put i 0
  | .vadd w t d a b k => 0x10000000 + put w 29 + put t 23 + put d 18 + put a 13 + put b 8 + put k 5
  | .vsub w t d a b k => 0x10000001 + put w 29 + put t 23 + put d 18 + put a 13 + put b 8 + put k 5
  | .vmul w t d a b k => 0x10000002 + put w 29 + put t 23 + put d 18 + put a 13 + put b 8 + put k 5
  | .vmin w t d a b k => 0x10000003 + put w 29 + put t 23 + put d 18 + put a 13 + put b 8 + put k 5
  | .vmax w t d a b k => 0x10000004 + put w 29 + put t 23 + put d 18 + put a 13 + put b 8 + put k 5
  | .vabs w t d a k => 0x10000005 + put w 29 + put t 23 + put d 18 + put a 13 + put k 5
  | .vneg w t d a k => 0x10000006 + put w 29 + put t 23 + put d 18 + put a 13 + put k 5
  | .vadds w t d a b k => 0x10000007 + put w 29 + put t 23 + put d 18 + put a 13 + put b 8 + put k 5
  | .vsubs w t d a b k => 0x10000008 + put w 29 + put t 23 + put d 18 + put a 13 + put b 8 + put k 5
  | .vmulh w t d a b k => 0x10000009 + put w 29 + put t 23 + put d 18 + put a 13 + put b 8 + put k 5
  | .vand w t d a b k => 0x1000000A + put w 29 + put t 23 + put d 18 + put a 13 + put b 8 + put k 5
  | .vor w t d a b k => 0x1000000B + put w 29 + put t 23 + put d 18 + put a 13 + put b 8 + put k 5
  | .vxor w t d a b k => 0x1000000C + put w 29 + put t 23 + put d 18 + put a 13 + put b 8 + put k 5
  | .vsll w t d a b k => 0x1000000D + put w 29 + put t 23 + put d 18 + put a 13 + put b 8 + put k 5
  | .vsrl w t d a b k => 0x1000000E + put w 29 + put t 23 + put d 18 + put a 13 + put b 8 + put k 5
  | .vsra w t d a b k => 0x1000000F + put w 29 + put t 23 + put d 18 + put a 13 + put b 8 + put k 5
  | .vceq w t d a b k => 0x10000010 + put w 29 + put t 23 + put d 18 + put a 13 + put b 8 + put k 5
  | .vcne w t d a b k => 0x10000011 + put w 29 + put t 23 + put d 18 + put a 13 + put b 8 + put k 5
  | .vclt w t d a b k => 0x10000012 + put w 29 + put t 23 + put d 18 + put a 13 + put b 8 + put k 5
  | .vcle w t d a b k => 0x10000013 + put w 29 + put t 23 + put d 18 + put a 13 + put b 8 + put k 5
  | .vredsum w t d a k => 0x10000014 + put w 29 + put t 23 + put d 18 + put a 13 + put k 5
  | .vredmin w t d a k => 0x10000015 + put w 29 + put t 23 + put d 18 + put a 13 + put k 5
  | .vredmax w t d a k => 0x10000016 + put w 29 + put t 23 + put d 18 + put a 13 + put k 5
  | .vsel w t d a b k => 0x10000017 + put w 29 + put t 23 + put d 18 + put a 13 + put b 8 + put k 5
  | .vdiv w t d a b k => 0x10000018 + put w 29 + put t 23 + put d 18 + put a 13 + put b 8 + put k 5
  | .vsqrt w t d a k => 0x10000019 + put w 29 + put t 23 + put d 18 + put a 13 + put k 5
  | .vcvt w d a s k c => 0x14800000 + put w 29 + put d 18 + put a 13 + put s 8 + put k 5 + put c 0
  | .vpack w d a f k p => 0x15000000 + put w 29 + put d 18 + put a 13 + put f 8 + put k 5 + put p 0
  | .vunpack w d a f k p => 0x15000004 + put w 29 + put d 18 + put a 13 + put f 8 + put k 5 + put p 0
  | .vbscale w d a f k p => 0x15000008 + put w 29 + put d 18 + put a 13 + put f 8 + put k 5 + put p 0
  | .vbhdr w d a f k p => 0x1500000C + put w 29 + put d 18 + put a 13 + put f 8 + put k 5 + put p 0
  | .vmov w d a k => 0x15800000 + put w 29 + put d 18 + put a 13 + put k 5
  | .vbcast w d a c => 0x15800001 + put w 29 + put d 18 + put a 13 + put c 5
  | .vperm w d a b k => 0x15800002 + put w 29 + put d 18 + put a 13 + put b 8 + put k 5
  | .vslideup w d a m k => 0x15800003 + put w 29 + put d 18 + put a 13 + put m 8 + put k 5
  | .vslidedn w d a m k => 0x15800004 + put w 29 + put d 18 + put a 13 + put m 8 + put k 5
  | .vxget w d a i c => 0x15800005 + put w 29 + put d 18 + put a 13 + put i 8 + put c 5
  | .vxput w d a i c => 0x15800006 + put w 29 + put d 18 + put a 13 + put i 8 + put c 5
  | .vrget w d a k => 0x15800007 + put w 29 + put d 18 + put a 13 + put k 5
  | .vmand w d a b => 0x15800010 + put w 29 + put d 18 + put a 13 + put b 8
  | .vmor w d a b => 0x15800011 + put w 29 + put d 18 + put a 13 + put b 8
  | .vmxor w d a b => 0x15800012 + put w 29 + put d 18 + put a 13 + put b 8
  | .vmnot w d a => 0x15800013 + put w 29 + put d 18 + put a 13
  | .vmset w d a => 0x15800014 + put w 29 + put d 18 + put a 13
  | .vmget w d a => 0x15800015 + put w 29 + put d 18 + put a 13
  | .vfmaF32 w d a b c => 0x16000000 + put w 29 + put d 18 + put a 13 + put b 8 + put c 3
  | .vfmaF16 w d a b c => 0x16000001 + put w 29 + put d 18 + put a 13 + put b 8 + put c 3
  | .vfmaBf16 w d a b c => 0x16000002 + put w 29 + put d 18 + put a 13 + put b 8 + put c 3
  | .vfnmaF32 w d a b c => 0x16000003 + put w 29 + put d 18 + put a 13 + put b 8 + put c 3
  | .vfnmaF16 w d a b c => 0x16000004 + put w 29 + put d 18 + put a 13 + put b 8 + put c 3
  | .vfnmaBf16 w d a b c => 0x16000005 + put w 29 + put d 18 + put a 13 + put b 8 + put c 3
  | .vmaccS32 w d a b c => 0x16000006 + put w 29 + put d 18 + put a 13 + put b 8 + put c 3
  | .vmaccW32 w d a b c => 0x16000007 + put w 29 + put d 18 + put a 13 + put b 8 + put c 3
  | .vld w d a o => 0x16800000 + put w 29 + put d 18 + put a 13 + put o 0
  | .vst w s a o => 0x17000000 + put w 29 + put s 18 + put a 13 + put o 0
  | .vexp2 w d a k t => 0x17800000 + put w 29 + put d 18 + put a 13 + put k 5 + put t 3
  | .vlog2 w d a k t => 0x17800001 + put w 29 + put d 18 + put a 13 + put k 5 + put t 3
  | .vrcp w d a k t => 0x17800002 + put w 29 + put d 18 + put a 13 + put k 5 + put t 3
  | .vrsqrt w d a k t => 0x17800003 + put w 29 + put d 18 + put a 13 + put k 5 + put t 3
  | .vtanh w d a k t => 0x17800004 + put w 29 + put d 18 + put a 13 + put k 5 + put t 3
  | .vsin w d a k t => 0x17800005 + put w 29 + put d 18 + put a 13 + put k 5 + put t 3
  | .vcos w d a k t => 0x17800006 + put w 29 + put d 18 + put a 13 + put k 5 + put t 3
  | .vsigm w d a k t => 0x17800007 + put w 29 + put d 18 + put a 13 + put k 5 + put t 3
  | .mwr w a n d => 0x18000000 + put w 29 + put a 13 + put n 5 + put d 3
  | .mlds w a b n => 0x18040000 + put w 29 + put a 13 + put b 8 + put n 5
  | .mswap w => 0x18080000 + put w 29
  | .mstr w a b n d g c => 0x180C0000 + put w 29 + put a 13 + put b 8 + put n 5 + put d 2 + put g 1 + put c 0
  | .macfg w a f d => 0x18100000 + put w 29 + put a 13 + put f 4 + put d 0
  | .marel w f d => 0x18140000 + put w 29 + put f 4 + put d 0
  | .mgang w a b => 0x18180000 + put w 29 + put a 13 + put b 8
  | .mwait w => 0x181C0000 + put w 29
  | .mrd w v m d k f => 0x18800000 + put w 29 + put v 18 + put m 13 + put d 8 + put k 5 + put f 0
  | .gpatch w a b => 0x1C000000 + put w 29 + put a 13 + put b 8
  | .gcell w a b f => 0x1C040000 + put w 29 + put a 13 + put b 8 + put f 0
  | .grd w a d => 0x1C080000 + put w 29 + put a 13 + put d 8
  | .gclk w a n => 0x1C0C0000 + put w 29 + put a 13 + put n 0
  | .gstep w a m c n => 0x1C100000 + put w 29 + put a 13 + put m 4 + put c 3 + put n 0
  | .grun w m c n => 0x1C140000 + put w 29 + put m 4 + put c 3 + put n 0
  | .ghalt w n => 0x1C180000 + put w 29 + put n 0
  | .gsave w a b m c k => 0x1C1C0000 + put w 29 + put a 13 + put b 8 + put m 4 + put c 3 + put k 0
  | .grest w a b m c k => 0x1C200000 + put w 29 + put a 13 + put b 8 + put m 4 + put c 3 + put k 0
  | .gstat w a d => 0x1C240000 + put w 29 + put a 13 + put d 8
  | .ginj w s k => 0x1C800000 + put w 29 + put s 13 + put k 5
  | .gtap w d s k => 0x1C800001 + put w 29 + put d 18 + put s 13 + put k 5
  | .qrsv w d n => 0x1E000000 + put w 29 + put d 8 + put n 0
  | .qpush w a b l m n => 0x1E040000 + put w 29 + put a 13 + put b 8 + put l 7 + put m 4 + put n 0
  | .qpop w d n => 0x1E080000 + put w 29 + put d 8 + put n 0
  | .qrel w n => 0x1E0C0000 + put w 29 + put n 0
  | .qflush w a n => 0x1E100000 + put w 29 + put a 13 + put n 0
  | .qmark w a n => 0x1E140000 + put w 29 + put a 13 + put n 0
  | .qmarkH w a n => 0x1E140008 + put w 29 + put a 13 + put n 0
  | .ald w a b n => 0x1E200000 + put w 29 + put a 13 + put b 8 + put n 0
  | .ast w a b n => 0x1E240000 + put w 29 + put a 13 + put b 8 + put n 0
  | .aopRed w a n e => 0x1E300000 + put w 29 + put a 13 + put n 5 + put e 4
  | .aopCmpx w a n e => 0x1E340000 + put w 29 + put a 13 + put n 5 + put e 4
  | .aopSacc w a n e => 0x1E380000 + put w 29 + put a 13 + put n 5 + put e 4
  | .aopDot w a n e => 0x1E3C0000 + put w 29 + put a 13 + put n 5 + put e 4
  | .vproj w a m c k q => 0x1E800000 + put w 29 + put a 13 + put m 4 + put c 3 + put k 1 + put q 0
  | .vprojLap2 w a b m c => 0x1E800004 + put w 29 + put a 13 + put b 8 + put m 4 + put c 3
  | .hmerge w a m c => 0x1E840000 + put w 29 + put a 13 + put m 4 + put c 3
  | .hread w a d => 0x1E880000 + put w 29 + put a 13 + put d 8
  | .snorm w a => 0x1E8C0000 + put w 29 + put a 13
  | .sdraw w a d => 0x1E900000 + put w 29 + put a 13 + put d 8
  | .slabel w a b => 0x1E940000 + put w 29 + put a 13 + put b 8
  | .cqpush w a n e c h => 0x1F000000 + put w 29 + put a 13 + put n 5 + put e 4 + put c 2 + put h 1
  | .cqpushNb w a d n e c h => 0x1F040000 + put w 29 + put a 13 + put d 8 + put n 5 + put e 4 + put c 2 + put h 1
  | .wmwait w a n => 0x1F080000 + put w 29 + put a 13 + put n 0
  | .barArrive w a m => 0x1F200000 + put w 29 + put a 13 + put m 0
  | .barExpect w a m => 0x1F240000 + put w 29 + put a 13 + put m 0
  | .barWait w a m => 0x1F280000 + put w 29 + put a 13 + put m 0
  | .barTry w d m => 0x1F2C0000 + put w 29 + put d 8 + put m 0
  | .trapEntry => 0
  | .draughtInstructionLimit => 0
  | .slotFreeze => 0
  | .bindSeedTask => 0
  | .bindStageTasks => 0
  | .bindTileTask => 0
  | .accessAtHome => 0
  | .accessReply => 0
  | .amoStep => 0
  | .amsendArrival => 0
  | .letterboxAccept => 0
  | .amsendReply => 0
  | .handlerStart => 0
  | .handlerLongAbort => 0
  | .copyStart => 0
  | .copyComplete => 0
  | .nputLanding => 0
  | .granuleSave => 0
  | .granuleRestore => 0
  | .matrixOpBegin => 0
  | .matrixOpComplete => 0
  | .geyserBoundary => 0
  | .geyserClockHalt => 0
  | .geyserLinkIncrement => 0
  | .gsaveComplete => 0
  | .grestComplete => 0
  | .reservationAtHome => 0
  | .reservationGrant => 0
  | .commitAtHome => 0
  | .releaseAtHome => 0
  | .linkedRelease => 0
  | .drainEnd => 0
  | .drainAllowanceExpiry => 0
  | .draughtForward => 0
  | .columnFault => 0
  | .readySlotTimeout => 0
  | .aldLineLanding => 0
  | .astLineWrite => 0
  | .astAcknowledgement => 0
  | .atticScrub => 0
  | .partLoss => 0
  | .aopAccept => 0
  | .aopBegin => 0
  | .aopComplete => 0
  | .launch => 0
  | .preempt => 0
  | .preemptAndHold => 0
  | .resume => 0
  | .endPartition => 0
  | .recq => 0
  | .heldWriteTaken => 0
  | .portseed => 0
  | .admission => 0
  | .configComplete => 0
  | .lendingSample => 0
  | .coreHandover => 0
  | .recordCompletion => 0
  | .partitionHalted => 0
  | .restoreComplete => 0
  | .modelSwitch => 0
  | .switchRebind => 0
  | .columnRestart => 0
  | .invalidatePage => 0
  | .invalidatePartition => 0
  | .invalidateAll => 0
  | .invalidationComplete => 0
  | .rangeWrite => 0
  | .pageWalkComplete => 0
  | .dwq => 0
  | .dwqp => 0
  | .dwqr => 0
  | .dumbwaiterStart => 0
  | .dumbwaiterComplete => 0
  | .dumbwaiterChannelFault => 0
  | .bcfgWrite => 0
  | .blinkWrite => 0
  | .barrierArrival => 0
  | .barrierExpect => 0
  | .barrierDecrement => 0
  | .barrierPhaseComplete => 0
  | .barrierGroupRelease => 0
  | .barrierWindowClose => 0
  | .arrivalToken => 0
  | .releaseToken => 0
  | .breakToken => 0
  | .gddrBurstError => 0
  | .hmergeSourceAnswer => 0
  | .hmergeApply => 0
  | .vprojComplete => 0
  | .mbin => 0
  | .mbinpop => 0
  | .mbout => 0
  | .mboutpop => 0
  | .fdbase => 0
  | .flbase => 0
  | .kvpool => 0
  | .kvsize => 0
  | .kvref => 0
  | .ajbase => 0
  | .cjbase => 0
  | .jcons => 0
  | .portdone => 0
  | .seedReport => 0
  | .kvq => 0
  | .kvqp => 0
  | .alloc => 0
  | .append => 0
  | .commit => 0
  | .fork => 0
  | .free => 0
  | .lookup => 0
  | .insert => 0
  | .evict => 0
  | .stage => 0
  | .pageout => 0
  | .pagein => 0
  | .fldone => 0
  | .ksload => 0
  | .keyBlobUnwrap => 0
  | .ksown => 0
  | .status => 0
  | .selftest => 0
  | .log => 0
  | .attest => 0
  | .recover => 0
  | .minver => 0
  | .unknownCommand => 0
  | .coldStart => 0
  | .warmStart => 0
  | .wakeFromDormant => 0
  | .sleepctl => 0
  | .wakeFrame => 0
  | .mctpWakeMessage => 0
  | .dormantAccess => 0
  | .throttleRaise => 0
  | .throttleLower => 0
  | .meshHopFailure => 0
  | .flitSend => 0
  | .flitReceive => 0
  | .flitAcknowledgement => 0
  | .laneFailure => 0
  | .linkLost => 0
  | .rerouteComplete => 0
  | .packageOutOfService => 0
  | .w1cClear => 0
  | .registerWrite => 0
  | .localMemoryScrub => 0
  | .boardTest => 0

/-- The word of a well-formed instruction. -/
def encode (i : Instr) : W32 := BitVec.ofNat 32 (encodeNat i)

/-- The decoder on the opcode table's numbering: the bytes of the word, the first lowest, given to `decodeBytes`. -/
def decodeTableWord (nbits w : Nat) : Option Instr :=
  if nbits ≤ 32 ∧ w < 2 ^ 32 then
    match decodeBytes [BitVec.ofNat 8 w, BitVec.ofNat 8 (w / 2 ^ 8), BitVec.ofNat 8 (w / 2 ^ 16), BitVec.ofNat 8 (w / 2 ^ 24)] with
    | .ok i => some i
    | .error _ => none
  else none

end Sys2Proof
end

