-- ==== Sys2Proof/Config.lean ====
section
/-! DEFINITION. The constants of the card as built (Table 0-1) and the free values the manual leaves open.
A free value is an opaque constant: nothing can evaluate it, so every statement holds whatever it is. -/
namespace Sys2Proof.Config

/-- Cores on the card (R2, R14). -/
def cores : Nat := 2048
/-- Cores in a column (R2). -/
def coresPerCol : Nat := 16
/-- Columns in a die (R2). -/
def colsPerDie : Nat := 32
/-- Columns on the card (R2). -/
def cols : Nat := 128
/-- Packages on the card (R1). -/
def pkgs : Nat := 4
/-- Bytes of local memory of a core (R2, R92). -/
def localBytes : Nat := 0x40000
/-- Accumulator entries of a core (R155). -/
def accEntries : Nat := 8192
/-- Bytes of an Attic slice as built (R273). -/
def sliceBytes : Nat := 0x1800000

/-- The value of a byte of an abandoned engine operation's write, and every other choice the manual leaves to one
run: applied to the machine's free-value counter (R23, R164, R225). Log entry 2. -/
opaque freeBit : Nat → Bool
/-- A free word, applied to the free-value counter. Log entry 2. -/
opaque freeWord : Nat → BitVec 64
/-- The member of an admissible list of results of an approximation that the vector unit gives: a fixed function of
type code, function code and operand bits (R201). Log entry 7. -/
opaque approxPick : Nat → Nat → Nat → Nat
/-- The throttle's issue pattern: whether a core issues in a cycle's place among eight at a level (R420). Log entry 12. -/
opaque throttleIssues : Nat → Nat → Bool
/-- The fused 256-bit secret of a package (R407). Log entry 15. -/
opaque fusedSecret : Nat → BitVec 256
/-- The vendor root hash in ROM (R405). Log entry 15. -/
opaque vendorRootHash : BitVec 256
/-- The label under which the key-encryption key is derived from the fused secret, which the manual does not name
(R409). Log entry 15. -/
opaque kekLabel : List Byte
/-- The wake filter that system software has set, by means the manual does not give: destination MAC, UDP port and
token (R416). Log entry 21. -/
opaque wakeMac : BitVec 64
opaque wakeUdp : BitVec 64
opaque wakeToken : BitVec 64
/-- How many cycles a package's reading of the card time base is ahead, modulo 9 (R422). Log entry 68. -/
opaque clockSkew : Nat → Nat
/-- The messages that a core's outbound queue holds, less 1 (R98). Log entry 71. -/
opaque outboundSlots : Nat
/-- The cycle, modulo 2 to the 34, in which the base die scrubs a dword of a core's slice (R284). Log entry 72. -/
opaque scrubCycle : Nat → Nat → Nat
/-- A self-test result dword (R413), which the manual does not lay out. Log entry 11. -/
opaque selfTestWord : Nat → Nat → BitVec 64

end Sys2Proof.Config
end

