-- ==== Sys2Proof/Machine/State.lean ====
section
/-! DEFINITION. The state of the card as plain data, its reset, and the reasons a step can stop.
Every structure holds what the manual gives one unit; window registers stand in one collection by physical address. -/
namespace Sys2Proof.Machine
open Sys2Proof

/-- Reasons to stop. No step of the model raises one: every trap and error of the manual is a next state. -/
inductive Fault where
  /-- Raised by no meaning; safe. It stands for an execution that the manual leaves without any effect. -/
  | noEffectGiven
  deriving DecidableEq, Repr

/-- Reasons to refuse. -/
inductive Refusal where
  /-- Raised by an arm of exec whose instruction has no meaning yet; safe. -/
  | notModelled (mnemonic : String)
  deriving DecidableEq, Repr

/-- The states of a slot (Table 1-9). -/
inductive SlotSt where
  | free | run | trap | frozen
  deriving DecidableEq, Repr

/-- One level of a counter chain (R73). -/
structure Level where
  n : W32
  s : W64
  i : W32
  deriving DecidableEq, Repr

/-- The register files a pending write can go to (R38, Table 2-2), and the control registers. -/
inductive RFile where
  | x | v | k | csr | flags
  deriving DecidableEq, Repr

/-- A register write that has not landed: fixed latency with its cycle, or variable, waiting for a reply (R35, R37). -/
structure Pend where
  file : RFile
  idx : Nat
  val : W256
  due : Nat
  var : Bool
  deriving DecidableEq, Repr

/-- What an engine operation's completion is observed through (R90, R162, R166, R227, R241, R358). -/
inductive Obj where
  | cc (n : Nat) | wm (n : Nat) | matrix | geyser | sinter | done | issue
  deriving DecidableEq, Repr

/-- A recorded fault waiting for its observation (R90, R163). -/
structure Rec where
  obj : Obj
  order : Nat
  cause : Nat
  unit : Nat
  value : W64
  alt : Option Nat
  deriving DecidableEq, Repr

/-- A pending error of an access or a bounce of a message, waiting for its observation (R99, R112, R116, R329). -/
structure Err where
  rd : Option Nat
  home : Nat
  order : Nat
  cause : Nat
  unit : Nat
  value : W64
  deriving DecidableEq, Repr

/-- A gang configuration, how many ganged streams have issued since it was set, and the numbers of those that were cancelled
before they began (R223, R226). -/
structure Gang where
  mask : BitVec 16
  leader : Nat
  slot : Nat
  count : Nat
  gone : List Nat
  deriving DecidableEq, Repr

/-- Where a task came from: its partition and its seed, stage entry or record (R15, Table 1-5). -/
inductive Origin where
  | seed (pkg port seq : Nat)
  | stage (col : Nat)
  | tile (pkg rec : Nat)
  deriving DecidableEq, Repr

/-- What `spl` put away under a tag: the group's file and values, and the place and address that it went to (R173, R174). -/
structure SpillGroup where
  slot : Nat
  tag : Nat
  isV : Bool
  vals : List W256
  place : Nat
  addr : Nat
  deriving DecidableEq, Repr

/-- One thread slot: four task slots and a handler slot a core (R19, R151). -/
structure Slot where
  st : SlotSt
  froze : SlotSt
  pc : W64
  x : Vector W64 32
  v : Vector W256 32
  k : Vector W32 8
  present : BitVec 8
  taskid : W64
  incarn : BitVec 8
  status : W64
  trapcause : W64
  trappc : W64
  trapval : W64
  waitchk : W64
  rndmode : W64
  flags : W64
  fmtA : W64
  fmtB : W64
  scaleA : W64
  scaleB : W64
  chains : Vector Level 12
  sh : Vector W64 32
  ac : Vector (Option W64) 8
  gang : Option Gang
  pend : List Pend
  flagDue : Nat
  ready : Nat
  w7 : Bool
  stall : Option Nat
  fbuf : List (Nat × W32)
  records : List Rec
  errs : List Err
  barFaults : List Nat
  holdR : FMap Nat
  holdP : FMap Nat
  request : Option Nat
  replied : Option W64
  origin : Option Origin
  part : Nat
  retiredAt : Option Nat
  draught : Option Nat
  freezing : Bool
  yielding : Option (Nat × List Nat)
  retry : Bool
  entry : Option Nat
  hcount : Nat
  deriving DecidableEq, Repr

/-- A Letterbox entry's bookkeeping beside its memory: its tag dword and what a late bounce needs, `slot` being the sender's, 4 for a
handler (R156, R157); of a free entry, `order` is the first cycle in which it may be taken. -/
structure LbEnt where
  tag : W64
  slot : Nat
  target : W64
  cnt : Option Nat
  order : Nat
  deriving DecidableEq, Repr

/-- An entry of the copy queue (R164 to R166): `shold` and `dhold` are the corridor and the sequence number of the slots it
copies from and to, `early` the fault its start found, and once performed (`fin`) its fault and flags; `key` and `ctr` are the generator's key and
the counter of its first draw (R133). -/
structure CopyEnt where
  op : Nat
  entry : Nat
  slot : Nat
  inc : BitVec 8
  part : Nat
  lvl : Bool
  rnd : W64
  key : Nat
  ctr : Nat
  fie : Bool
  d0 : W64
  d1 : W64
  d2 : W64
  d3 : W64
  chan : Option Nat
  commit : Bool
  waitOps : List Nat
  started : Bool
  shold : Option (Nat × Nat)
  dhold : Option (Nat × Nat)
  early : Option (Nat × W64)
  fin : Bool
  fault : Option (Nat × Nat × W64)
  flags : Nat
  abandoned : Bool
  deriving DecidableEq, Repr

/-- One push that named a watermark channel and is not counted there yet: its bytes and whether it has completed (R164). -/
structure WmPush where
  op : Nat
  bytes : Nat
  done : Bool
  deriving DecidableEq, Repr

/-- The exact value of an element or a scale: a number m times 2 to the e, an infinity or a NaN (R119, R144). -/
inductive Num where
  | fin (neg : Bool) (m : Nat) (e : Int)
  | inf (neg : Bool)
  | nan (neg : Bool)
  deriving DecidableEq, Repr

/-- A weight plane (R206). -/
structure Plane where
  valid : Bool
  kdepth : Nat
  ncols : Nat
  kb : Nat
  col0 : Nat
  fmt : W64
  w : List Num
  sB : List Num
  deriving DecidableEq, Repr

/-- The kinds of operation the matrix queue holds (R218, R358). -/
inductive MKind where
  | mlds | mswap | mstr | vproj
  deriving DecidableEq, Repr

/-- A queued matrix operation with all it captured (R218); `rowsDue` is the cycle, the entries and the flags of each row
still to be written. -/
structure MOp where
  op : Nat
  kind : MKind
  slot : Nat
  inc : BitVec 8
  word : W32
  lvl : Bool
  sh : List W64
  fmt : W64
  scale : W64
  origin : W64
  control : W64
  raise : Bool
  desc : Nat
  view : W64
  neg : Bool
  nacc : Bool
  gang : Option Gang
  gangNo : Nat
  begun : Option Nat
  readBy : Nat
  completes : Nat
  plane : Plane
  writes : List (Nat × BitVec 128)
  rowsDue : List (Nat × Nat × Nat)
  fault : Option (Nat × W64)
  flags : Nat
  cancelled : Bool
  abandoned : Bool
  deriving DecidableEq, Repr

/-- A Geyser cell (R233). -/
structure GCell where
  y : W32
  r : W32
  cfg : BitVec 16
  dyl : Nat
  dxl : Int
  dxo : Bool
  lastf : Nat
  routes : Vector (BitVec 16) 4
  deriving DecidableEq, Repr

/-- A step clock (R237, Table 9-4). -/
structure GClk where
  steps : W64
  remain : W32
  cc : Nat
  cnt : Bool
  mode : Nat
  owner : Nat
  div : Nat
  next : Nat
  deriving DecidableEq, Repr

/-- A `gsave` or `grest` in progress (R244). -/
structure GJob where
  op : Nat
  slot : Nat
  save : Bool
  p : Nat
  first : Nat
  n : Nat
  clk : Bool
  cc : Option Nat
  image : List W64
  abandoned : Bool
  deriving DecidableEq, Repr

/-- An `ald` or `ast` in progress with its granted schedule (R276 to R279). -/
structure Xfer where
  op : Nat
  slot : Nat
  load : Bool
  la : Nat
  so : Nat
  n : Nat
  at0 : Nat
  left : Nat
  halves : List (Nat × W64 × Bool)
  deriving DecidableEq, Repr

/-- A label of the Sinter (R354, R361). -/
structure Label where
  lv : Bool
  tok : Nat
  bias : W32
  logit : W32
  v : Bool
  deriving DecidableEq, Repr

/-- The Sinter of a core (R354, Table 16-1). -/
structure Sinter where
  heap : List (W32 × Nat)
  m : W32
  s : W32
  shards : List (W32 × W32)
  spanA : Nat
  spanC : Nat
  nshard : Nat
  labels : Vector Label 8
  valid : Bool
  complete : Bool
  nanseen : Bool
  broken : Bool
  rpl : Bool
  drawn : Nat
  drawnV : Bool
  replay : Option (List W64 × List Num × List Label)
  last : Option (Nat × Nat)
  deriving DecidableEq, Repr

/-- A `vproj` or `hmerge` issued and not complete (R358): what it captured, and once begun what it leaves behind. -/
structure SOp where
  op : Nat
  slot : Nat
  inc : BitVec 8
  lvl : Bool
  merge : Bool
  lap2 : Bool
  keep : Bool
  rq : Bool
  addr : W64
  arg : W64
  desc : List W64
  rep : Option (List W64 × List Num × List Label)
  cc : Option Nat
  begun : Bool
  failed : Option (Nat × W64)
  answer : Option Sinter
  flags : Nat
  grads : List (Nat × W32)
  abandoned : Bool
  deriving DecidableEq, Repr

/-- An endpoint binding (R254): the corridor's key, whether as consumer, the tag of the SWITCH slot it has returned (R265),
and the slots whose `qpop` stalls on it with the cycles in which their stalls began, in that order (R262). -/
structure Endpoint where
  corr : Nat
  cons : Bool
  switched : Option Nat
  pops : List (Nat × Nat)
  deriving DecidableEq, Repr

/-- The region, stage and lent stage a core holds (R308, R317, R319). -/
structure Grant where
  rcb : Nat
  stage : Nat
  lent : Option Nat
  handTo : Option Nat
  deriving DecidableEq, Repr

/-- One core (R151 to R179, and its engines). -/
structure Core where
  rr : Nat
  nextIssue : Nat
  hlast : Option Nat
  cc : Vector (BitVec 16) 16
  ccLog : List (Nat × Nat × BitVec 16)
  wm : Vector W64 8
  wmq : Vector (List WmPush) 8
  cq : List CopyEnt
  lb : Vector LbEnt 16
  seq : Vector (BitVec 4) 5
  arrq : List Nat
  lbOrder : List Nat
  spill : List SpillGroup
  spillbase : W64
  csrPend : List (Nat × Nat × W64)
  ovfptr : W64
  active : Plane
  shadow : Plane
  mq : List MOp
  mqFreed : Nat × Nat
  gcells : FMap GCell
  gclk : Vector GClk 4
  gorec : Vector W64 4
  gsticky : W64
  gjob : Option GJob
  gfrozen : Bool
  chim : List Xfer
  sint : Sinter
  sq : List SOp
  ep : Vector (Option Endpoint) 8
  grant : Option Grant
  barmask : W64
  owner : FMap Nat
  frames : List (Nat × Nat)
  saved : FMap Bool
  deriving DecidableEq, Repr

/-- An attic command, waiting or in the column's pipeline: what it captured at its issue, and what it has read and made (R287, R288). -/
structure AopEnt where
  op : Nat
  core : Nat
  slot : Nat
  inc : BitVec 8
  lvl : Bool
  fie : Bool
  rnd : W64
  kind : Nat
  recAddr : Nat
  d : List W64
  chan : Option Nat
  accepted : Option Nat
  begun : Option Nat
  results : List (Nat × W32)
  attic : List (Nat × W64)
  fault : Option (Nat × W64)
  flags : Nat
  abandoned : Bool
  deriving DecidableEq, Repr

/-- The draining of a column (R266, R322): its partition, whether it began at the Foyer's signal, the consumer endpoints that
have met a DRAUGHT slot, whether it has ended, and its forwarding: 0 not begun, 1 marks sent, 2 done. -/
structure Drain where
  rcb : Nat
  source : Bool
  met : List (Nat × Nat)
  ended : Bool
  forwarded : Nat
  deriving DecidableEq, Repr

/-- One column: broadcast lanes, attic pipeline, drain and switch in progress with the number that stood at its switch point
(R250 to R252, R266, R287, R326, R346). -/
structure Col where
  lanes : Vector Nat 4
  aops : List AopEnt
  drain : Option Drain
  swtag : Option Nat
  swop : Nat
  swready : Bool
  swfail : Bool
  lastFault : Option Nat
  faulted : Bool
  deriving DecidableEq, Repr

/-- The states of a corridor slot (Table 11-3). -/
inductive QSt where
  | free | rsv | cmt | pop | void | rel
  deriving DecidableEq, Repr

/-- A corridor slot: its state, and the marks and tag attached to its reservation (R257, R260). -/
structure QSlot where
  st : QSt
  marks : BitVec 8
  mtag : BitVec 8
  deriving DecidableEq, Repr

/-- A corridor's record and counters at its home (R253, R256): `size` is a slot's bytes, `slots` their number, `cwbase` the
image's core-window base, `waiting` the reservations held in arrival order, and `stopped` the faulted columns that hold it
(R272). -/
structure Corr where
  rcb : Nat
  id : Nat
  home : Nat
  base : Nat
  size : Nat
  slots : Nat
  joinG : Nat
  prod : Nat
  cons : Nat
  cwbase : W64
  rp : Nat
  pp : Nat
  hp : Nat
  lf : Nat
  ring : FMap QSlot
  waiting : List Nat
  stopped : List Nat
  broken : Bool
  deriving DecidableEq, Repr

/-- What an access to a home does there (R97, R111, R114, R260, R350). -/
inductive AccKind where
  | load | store | amo (op : Nat) | amsend
  | qrsv | qpush | qrel | qmark | draughtMark
  | barArrive | barExpect | barWait | barTry
  deriving DecidableEq, Repr

/-- An access of a slot to a home other than by its own core's issue, from issue to reply (R98, R101, R106); `arrived` is its
place in the order of arrival, 0 before it arrives. -/
structure Flight where
  kind : AccKind
  core : Nat
  slot : Nat
  inc : BitVec 8
  part : Nat
  lvl : Bool
  home : Nat
  va : W64
  pa : Nat
  size : Nat
  b : W64
  c : W64
  body : W256
  rd : Option Nat
  chain : Nat
  pred : Option Nat
  cnt : Option Nat
  corr : Nat
  seqNo : Nat
  link : Option (Nat × Nat)
  stamp : Nat
  waitc : Nat
  heldAt : Nat
  arrived : Nat
  sent : Bool
  performed : Bool
  result : W64
  err : Option (Nat × Nat × W64)
  deriving DecidableEq, Repr

/-- A task-table entry of an image: its entry address (R15, R16). -/
structure TaskEntry where
  pc : W64
  deriving DecidableEq, Repr

/-- A stage of an image (R296, R374), with the number of the column barrier that the Foyer names in it (R252). -/
structure Stage where
  col : Nat
  tasks : List (Option Nat)
  frame : W64
  q : List Nat
  switches : List (Nat × Nat)
  handlers : List W64
  colBar : Option Nat
  waitchk : Bool
  deriving DecidableEq, Repr

/-- A Stair barrier node of an image (R436). -/
structure BarNode where
  num : Nat
  pkg : Nat
  exp : Nat
  ngrp : Nat
  step : Nat
  up : Option (Nat × Nat)
  deriving DecidableEq, Repr

/-- A configuration image, decoded; the manual does not give its byte layout (R304). Log entry 9. `tables` says that its
handler and task-entry tables are in bounds; `cmap` is the corridor map of an image with no stage declared (R254). -/
structure Image where
  readable : Bool
  entries : List TaskEntry
  stages : List Stage
  corridors : List (List W64)
  bars : List BarNode
  port : Option Nat
  seedEntry : Option Nat
  complete : Bool
  tables : Bool
  cmap : Option (List Nat)
  stack : Nat
  cwbase : W64
  waitchk : Bool
  pubkey : List Byte
  sig : List Byte
  body : List Byte
  deriving DecidableEq, Repr

/-- A launch or partition; `root` is the region control block at the root of its chain, as the launch found it (R302, R303, R307,
R309). -/
structure Part where
  rcb : Nat
  parent : Nat
  root : Nat
  state : Nat
  launchPkg : Nat
  domain : Nat
  prio : Nat
  pkgs : Nat
  ht : Nat
  wd : Nat
  slots : Nat
  tvec : W64
  attic : Nat
  pantry : Nat
  drain : Nat
  image : Nat
  queuedAt : Nat
  bypass : Nat
  originYX : Option (Nat × Nat)
  hold : Bool
  ending : Bool
  pendingPre : Option Bool
  blocked : Bool
  rebind : List Nat
  deriving DecidableEq, Repr

/-- An intake port's binding and its seeds: sequence, token, state, attempt, the first cycle in which its task may be bound,
completion (R306, R313, R382 to R385). -/
structure SeedEnt where
  seq : Nat
  token : W64
  state : Nat
  attempt : Nat
  ready : Nat
  done : Option (Nat × Nat × W64)
  deriving DecidableEq, Repr

/-- An intake port (R306). -/
structure Port where
  part : Option Nat
  lastCore : Nat
  seeds : List SeedEnt
  queue : List Nat
  deriving DecidableEq, Repr

/-- A record or a credit of the dependence table, `res` in one of the reserved entries; a bound record stands on, outside the
table, until its task has ended (R316, R318). -/
structure DepEnt where
  rcb : Nat
  id : Nat
  record : Bool
  credit : Nat
  ndep : Nat
  va : W64
  d0 : W64
  d1 : W64
  d2 : W64
  d3 : W64
  readyAt : Option Nat
  bound : Bool
  uid : Nat
  res : Bool
  deriving DecidableEq, Repr

/-- A cached translation, of one core or, with core 2048, of the die (R335, R338). -/
structure Tlb where
  core : Nat
  part : Nat
  vbase : Nat
  pbase : Nat
  len : Nat
  perms : Nat
  deriving DecidableEq, Repr

/-- A page walk in flight or queued, or ended in failure, with the slots it serves that have not taken its failure yet (R336,
R338). -/
structure Walk where
  id : Nat
  part : Nat
  va : Nat
  failed : Bool
  running : Bool
  served : List (Nat × Nat)
  deriving DecidableEq, Repr

/-- A Dumbwaiter descriptor copied at acceptance (R341); `kv` marks one of the page manager, `running` is its channel, and
`pages` the physical pages its blob was found in when it started. `cut` says that its channel has faulted, and
that it waits for another. Of its run: `landed` the lines written, `counted` those its
barrier has counted, `buf` what it has read of the blob, and `bad` whether a word of that was uncorrectable (R344, R345). -/
structure DwEnt where
  op : Nat
  part : Nat
  sys : Bool
  pa : Nat
  d : List W64
  record : Bool
  kv : Bool
  running : Option Nat
  code : Nat
  pages : List Nat
  key : Option W256
  cut : Bool
  landed : Nat
  counted : Nat
  buf : List Byte
  bad : Bool
  deriving DecidableEq, Repr

/-- A Stair barrier (R347, R430); `set` says that its BCFG has been written, and `released` the groups released for the phase
now standing. -/
structure Bar where
  set : Bool
  exp : Nat
  s : Nat
  ngrp : Nat
  arrivals : Nat
  pending : Int
  phase : Bool
  releasing : Bool
  broken : Bool
  released : Nat
  owner : W64
  link : W64
  waiters : List Nat
  deriving DecidableEq, Repr

/-- A page-manager record in the queue (R391). -/
structure KvRec where
  op : Nat
  part : Nat
  sys : Bool
  pa : Nat
  d : List W64
  deriving DecidableEq, Repr

/-- A prefix-table entry (R396). -/
structure Prefix where
  valid : Bool
  groups : Nat
  hash : BitVec 128
  stamp : Nat
  deriving DecidableEq, Repr

/-- A key slot's key and LOADED bit; its owner is in KSOWN (R400). -/
structure KeySlot where
  key : W256
  loaded : Bool
  deriving DecidableEq, Repr

/-- A fabric flit; `deliver` is what the message does at its destination, carried by the last flit (R424), and `since` the cycle
in which it is at its boundary element (R442). -/
structure Flit where
  typ : Nat
  vc : Nat
  src : Nat
  dst : Nat
  su : Bool
  du : Bool
  len : Nat
  opc : Nat
  lseq : Nat
  since : Nat
  dstPkg : Nat
  dstHome : Nat
  deliver : Option (Instr × List Nat)
  deriving DecidableEq, Repr

/-- A boundary element: its channels' queues and credits, the flits it holds until they are acknowledged and those on the
wire, what a reroute makes wait, and the flits of messages that pass through and have not come whole (R425 to R427, R433). -/
structure Link where
  width : Nat
  rate : Nat
  up : Bool
  rerouted : Bool
  vcq : Vector (List Flit) 3
  credits : Vector Nat 3
  held : List Flit
  wire : List Flit
  next : Nat
  expect : Nat
  sinceVc0 : Nat
  resends : Nat
  rerouting : Bool
  waiting : List Flit
  partials : Vector (List Flit) 3
  deriving DecidableEq, Repr

/-- What a package is doing (R285, R413, R415). -/
inductive PkgSt where
  | porch | running | dormant | stopped
  deriving DecidableEq, Repr

/-- One package: its die's units and its control complex. -/
structure Pkg where
  st : PkgSt
  failStep : Nat
  failCode : Nat
  inService : Bool
  ports : Vector Port 4
  dep : List DepEnt
  heldDone : List (List Nat)
  heldWrites : List (List Nat)
  tlb : List Tlb
  walks : List Walk
  invals : Nat
  dwq : List DwEnt
  dwChans : BitVec 4
  bars : FMap Bar
  poison : List Nat
  mbin : List W64
  mbout : List W64
  kvq : List KvRec
  kvWait : Option (Nat × Nat × Nat)
  kvSaved : List Nat
  flNext : Nat
  px : FMap Prefix
  pxStamp : Nat
  keys : FMap KeySlot
  keyHeld : List (Nat × W64)
  keyBusy : Option W64
  residency : List DwEnt
  reloading : Bool
  trusted : List W256
  minver : W64
  version : W64
  measure : List Byte
  links : Vector Link 4
  tapIr : Nat
  tapDr : List Bool
  tapOut : List Bool
  boundary : List Bool
  pins : List Bool
  throttle : Nat
  dormantHeld : List (Nat × W64 × Bool)
  bankUnc : FMap (List (Nat × Nat))
  bankCor : FMap (List (Nat × Nat))
  spare : List Nat
  lost : List (Nat × Nat × Nat × Nat)
  lostEver : List (Nat × Nat × Nat × Nat)
  keptLogs : List W64
  deriving DecidableEq, Repr

/-- What a core's slice held below its Pantry for a halted partition, moved out of the way (R324). -/
structure AtticFrame where
  rcb : Nat
  core : Nat
  cells : List Host.Cell
  syn : FMap Byte
  deriving DecidableEq, Repr

/-- The machine: the card, the environment's script and the model's own bookkeeping. -/
structure State where
  now : Nat
  ver : Nat
  nextId : Nat
  freeCtr : Nat
  issued : Bool
  curCore : Nat
  curSlot : Nat
  args : List Nat
  agenda : List (Nat × Instr × List Nat)
  script : List Nat
  mem : List Host.Cell
  localBad : FMap Bool
  syn : FMap Byte
  accBad : List Nat
  wregs : FMap W64
  slots : FMap Slot
  cores : FMap Core
  cols : FMap Col
  pkgs : Vector Pkg 4
  parts : List Part
  frameSlots : List (Nat × Nat × Slot)
  frameCores : List (Nat × Nat × Core)
  frameRegs : List (Nat × Nat × List W64)
  atticFrames : List AtticFrame
  images : FMap Image
  corrs : FMap Corr
  flights : FMap Flight
  lastArr : FMap Nat
  deriving DecidableEq, Repr

/-- A slot as it stands after cold start: no task, every register 0, presence bits 1 (Table 1-6, R169). Log entry 1. -/
def Slot.reset : Slot where
  st := .free
  froze := .free
  pc := 0
  x := Vector.replicate 32 0
  v := Vector.replicate 32 0
  k := Vector.replicate 8 0
  present := 0xFF
  taskid := 0
  incarn := 0
  status := 0
  trapcause := 0
  trappc := 0
  trapval := 0
  waitchk := 0
  rndmode := 0
  flags := 0
  fmtA := 0
  fmtB := 0
  scaleA := 0
  scaleB := 0
  chains := Vector.replicate 12 ⟨0, 0, 0⟩
  sh := Vector.replicate 32 0
  ac := Vector.replicate 8 none
  gang := none
  pend := []
  flagDue := 0
  ready := 0
  w7 := false
  stall := none
  fbuf := []
  records := []
  errs := []
  barFaults := []
  holdR := []
  holdP := []
  request := none
  replied := none
  origin := none
  part := 0
  retiredAt := none
  draught := none
  freezing := false
  yielding := none
  retry := false
  entry := none
  hcount := 0

/-- A plane that holds no block (R206). -/
def Plane.empty : Plane :=
  { valid := false, kdepth := 0, ncols := 0, kb := 0, col0 := 0, fmt := 0, w := [], sB := [] }

/-- A cleared Geyser cell (R234). -/
def GCell.clear : GCell :=
  { y := 0, r := 0, cfg := 0, dyl := 0, dxl := 0, dxo := false, lastf := 0, routes := Vector.replicate 4 0 }

/-- A cleared step clock: halted, DIV 2, STEPS 0 (R234). -/
def GClk.clear : GClk :=
  { steps := 0, remain := 0, cc := 0, cnt := false, mode := 0, owner := 0, div := 2, next := 0 }

/-- A cleared Sinter: M is minus infinity, every other field 0 (R354). -/
def Sinter.clear : Sinter where
  heap := []
  m := 0xFF800000
  s := 0
  shards := []
  spanA := 0
  spanC := 0
  nshard := 0
  labels := Vector.replicate 8 ⟨false, 0, 0, 0, false⟩
  valid := false
  complete := false
  nanseen := false
  broken := false
  rpl := false
  drawn := 0
  drawnV := false
  replay := none
  last := none

/-- A core after cold start. -/
def Core.reset : Core where
  rr := 3
  nextIssue := 0
  hlast := none
  cc := Vector.replicate 16 0
  ccLog := []
  wm := Vector.replicate 8 0
  wmq := Vector.replicate 8 []
  cq := []
  lb := Vector.replicate 16 ⟨0, 0, 0, none, 0⟩
  seq := Vector.replicate 5 0
  arrq := []
  lbOrder := []
  spill := []
  spillbase := 0
  csrPend := []
  ovfptr := 0
  active := Plane.empty
  shadow := Plane.empty
  mq := []
  mqFreed := (0, 0)
  gcells := []
  gclk := Vector.replicate 4 GClk.clear
  gorec := Vector.replicate 4 0
  gsticky := 0
  gjob := none
  gfrozen := false
  chim := []
  sint := Sinter.clear
  sq := []
  ep := Vector.replicate 8 none
  grant := none
  barmask := 0
  owner := []
  frames := []
  saved := []

/-- A column after cold start. -/
def Col.reset : Col where
  lanes := Vector.replicate 4 0
  aops := []
  drain := none
  swtag := none
  swop := 0
  swready := false
  swfail := false
  lastFault := none
  faulted := false

/-- A disabled barrier: every field of its registers 0 (Table 15-11). -/
def Bar.reset : Bar :=
  { set := false, exp := 0, s := 4, ngrp := 1, arrivals := 0, pending := 0, phase := false, releasing := false, broken := false,
    released := 0, owner := 0, link := 0, waiters := [] }

/-- An unbound intake port, CLOSED (Table 14-5). -/
def Port.reset : Port := { part := none, lastCore := 0, seeds := [], queue := [] }

/-- A boundary element with its registers' reset values 0 and nothing held; 16 credits a channel, log entry 13. -/
def Link.reset : Link :=
  { width := 0, rate := 0, up := false, rerouted := false, vcq := Vector.replicate 3 [],
    credits := Vector.replicate 3 16, held := [], wire := [], next := 0, expect := 0, sinceVc0 := 0, resends := 0,
    rerouting := false, waiting := [], partials := Vector.replicate 3 [] }

/-- A package after cold start. -/
def Pkg.reset : Pkg where
  st := .running
  failStep := 0
  failCode := 0
  inService := true
  ports := Vector.replicate 4 Port.reset
  dep := []
  heldDone := []
  heldWrites := []
  tlb := []
  walks := []
  invals := 0
  dwq := []
  dwChans := 0xF
  bars := []
  poison := []
  mbin := []
  mbout := []
  kvq := []
  kvWait := none
  kvSaved := []
  flNext := 0
  px := []
  pxStamp := 0
  keys := []
  keyHeld := []
  keyBusy := none
  residency := []
  reloading := false
  trusted := []
  minver := 0
  version := 0
  measure := []
  links := Vector.replicate 4 Link.reset
  tapIr := 1
  tapDr := []
  tapOut := []
  boundary := []
  pins := []
  throttle := 0
  dormantHeld := []
  bankUnc := []
  bankCor := []
  spare := []
  lost := []
  lostEver := []
  keptLogs := []

/-- The machine right after cold start: no task, no partition, nothing in any queue, memory with nothing listed. -/
def State.reset : State where
  now := 0
  ver := 0
  nextId := 0
  freeCtr := 0
  issued := false
  curCore := 0
  curSlot := 0
  args := []
  agenda := []
  script := []
  mem := []
  localBad := []
  syn := []
  accBad := []
  wregs := []
  slots := []
  cores := []
  cols := []
  pkgs := Vector.replicate 4 Pkg.reset
  parts := []
  frameSlots := []
  frameCores := []
  frameRegs := []
  atticFrames := []
  images := []
  corrs := []
  flights := []
  lastArr := []

end Sys2Proof.Machine
end

