-- ==== Sys2Proof/Machine/Base.lean ====
section
/-! DEFINITION. Accessors of the state, memory, physical addresses and homes, the agenda, and messages between places. -/
namespace Sys2Proof.Machine
open Sys2Proof

/-! ### Places -/

/-- The key of a slot: slot 4 is the handler slot (R151). -/
def slotKey (core slot : Nat) : Nat := core * 8 + slot
/-- The package of a core (R14). -/
def pkgOfCore (core : Nat) : Nat := core / 512 % 4
/-- The column of a core: COLID[6:0] (Table 1-4). -/
def colOfCore (core : Nat) : Nat := core / 16
/-- A core's position in its column (Table 1-4). -/
def posOfCore (core : Nat) : Nat := core % 16
/-- The package of a column (Table 1-3). -/
def pkgOfCol (col : Nat) : Nat := col / 32 % 4
/-- The core of a column at a position (R14). -/
def coreAt (col pos : Nat) : Nat := col * 16 + pos

/-- Puts an element before the first one that it does not follow. -/
def insertBy {α : Type} (le : α → α → Bool) (a : α) : List α → List α
  | [] => [a]
  | b :: l => if le a b then a :: b :: l else b :: insertBy le a l
/-- A list in order; equal elements keep theirs. -/
def sortBy {α : Type} (le : α → α → Bool) : List α → List α
  | [] => []
  | a :: l => insertBy le a (sortBy le l)

/-- What an unlisted slot is: a slot after cold start; the handler slot is always at system level (R151). -/
def slotDefault (slot : Nat) : Slot := if slot = 4 then { Slot.reset with status := 1 } else Slot.reset

def getSlot (s : State) (core slot : Nat) : Slot := s.slots.get (slotDefault slot) (slotKey core slot)
def setSlot (s : State) (core slot : Nat) (t : Slot) : State := { s with slots := s.slots.ins (slotKey core slot) t }
def modSlot (s : State) (core slot : Nat) (f : Slot → Slot) : State := setSlot s core slot (f (getSlot s core slot))
def getCore (s : State) (core : Nat) : Core := s.cores.get Core.reset core
def setCore (s : State) (core : Nat) (c : Core) : State := { s with cores := s.cores.ins core c }
def modCore (s : State) (core : Nat) (f : Core → Core) : State := setCore s core (f (getCore s core))
def getCol (s : State) (col : Nat) : Col := s.cols.get Col.reset col
def modCol (s : State) (col : Nat) (f : Col → Col) : State := { s with cols := s.cols.ins col (f (getCol s col)) }
def getPkg (s : State) (p : Nat) : Pkg := s.pkgs.toList.getD (p % 4) Pkg.reset
def modPkg (s : State) (p : Nat) (f : Pkg → Pkg) : State :=
  { s with pkgs := s.pkgs.set! (p % 4) (f (getPkg s p)) }
/-- The slot issuing in this step. -/
def me (s : State) : Slot := getSlot s s.curCore s.curSlot
def modMe (s : State) (f : Slot → Slot) : State := modSlot s s.curCore s.curSlot f
/-- The core issuing in this step. -/
def myCore (s : State) : Core := getCore s s.curCore
def modMyCore (s : State) (f : Core → Core) : State := modCore s s.curCore f

/-- An element of a fixed vector by number, and its update; a number outside is the last one's place modulo the length. -/
def vget {α : Type} {n : Nat} (d : α) (v : Vector α n) (i : Nat) : α := v.toList.getD i d
def vset {α : Type} {n : Nat} (v : Vector α n) (i : Nat) (a : α) : Vector α n := v.set! i a

/-- A value no rule fixes: an opaque word applied to the counter, which advances. Log entry 2. -/
def takeFree (s : State) : W64 × State := (Config.freeWord s.freeCtr, { s with freeCtr := s.freeCtr + 1 })
/-- A choice no rule fixes, as `takeFree`. -/
def takeFreeBit (s : State) : Bool × State := (Config.freeBit s.freeCtr, { s with freeCtr := s.freeCtr + 1 })
/-- The environment's next choice of a delay the manual leaves open; 0 once the script has run out. Log entry 4. -/
def takeDelay (s : State) : Nat × State :=
  match s.script with
  | [] => (0, s)
  | d :: r => (d, { s with script := r })
/-- A fresh number for an access, an operation or a walk; numbers ascend in issue order. -/
def takeId (s : State) : Nat × State := (s.nextId, { s with nextId := s.nextId + 1 })

/-! ### The agenda -/

/-- The place of a step among those of one cycle: releases, commits, pops, reservations (R257); boundaries before link
increments (R239); the end of a release window, which belongs to the cycle before, first (R348); the landing of an `ald` line
before every other agent's access (R278), the writing of an `ast` line behind those of the base port (R275); last, and behind
the cycle's issues, the end of a drain, by which its draught markers reach the column's slots (R28). -/
def agendaPrio : Instr → Nat
  | .releaseAtHome => 0
  | .aldLineLanding => 0
  | .astLineWrite => 4
  | .drainEnd => 5
  | .drainAllowanceExpiry => 5
  | .linkedRelease => 0
  | .geyserBoundary => 0
  | .barrierWindowClose => 0
  | .commitAtHome => 1
  | .geyserLinkIncrement => 1
  | .reservationAtHome => 3
  | .reservationGrant => 3
  | _ => 2

def insertDue (due : Nat) (ev : Instr × List Nat) : List (Nat × Instr × List Nat) → List (Nat × Instr × List Nat)
  | [] => [(due, ev)]
  | (d, e) :: r =>
    if due < d ∨ (due = d ∧ agendaPrio ev.1 < agendaPrio e.1) then (due, ev) :: (d, e) :: r
    else (d, e) :: insertDue due ev r

/-- Puts a step with its operands on the agenda for a cycle, behind those already there for that cycle in its class. -/
def schedule (s : State) (due : Nat) (ev : Instr) (args : List Nat) : State :=
  { s with agenda := insertDue due (ev, args) s.agenda }
/-- Puts a step on the agenda for this cycle unless it already stands there. -/
def soon (s : State) (ev : Instr) (args : List Nat) : State :=
  if s.agenda.any (fun p => p.1 ≤ s.now && p.2 == (ev, args)) then s else schedule s s.now ev args
/-- Puts a step on the agenda for a cycle unless it already stands there for that cycle. -/
def scheduleOnce (s : State) (due : Nat) (ev : Instr) (args : List Nat) : State :=
  if s.agenda.any (fun p => p.1 == due && p.2 == (ev, args)) then s else schedule s due ev args
/-- Operand `i` of the hardware step being performed. -/
def arg (s : State) (i : Nat) : Nat := s.args.getD i 0
/-- Operand `i` as a dword. -/
def argW (s : State) (i : Nat) : W64 := BitVec.ofNat 64 (arg s i)

/-! ### Bytes of memory -/

/-- The byte at a physical address; an unlisted one reads 0. Log entry 3. -/
def memByte (s : State) (pa : Nat) : Byte := FMap.get 0 s.mem pa
/-- A memory with one byte written, in canonical form: no listed byte is 0, addresses ascend. -/
def memSet (m : List Host.Cell) (pa : Nat) (b : Byte) : List Host.Cell :=
  if b = 0 then FMap.del m pa else FMap.ins m pa b
def putByte (s : State) (pa : Nat) (b : Byte) : State := { s with mem := memSet s.mem pa b }
/-- `n` bytes from an address as a number, the lowest address least significant (R6). -/
def rdN (s : State) (pa : Nat) : Nat → Nat
  | 0 => 0
  | n + 1 => (memByte s pa).toNat + 256 * rdN s (pa + 1) n
/-- Writes the low `n` bytes of a number, the least significant at the lowest address (R6). -/
def wrN (s : State) (pa : Nat) : Nat → Nat → State
  | 0, _ => s
  | n + 1, v => wrN (putByte s pa (BitVec.ofNat 8 v)) (pa + 1) n (v / 256)
def rd64 (s : State) (pa : Nat) : W64 := BitVec.ofNat 64 (rdN s pa 8)
def wr64 (s : State) (pa : Nat) (v : W64) : State := wrN s pa 8 v.toNat
def rd32 (s : State) (pa : Nat) : W32 := BitVec.ofNat 32 (rdN s pa 4)
/-- Bytes of a list of dwords read one after the other. -/
def rd64s (s : State) (pa : Nat) : Nat → List W64
  | 0 => []
  | n + 1 => rd64 s pa :: rd64s s (pa + 8) n
def rdBytes (s : State) (pa : Nat) : Nat → List Byte
  | 0 => []
  | n + 1 => memByte s pa :: rdBytes s (pa + 1) n
def wrBytes (s : State) (pa : Nat) : List Byte → State
  | [] => s
  | b :: r => wrBytes (putByte s pa b) (pa + 1) r

/-- The memory list is in canonical form: addresses strictly rise and no listed byte is 0. -/
def memWf : List Host.Cell → Bool
  | [] => true
  | [(_, b)] => b != 0
  | (a, b) :: (a', b') :: r => b != 0 && decide (a < a') && memWf ((a', b') :: r)

/-! ### Physical addresses (Table 15-1) -/

def localPa (core a : Nat) : Nat := 0x020000000000 + 0x80000 * core + a
def accPa (core e : Nat) : Nat := 0x020000040000 + 0x80000 * core + 16 * e
def slicePa (core o : Nat) : Nat := 0x010000000000 + 0x2000000 * core + o
def coreWin (core off : Nat) : Nat := 0x030000000000 + 0x1000 * core + off
def dieWin (pkg unit off : Nat) : Nat := 0x030010000000 + 0x100000 * pkg + 0x10000 * unit + off
def ccWin (pkg off : Nat) : Nat := 0x038000000000 + 0x100000000 * pkg + off
def gddrPa (pkg off : Nat) : Nat := 0xC00000000 * pkg + off
/-- Coherent memory of a control-complex window is package GDDR-7 from 0xB_0100_0000 (R378). -/
def cohPa (pkg off : Nat) : Nat := gddrPa pkg (0xB00000000 + off)
/-- Die unit numbers by place in Table 15-1. -/
def uFoyer : Nat := 0
def uTrans : Nat := 1
def uDw : Nat := 2
def uBar : Nat := 3
def uGddr : Nat := 4

/-- The region of a physical address, with its home and the offset there (R328). -/
inductive Place where
  | gddr (pkg chan : Nat)
  | slice (core off : Nat)
  | localMem (core off : Nat)
  | acc (core off : Nat)
  | coreReg (core off : Nat)
  | unit (pkg unit off : Nat)
  | cc (pkg off : Nat)
  | none
  deriving DecidableEq, Repr

/-- Which home an address has; an address outside every range of Table 15-1 has none (R328). -/
def placeOf (pa : Nat) : Place :=
  if pa < 0x3000000000 then .gddr (pa / 0xC00000000) (pa % 0xC00000000 / 256 % 48)
  else if 0x010000000000 ≤ pa ∧ pa < 0x011000000000 then
    if pa % 0x2000000 < 0x1800000 then .slice (pa / 0x2000000 % 2048) (pa % 0x2000000) else .none
  else if 0x020000000000 ≤ pa ∧ pa < 0x020040000000 then
    if pa % 0x80000 < 0x40000 then .localMem (pa / 0x80000 % 2048) (pa % 0x80000)
    else if pa % 0x80000 < 0x60000 then .acc (pa / 0x80000 % 2048) (pa % 0x80000 - 0x40000) else .none
  else if 0x030000000000 ≤ pa ∧ pa < 0x030000800000 then .coreReg (pa / 0x1000 % 2048) (pa % 0x1000)
  else if 0x030010000000 ≤ pa ∧ pa < 0x030010400000 then
    if pa % 0x100000 < 0x50000 then .unit (pa / 0x100000 % 4) (pa / 0x10000 % 16) (pa % 0x10000) else .none
  else if 0x038000000000 ≤ pa ∧ pa < 0x038400000000 then .cc (pa / 0x100000000 % 4) (pa % 0x100000000)
  else .none

/-- The number of a home: two places have one number when they are one home (R92, R328). -/
def homeNo : Place → Nat
  | .localMem c _ => c
  | .acc c _ => c
  | .coreReg c _ => c
  | .slice c _ => 2048 + c
  | .gddr p ch => 4096 + 48 * p + ch
  | .unit p u _ => 4352 + 8 * p + u
  | .cc p _ => 4400 + p
  | .none => 4500

/-- The package of a home. -/
def pkgOfPlace : Place → Nat
  | .localMem c _ => pkgOfCore c
  | .acc c _ => pkgOfCore c
  | .coreReg c _ => pkgOfCore c
  | .slice c _ => pkgOfCore c
  | .gddr p _ => p
  | .unit p _ _ => p
  | .cc p _ => p
  | .none => 0

/-- Where the bytes of an address stand: coherent memory stands in its backing GDDR-7 (R378). -/
def backing (pa : Nat) : Nat :=
  match placeOf pa with
  | .cc p off => if 0x1000000 ≤ off then cohPa p off else pa
  | _ => pa

/-! ### Window registers -/

/-- The reset value of a window register by its place (Tables 6-10, 12-1, 14-4, 15-10, 18-1); every other is 0. -/
def wregReset (pa : Nat) : W64 :=
  match placeOf pa with
  | .coreReg _ off => if off = 0x080 ∨ off = 0x088 then 0x1800000 else 0
  | .unit _ u off => if u = uFoyer ∧ off = 0 then 0x100008 else if u = uDw ∧ off = 0x018 then 0xF00 else 0
  | .cc _ off => if 0x200 ≤ off ∧ off < 0x240 then 0xFFFFFFFFFFFFFFFF else if off = 0x240 then 0xFF else 0
  | _ => 0

def getReg (s : State) (pa : Nat) : W64 := s.wregs.get (wregReset pa) pa
def setReg (s : State) (pa : Nat) (v : W64) : State := { s with wregs := s.wregs.ins pa v }
def attcap (s : State) (core : Nat) : Nat := (getReg s (coreWin core 0x080)).toNat % 0x2000000
def pantry (s : State) (core : Nat) : Nat := (getReg s (coreWin core 0x088)).toNat % 0x2000000
/-- Whether a core is in service (INSVC, R378). -/
def inSvc (s : State) (core : Nat) : Bool :=
  (getReg s (ccWin (pkgOfCore core) (0x200 + 8 * (core % 512 / 64)))).toNat.testBit (core % 64)

/-- The card time base as a package reads it: the readings of two packages differ by at most 8 cycles (R422). -/
def timeBase (s : State) (pkg : Nat) : Nat := s.now + Config.clockSkew pkg % 9

/-! ### Bits -/

/-- Bits [lo + len - 1 : lo] of a dword as a number. -/
def bits (v : W64) (lo len : Nat) : Nat := v.toNat / 2 ^ lo % 2 ^ len
/-- One bit of a dword. -/
def bitOf (v : W64) (i : Nat) : Bool := v.getLsbD i
/-- A dword with bits [lo + len - 1 : lo] replaced. -/
def setBits (v : W64) (lo len x : Nat) : W64 :=
  BitVec.ofNat 64 (v.toNat - v.toNat / 2 ^ lo % 2 ^ len * 2 ^ lo + x % 2 ^ len * 2 ^ lo)
/-- A dword's value as two's complement. -/
def sgn (v : W64) : Int := v.toInt
/-- A count raised by a number, stopping at 0xFFFF, in a 16-bit field of a dword at bit `lo` (R176, R284). -/
def satAdd16 (v : W64) (lo n : Nat) : W64 := setBits v lo 16 (min (bits v lo 16 + n) 0xFFFF)
def b2n (b : Bool) : Nat := if b then 1 else 0

/-! ### Messages between places -/

/-- A queue has held an active message for some cycles: its wait count rises by that time in units of 4 cycles, and stops at
2,049 (R25). -/
def addWait (s : State) (id cycles : Nat) : State :=
  match s.flights.find id with
  | some f => { s with flights := s.flights.ins id { f with waitc := min 2049 (f.waitc + cycles / 4) } }
  | none => s
/-- Puts a step that a message causes at its destination on the agenda: it arrives after the crossing and a time in the queues
of mesh routers that the environment chooses, and never before an earlier message of the same source and home (R103, R423). -/
def arriveIn (s : State) (least key : Nat) (ev : Instr) (args : List Nat) : State :=
  let (d, s) := takeDelay s
  let s := match ev with
    | .amsendArrival => addWait s (args.headD 0) d
    | _ => s
  let due := max (s.now + least + d) (s.lastArr.get 0 key)
  schedule { s with lastArr := s.lastArr.ins key due } due ev args
def arrive (s : State) (key : Nat) (ev : Instr) (args : List Nat) : State := arriveIn s 1 key ev args

/-! ### The die mesh (R313, R442) -/

/-- The place on the grid, GRID_Y and GRID_X, and the height in its column of a home, where a rule gives it: a core, its slice,
a Foyer. -/
def gridOf (home : Nat) : Option (Nat × Nat × Nat) :=
  if home < 4096 then some (colOfCore (home % 2048) / 8 % 4, colOfCore (home % 2048) % 8, posOfCore home)
  else if 4352 ≤ home ∧ home < 4384 ∧ home % 8 = 0 then some (0, 0, 0) else none
/-- The column beside which a boundary element sits. -/
def elemGrid (elem : Nat) : Nat × Nat := (elem % 2 * 3, if elem < 2 then 7 else 0)
/-- The hops between two places: along GRID_X, then along GRID_Y. -/
def meshHops (a b : Nat × Nat) : Nat := (max a.1 b.1 - min a.1 b.1) + (max a.2 b.2 - min a.2 b.2)
/-- The cycles of a crossing between a home and a boundary element: 2 a hop, one hop more at the element, 1 a position of the
column; for a home whose place no rule gives, the hop at the element alone. -/
def crossCycles (home elem : Nat) : Nat :=
  match gridOf home with
  | some (y, x, pos) => 2 * (meshHops (y, x) (elemGrid elem) + 1) + pos
  | none => 2
/-- The cycles of a crossing between two elements of one die, a hop more at each. -/
def throughCycles (a b : Nat) : Nat := 2 * (meshHops (elemGrid a) (elemGrid b) + 2)

/-- Whether an element still carries traffic: its link has not been lost (R433). -/
def linkOn (s : State) (pkg k : Nat) : Bool := !(vget Link.reset (getPkg s pkg).links k).rerouted
/-- The element of the fixed route of R423 from one package to another. -/
def elemPref (src dst srcNo dstNo : Nat) : Nat := (if (dst + 4 - src) % 4 = 3 then 2 else 0) + (srcNo + dstNo) % 2
/-- The element in the place of one that is lost: the other link of its pair, else the other way round (R433). -/
def elemInstead (s : State) (pkg k : Nat) : Nat :=
  let pair := k / 2 * 2
  if linkOn s pkg k then k
  else if linkOn s pkg (pair + (k + 1) % 2) then pair + (k + 1) % 2
  else if linkOn s pkg ((pair + 2) % 4 + k % 2) then (pair + 2) % 4 + k % 2 else (pair + 2) % 4 + (k + 1) % 2

/-- The package an element faces (R427). -/
def peerPkg (pkg elem : Nat) : Nat := if elem < 2 then (pkg + 1) % 4 else (pkg + 3) % 4
/-- The peer's element of the same link (R427). -/
def peerElem (elem : Nat) : Nat := (elem + 2) % 4

/-- Puts flits of one message into an element's queue; they go on once they have reached the element. -/
def enqueueFlits (s : State) (pkg k vc : Nat) (fs : List Flit) : State :=
  let s := modPkg s pkg (fun p =>
    let l := vget Link.reset p.links k
    { p with links := vset p.links k { l with vcq := vset l.vcq vc (vget [] l.vcq vc ++ fs) } })
  scheduleOnce s (fs.foldl (fun a f => max a f.since) s.now) .flitSend [pkg, k]
/-- Sends a message from package to package and home to home: within one package, by the mesh; else across the mesh to a
boundary element and on as its flits (R423, R424, R442); while a reroute moves the traffic of the element, it is held (R434). A
message for a package out of service goes no further than its source, where its step refuses it (R435). -/
def send (s : State) (src dst srcHome dstHome typ vc bytes key : Nat) (ev : Instr) (args : List Nat) : State :=
  if src = dst ∨ !(getPkg s dst).inService then arrive s key ev args
  else
    let k := elemPref src dst srcHome dstHome
    let nf := max ((bytes + 55) / 56) 1
    let flit (i : Nat) : Flit :=
      { typ := typ, vc := vc, src := srcHome % 2048, dst := dstHome % 2048, su := decide (2048 ≤ srcHome),
        du := decide (2048 ≤ dstHome), len := nf - 1 - i, opc := 0, lseq := 0, since := s.now + crossCycles srcHome (elemInstead s src k),
        dstPkg := dst, dstHome := dstHome, deliver := if i + 1 = nf then some (ev, args) else none }
    let fs := (List.range nf).map flit
    if (vget Link.reset (getPkg s src).links k).rerouting then
      modPkg s src (fun p =>
        let l := vget Link.reset p.links k
        { p with links := vset p.links k { l with waiting := l.waiting ++ fs } })
    else enqueueFlits s src (elemInstead s src k) vc fs

end Sys2Proof.Machine
end

