-- ==== Sys2Proof/Machine/Ops.lean ====
section
/-! DEFINITION. The operations every meaning shares: registers and their pending writes, issue, error checks of memory,
translation, the fault log, faults waiting for their observation, taking a trap and returning from one, and retirement. -/
namespace Sys2Proof.Machine
open Sys2Proof

/-! ### Registers (R19, R35 to R38, R64, R169) -/

/-- The value of a scalar register; x0 reads 0 (R64). -/
def Slot.rx (t : Slot) (r : Nat) : W64 := if r = 0 then 0 else vget 0 t.x r
def Slot.rv (t : Slot) (r : Nat) : W256 := vget 0 t.v r
def Slot.rk (t : Slot) (r : Nat) : W32 := vget 0 t.k r
/-- The scalar register a field of the issuing slot names. -/
def xr {n : Nat} (s : State) (r : BitVec n) : W64 := (me s).rx r.toNat
def vr {n : Nat} (s : State) (r : BitVec n) : W256 := (me s).rv r.toNat
def kr {n : Nat} (s : State) (r : BitVec n) : W32 := (me s).rk r.toNat

/-- The bits of a control register that a write changes, by number: RO and reserved bits are left (R9, R10). -/
def csrMask (r : Nat) : W64 :=
  if r = 0x000 then 0x3E else if r = 0x001 then 0xF03F else if r = 0x002 then 0xFFFFFFFFFFFFC
  else if r = 0x003 then 0xFFFFFFFFFFFFFFFF else if r = 0x004 then 0xFFFF0003
  else if r = 0x010 ∨ r = 0x011 then 0x10F else if r = 0x012 ∨ r = 0x013 then 0x10003FFFC
  else if r = 0x018 then 0x87 else if r = 0x019 then 0x7F
  else if r = 0x020 then 0x3FFFFFC0 else if r = 0x021 then 0xFFFFFFFFFFFC0 else 0

/-- RNDMODE with a new value stored: MODE 5 to 7 leave MODE as it stands (R130). -/
def rndStore (old new : W64) : W64 :=
  let v := (new &&& 0x87)
  if 5 ≤ bits v 0 3 then setBits v 0 3 (bits old 0 3) else v

/-- A slot with the value of one of its own control registers replaced; the handler slot ignores those it lacks (R151). -/
def Slot.putCsr (t : Slot) (handler : Bool) (r : Nat) (v : W64) : Slot :=
  let m := csrMask r
  let upd (old : W64) : W64 := (old &&& ~~~m) ||| (v &&& m)
  if r = 0x000 then { t with status := upd t.status }
  else if r = 0x001 then { t with trapcause := v &&& m }
  else if r = 0x002 then { t with trappc := v &&& m }
  else if r = 0x003 then { t with trapval := v }
  else if r = 0x004 then { t with waitchk := v &&& m }
  else if r = 0x018 then { t with rndmode := rndStore t.rndmode v }
  else if r = 0x019 then { t with flags := v &&& m }
  else if handler then t
  else if r = 0x010 then { t with fmtA := v &&& m }
  else if r = 0x011 then { t with fmtB := v &&& m }
  else if r = 0x012 then { t with scaleA := v &&& m }
  else if r = 0x013 then { t with scaleB := v &&& m }
  else t

/-- A slot with one register write landed; a scalar write sets the presence bit of x24 to x31 (R169). -/
def Slot.land (t : Slot) (handler : Bool) (p : Pend) : Slot :=
  match p.file with
  | .x => if p.idx = 0 then t else
      { t with x := vset t.x p.idx (p.val.setWidth 64)
               present := if 24 ≤ p.idx then t.present ||| BitVec.ofNat 8 (2 ^ (p.idx - 24)) else t.present }
  | .v => { t with v := vset t.v p.idx p.val }
  | .k => { t with k := vset t.k p.idx (p.val.setWidth 32) }
  | .csr => t.putCsr handler p.idx (p.val.setWidth 64)
  | .flags => { t with flags := t.flags ||| p.val.setWidth 64 }

def landAll (handler : Bool) : List Pend → Slot → Slot
  | [], t => t
  | p :: r, t => landAll handler r (t.land handler p)

/-- The slot as its registers stand in cycle `now`: every fixed-latency write that is due has landed, in issue order
(R35, R38). -/
def Slot.landDue (t : Slot) (handler : Bool) (now : Nat) : Slot :=
  let due := t.pend.filter (fun p => !p.var && decide (p.due ≤ now))
  let rest := t.pend.filter (fun p => p.var || decide (now < p.due))
  landAll handler due { t with pend := rest }

/-- Pending writes in order of the cycle in which they land: a new one stands behind every one that lands no later, so that
those of one cycle keep issue order (R38). -/
def insPend (p : Pend) : List Pend → List Pend
  | [] => [p]
  | q :: r => if (q :: r).all (fun x => decide (p.due < x.due)) then p :: q :: r else q :: insPend p r

/-- The slot with a write added: an earlier write to the same register that would land after it is discarded (R38). -/
def Slot.addPend (t : Slot) (p : Pend) : Slot :=
  let kept := t.pend.filter (fun q => !(q.file == p.file && q.idx == p.idx && decide (p.due < q.due) && !q.var))
  { t with pend := insPend p kept }

/-- A core with its pending writes of SPILLBASE and OVFPTR that are due landed (R79). -/
def landCoreList (now : Nat) : List (Nat × Nat × W64) → Core → Core
  | [], c => c
  | (due, r, v) :: l, c =>
    let c := landCoreList now l c
    if now < due then { c with csrPend := (due, r, v) :: c.csrPend }
    else if r = 0x020 then { c with spillbase := v &&& csrMask 0x020 } else { c with ovfptr := v &&& csrMask 0x021 }
def Core.landDue (c : Core) (now : Nat) : Core := landCoreList now c.csrPend { c with csrPend := [] }

/-- A write of the issuing slot to register `idx` of a file with result latency `lat` (R35, R64). -/
def wreg (s : State) (f : RFile) (idx lat : Nat) (v : W256) : State :=
  if f = .x ∧ idx = 0 then s
  else modMe s (fun t => t.addPend { file := f, idx := idx, val := v, due := s.now + lat, var := false })
def wx {n : Nat} (s : State) (d : BitVec n) (lat : Nat) (v : W64) : State := wreg s .x d.toNat lat (v.setWidth 256)
def wv {n : Nat} (s : State) (d : BitVec n) (lat : Nat) (v : W256) : State := wreg s .v d.toNat lat v
def wk {n : Nat} (s : State) (d : BitVec n) (lat : Nat) (v : W32) : State := wreg s .k d.toNat lat (v.setWidth 256)
/-- Flags that the issuing slot's result sets when its latency has run out (R138); the cycle is remembered for R79. -/
def wflags (s : State) (lat fl : Nat) : State :=
  modMe s (fun t => { t with
    flagDue := max t.flagDue (s.now + lat),
    pend := if fl = 0 then t.pend
      else insPend { file := .flags, idx := 0, val := BitVec.ofNat 256 fl, due := s.now + lat, var := false } t.pend })
/-- Flags merged into a slot at once (R138). -/
def orFlags (s : State) (core slot fl : Nat) : State :=
  modSlot s core slot (fun t => { t with flags := t.flags ||| BitVec.ofNat 64 fl })

/-! ### Issue -/

def lvlOf (t : Slot) : Bool := bitOf t.status 0
def inTrap (t : Slot) : Bool := bitOf t.status 2
def fieOf (t : Slot) : Bool := bitOf t.status 4
/-- STATUS.FIE of a slot as it stands in this cycle (R79, R137). -/
def fieNow (s : State) (core slot : Nat) : Bool := fieOf ((getSlot s core slot).landDue (slot == 4) s.now)

/-- The issuing slot continues at `target`, its next instruction no earlier than the wait count lets it (R34, R36);
a target outside the fetch buffer issues 3 cycles later and empties the buffer (R72, R109). -/
def goTo (s : State) (w : BitVec 3) (target : W64) : State :=
  let n := if w = 7 then 0 else w.toNat
  modMe { s with issued := true } (fun t =>
    let hit := t.fbuf.any (fun p => p.1 == target.toNat)
    { t with pc := target, w7 := w == 7, stall := none, fbuf := if hit then t.fbuf else []
             ready := s.now + 1 + n + (if hit then 0 else 3) })
/-- The issuing slot goes on to the next word (R34). -/
def retire (s : State) (w : BitVec 3) : State :=
  let n := if w = 7 then 0 else w.toNat
  modMe { s with issued := true } (fun t =>
    { t with pc := t.pc + 4, w7 := w == 7, stall := none, ready := s.now + 1 + n })
/-- The issuing slot stalls: its instruction has not issued, and is tried again once anything has changed (R152). -/
def stallMe (s : State) : State := modMe s (fun t => { t with stall := some s.ver })
/-- The issuing slot stalls until a cycle it knows. -/
def stallTo (s : State) (due : Nat) : State := modMe s (fun t => { t with ready := due, stall := none })

/-! ### Errors of memory words (R94, R99, R155, R281, R282, R332) -/

def popc8 (n : Nat) : Nat := (List.range 8).foldl (fun a i => a + n / 2 ^ i % 2) 0
/-- The eight-bit values of a weight, ascending (R281). -/
def colsOfWeight (w : Nat) : List Nat := (List.range 256).filter (fun n => popc8 n == w)
/-- The 64 data columns of the Attic's check code (R281). -/
def dataCols : List Nat := colsOfWeight 3 ++ (colsOfWeight 5).take 8
/-- The 26 address columns of the Attic's check code (R281). -/
def addrCols : List Nat := ((colsOfWeight 5).drop 8).take 26
def xorCols : List Nat → Nat → Nat
  | [], _ => 0
  | c :: r, n => (if n % 2 = 1 then Nat.xor c (xorCols r (n / 2)) else xorCols r (n / 2))
/-- The check byte of a dword at a slice offset of a core (R281). -/
def checkByte (core off : Nat) (d : W64) : Nat :=
  Nat.xor (xorCols dataCols d.toNat) (xorCols addrCols (off / 8 % 0x400000 + posOfCore core * 0x400000))

/-- What a check finds in a word. -/
inductive WordErr where
  | good | corrected | ecc | attic (kind : Nat)
  deriving DecidableEq, Repr

def WordErr.isAttic : WordErr → Bool
  | .attic _ => true
  | _ => false

/-- The outcome of a syndrome (Table 12-2). -/
def decodeSyn (sy : Nat) : WordErr :=
  if sy = 0 then .good
  else if sy = 0xFF then .attic 1
  else if dataCols.contains sy ∨ popc8 sy = 1 then .corrected
  else if addrCols.contains sy then .attic 2 else .attic 0

/-- The data a read returns after correction: a data column names the flipped bit (R282). -/
def fixWord (d : W64) (sy : Nat) : W64 :=
  match dataCols.findIdx? (· == sy) with
  | some i => d ^^^ BitVec.ofNat 64 (2 ^ i)
  | none => d

/-- What the check of the dword that holds an address finds. -/
def wordErr (s : State) (pa : Nat) : WordErr :=
  match placeOf pa with
  | .localMem .. => match s.localBad.find (pa / 8) with
    | some true => .ecc
    | some false => .corrected
    | none => .good
  | .slice .. => decodeSyn (s.syn.get 0 (pa / 8)).toNat
  | .acc .. => if s.accBad.contains (pa / 16) then .ecc else .good
  | .gddr p _ => if (getPkg s p).poison.contains (pa / 32) then .ecc else .good
  | .cc p _ => if (getPkg s p).poison.contains (backing pa / 32) then .ecc else .good
  | _ => .good

/-- The dword as a read returns it. -/
def dwordAt (s : State) (pa : Nat) : W64 :=
  let d := rd64 s (backing (pa / 8 * 8))
  match placeOf pa with
  | .slice .. => fixWord d (s.syn.get 0 (pa / 8)).toNat
  | _ => d

/-- A correctable error of a local dword is corrected in the array and counted (R94, R176). -/
def countCorrected (s : State) (pa : Nat) : State :=
  match placeOf pa with
  | .localMem c _ =>
    if s.localBad.find (pa / 8) = some false then
      let r := coreWin c 0x030
      { setReg s r (satAdd16 (getReg s r) 0 1) with localBad := s.localBad.del (pa / 8) }
    else s
  | _ => s

/-- The layers of a package in service, from the base die upwards (LAYERSVC). -/
def layersIn (s : State) (pkg : Nat) : List Nat := (List.range 8).filter (fun n => bitOf (getReg s (ccWin pkg 0x240)) n)
/-- Which Attic bank of a slice an offset lies in: layer times 8 and bank; offsets are contiguous over the layers in service
(R273, R286). -/
def bankOf (s : State) (core off : Nat) : Nat :=
  (layersIn s (pkgOfCore core)).getD (off / 0x300000) (off / 0x300000) * 8 + off % 0x300000 / 0x60000

/-- The first findings of a bank within a window of 2 to the 30 cycles, with one more offset (R285). -/
def addFinding (now off : Nat) (l : List (Nat × Nat)) : List (Nat × Nat) :=
  let l := l.filter (fun p => decide (now < p.2 + 2 ^ 30))
  if l.any (fun p => p.1 == off) then l else (off, now) :: l

/-- A checker's report of a word into the slice owner's registers, the poisoning of a word of KIND 0 or 2, and the counts
by which a bank is lost (R282, R284, R285). -/
def reportAttic (s : State) (pa : Nat) : State :=
  match placeOf pa with
  | .slice c off =>
    let sy := (s.syn.get 0 (pa / 8)).toNat
    let cnt := coreWin c 0x090
    let log := coreWin c 0x098
    let bank := bankOf s c off
    let key := c * 64 + bank
    let p := pkgOfCore c
    let lose (s : State) : State := soon s .partLoss [c, bank / 8, bank % 8, 0]
    match decodeSyn sy with
    | .corrected =>
      let s := setReg s cnt (satAdd16 (getReg s cnt) 0 1)
      let old := (getPkg s p).bankCor.get [] key
      let new := addFinding s.now (off / 8) old
      let s := modPkg s p (fun q => { q with bankCor := q.bankCor.ins key new })
      if 4096 ≤ new.length ∧ old.length < new.length then lose s else s
    | .attic kind =>
      if kind = 1 then s else
      let s := setReg s cnt (satAdd16 (getReg s cnt) (if kind = 2 then 32 else 16) 1)
      let s := if bitOf (getReg s log) 63 then s else
        setReg s log (BitVec.ofNat 64 (2 ^ 63 + kind * 2 ^ 61 + sy * 2 ^ 53 + bank / 8 * 2 ^ 50
          + bank % 8 * 2 ^ 47 + off / 8 * 8))
      let s := { s with syn := s.syn.ins (pa / 8) 0xFF }
      let old := (getPkg s p).bankUnc.get [] key
      let new := addFinding s.now (off / 8) old
      let s := modPkg s p (fun q => { q with bankUnc := q.bankUnc.ins key new })
      if 3 ≤ new.length ∧ old.length < new.length then lose s else s
    | _ => s
  | _ => s

/-- Clears the error marks of a dword that is written whole: new check bits, no poison (R94, R282); a GDDR-7 granule is
cleared only by a write of the whole granule (R332); an accumulator entry is written lower dword first (R155). -/
def freshDword (s : State) (pa : Nat) : State :=
  match placeOf pa with
  | .localMem .. => { s with localBad := s.localBad.del (pa / 8) }
  | .slice .. => { s with syn := s.syn.del (pa / 8) }
  | .acc .. => if pa % 16 = 0 then { s with accBad := s.accBad.filter (· != pa / 16) } else s
  | _ => s
/-- Writes a dword whole. -/
def putDword (s : State) (pa : Nat) (v : W64) : State := wr64 (freshDword s pa) (backing pa) v
/-- Writes an Attic dword poisoned: its stored check byte inverted (R282). -/
def putPoison (s : State) (pa : Nat) (v : W64) : State :=
  let s := wr64 s pa v
  { s with syn := s.syn.ins (pa / 8) 0xFF }

/-- An accumulator entry (R155), and its writing, which rebuilds the parity. -/
def getAcc (s : State) (core e : Nat) : BitVec 128 := BitVec.ofNat 128 (rdN s (accPa core e) 16)
def putAcc (s : State) (core e : Nat) (v : BitVec 128) : State :=
  let s := wrN s (accPa core e) 16 v.toNat
  { s with accBad := s.accBad.filter (· != accPa core e / 16) }

/-! ### Partitions and the fault log (R380, R441) -/

def findPart (s : State) (rcb : Nat) : Option Part := s.parts.find? (fun p => p.rcb == rcb && p.state != 8)
def modPart (s : State) (rcb : Nat) (f : Part → Part) : State :=
  { s with parts := s.parts.map (fun p => if p.rcb == rcb && p.state != 8 then f p else p) }
/-- The partition at the root of a region's chain, whose translations and barriers the region shares (R303, R333). -/
def partOf (s : State) (rcb : Nat) : Nat :=
  match findPart s rcb with
  | some p => p.root
  | none => rcb
/-- The region a core is granted to, or 0. -/
def regionOf (s : State) (core : Nat) : Nat :=
  match (getCore s core).grant with
  | some g => g.rcb
  | none => 0
def partOfCore (s : State) (core : Nat) : Nat := partOf s (regionOf s core)

/-- Writes one notice of a fault domain into the fault log of the launching package of a region's partition, or, for no
partition, of the package where it arose (R380); a structure that is absent loses it (R440). -/
def faultLog (s : State) (region arose cause unit core : Nat) (pc value : W64) : State :=
  let rcb := partOf s region
  let (pkg, domain) := match findPart s rcb with
    | some p => (p.launchPkg, p.domain)
    | none => (arose, 0)
  let rcb := if (findPart s rcb).isSome then rcb else 0
  let base := getReg s (ccWin pkg 0x040)
  let off := bits base 5 27 * 32
  let n := 2 ^ (bits base 0 4 + 6)
  let head := bits (getReg s (ccWin pkg 0x048)) 0 32
  let tail := bits (getReg s (ccWin pkg 0x050)) 0 32
  if off < 0x1000000 ∨ 0x100000000 < off + 32 * n then s
  else if (head + 2 ^ 32 - tail) % 2 ^ 32 = n then
    let a := cohPa pkg (off + 32 * ((head + 2 ^ 32 - 1) % n) + 24)
    wr64 s a (satAdd16 (rd64 s a) 48 1)
  else
    let a := cohPa pkg (off + 32 * (head % n))
    let s := wr64 s a (BitVec.ofNat 64 (domain * 2 ^ 56 + cause % 256 * 2 ^ 48 + unit % 16 * 2 ^ 44
      + core % 2048 * 2 ^ 32 + timeBase s pkg / 4 % 2 ^ 32))
    let s := wr64 s (a + 8) pc
    let s := wr64 s (a + 16) value
    let s := wr64 s (a + 24) (BitVec.ofNat 64 rcb)
    let s := setReg s (ccWin pkg 0x048) (BitVec.ofNat 64 ((head + 1) % 2 ^ 32))
    setReg s (ccWin pkg 0) (getReg s (ccWin pkg 0) ||| 4)

/-! ### Completion counters, records and their delivery (R90, R161 to R163) -/

/-- Adds to a counter; the increments of the current cycle are remembered, since a `ccset` is applied before them
(R161). -/
def raiseCc (s : State) (core n by_ : Nat) : State :=
  modCore s core (fun c => { c with
    cc := vset c.cc n (vget 0 c.cc n + BitVec.ofNat 16 by_),
    ccLog := (s.now, n, BitVec.ofNat 16 by_) :: c.ccLog.filter (fun p => p.1 == s.now) })
/-- Whether a slot's 16 fault records leave room for another (R163). -/
def recRoom (s : State) (core slot : Nat) : Bool := (getSlot s core slot).records.length < 16
/-- Records a fault of an engine operation for its slot, kept in issue order (R90). -/
def addRec (s : State) (core slot : Nat) (r : Rec) : State :=
  modSlot s core slot (fun t => { t with
    records := t.records.filter (fun q => decide (q.order ≤ r.order)) ++ r :: t.records.filter (fun q => decide (r.order < q.order)) })
/-- Whether the slot still holds the task that issued an operation. -/
def sameTask (s : State) (core slot : Nat) (inc : BitVec 8) : Bool :=
  let t := getSlot s core slot
  t.st != .free && t.incarn == inc

/-! ### Local memory's divisions (R154, R175) -/

/-- Whether a byte of local memory lies in the spill carve-out, the Letterbox or the reserved range (Table 6-2). -/
def sysOnly (s : State) (core a : Nat) : Bool :=
  let sb := (getCore s core).spillbase
  let base := bits sb 6 12 * 64
  let len := bits sb 18 12 * 64
  decide (0x3FC00 ≤ a) || (decide (base ≤ a) && decide (a < base + len))
/-- Whether any byte of a range does. -/
def sysOnlyRange (s : State) (core a n : Nat) : Bool :=
  let sb := (getCore s core).spillbase
  let base := bits sb 6 12 * 64
  let len := bits sb 18 12 * 64
  n != 0 && (decide (0x3FC00 < a + n) || (len != 0 && decide (base < a + n) && decide (a < base + len)))

/-! ### Letterbox bounces (R25, R157) -/

/-- Empties a Letterbox entry: its tag is all zeros, and it is free from the next cycle (R156). -/
def lbFree (s : State) (core i : Nat) : State :=
  let s := modCore s core (fun c => { c with lb := vset c.lb i ⟨0, 0, 0, none, s.now + 1⟩, lbOrder := c.lbOrder.filter (· != i) })
  scheduleOnce (wr64 s (localPa core (0x3FE00 + 8 * i)) 0) (s.now + 1) .letterboxAccept [core]
/-- Frees every Letterbox entry addressed to a slot and sends a late bounce STALE to each sender (R157). -/
def bounceAll (core slot : Nat) : List Nat → State → State
  | [], s => s
  | i :: r, s =>
    let e := vget ⟨0, 0, 0, none, 0⟩ (getCore s core).lb i
    if bitOf e.tag 63 ∧ !bitOf e.tag 62 ∧ bits e.tag 60 2 = slot then
      let (id, s) := takeId (lbFree s core i)
      let f : Flight := {
        kind := .amsend, core := bits e.tag 37 11, slot := e.slot, inc := BitVec.ofNat 8 (bits e.tag 50 8),
        part := 0, lvl := false, home := core, va := 0, pa := 0, size := 1, b := e.target, c := 0, body := 0, rd := none, chain := 0,
        pred := none, cnt := e.cnt, corr := 0, seqNo := e.order, link := none, stamp := 0, waitc := 0, heldAt := 0,
        arrived := 0, sent := true, performed := true, result := 0, err := some (0x0B, 7, BitVec.ofNat 64 (2 ^ 62 + bits e.target 0 30)) }
      let s := { s with flights := s.flights.ins id f }
      let s := send s (pkgOfCore core) (pkgOfCore f.core) core f.core 2 1 8 (core * 8192 + f.core) .amsendReply [id]
      bounceAll core slot r s
    else bounceAll core slot r s

/-! ### Retirement, traps and return (R22, R23, R26, R83 to R85) -/

/-- Engine operations of a slot are abandoned (R23, R29): they may run on, and nothing of them is recorded. -/
def abandonOps (s : State) (core slot : Nat) : State :=
  let s := modCore s core (fun c => { c with
    cq := c.cq.map (fun e => if e.slot = slot then { e with abandoned := true } else e),
    mq := c.mq.map (fun e => if e.slot = slot then { e with abandoned := true } else e),
    sq := c.sq.map (fun e => if e.slot = slot then { e with abandoned := true } else e),
    chim := c.chim.map (fun e => if e.slot = slot then { e with slot := 5 } else e),
    gjob := c.gjob.map (fun j => if j.slot = slot then { j with abandoned := true } else j) })
  modCol s (colOfCore core) (fun c => { c with
    aops := c.aops.map (fun e => if e.core = core ∧ e.slot = slot then { e with abandoned := true } else e) })

/-- Marks a seed completed or failed, to be reported in sequence order (R384). -/
def completeSeed (s : State) (pkg port seq status cause unit : Nat) (value : W64) : State :=
  let mark (e : SeedEnt) : SeedEnt :=
    if e.seq = seq ∧ e.done = none then { e with done := some (status * 16 + unit, cause, value) } else e
  let s := modPkg s pkg (fun p =>
    let q := vget Port.reset p.ports port
    { p with ports := vset p.ports port { q with seeds := q.seeds.map mark } })
  soon s .seedReport [pkg, port]

/-- AJBASE.MODE of a port (R384). -/
def portMode (s : State) (pkg port : Nat) : Bool := bitOf (getReg s (ccWin pkg (0x100 + 64 * port))) 40

/-- Reports the end of a slot's task by where it came from: a seed (R384), a record (R318); a failed stage task is
reported to the fault domain only. `cause` is a TRAPCAUSE value, 0 for completed. -/
def reportEnd (s : State) (core slot : Nat) (failed : Bool) (cause : Nat) (value : W64) : State :=
  match (getSlot s core slot).origin with
  | some (.seed pkg port seq) =>
    if failed then completeSeed s pkg port seq 2 (cause % 64) (cause / 4096 % 16) value
    else if portMode s pkg port then s else completeSeed s pkg port seq 1 0 0 0
  | some (.tile pkg recNo) =>
    soon s .recordCompletion [pkg, recNo, if failed then 1 + cause % 64 else 0, core, (getSlot s core slot).trappc.toNat]
  | _ => s

/-- What may follow the freeing of a slot: bindings once 64 cycles have passed, a drain's end, a model switch, a lent
core's handover (R24, R266, R312, R319, R326). -/
def afterFree (s : State) (core : Nat) : State :=
  let p := pkgOfCore core
  let col := colOfCore core
  let pk := getPkg s p
  let s := (List.range 16).foldl (fun s i =>
    if (vget Port.reset (getPkg s (i / 4)).ports (i % 4)).part.isSome then schedule s (s.now + 64) .bindSeedTask [i / 4, i % 4] else s) s
  let s := if pk.dep.any (fun e => e.record) then schedule s (s.now + 64) .bindTileTask [p] else s
  let s := if (getCol s col).drain.isSome then soon s .drainEnd [col] else s
  let s := match (getCol s col).swtag with
    | some t => soon s .modelSwitch [col, t]
    | none => s
  match (getCore s core).grant with
  | some g => if g.handTo.isSome then soon s .coreHandover [core] else s
  | none => s

/-- Reclaims the space of freed groups above which no live group remains (R174). A group whose tag is 32 has been freed. -/
def reclaim : Nat → List SpillGroup → W64 → List SpillGroup × W64
  | 0, l, p => (l, p)
  | n + 1, l, p =>
    let blocked (g : SpillGroup) : Bool := l.any (fun h => h.place == g.place && (h.place == 4 || h.slot == g.slot) && decide (g.addr < h.addr))
    match l.find? (fun g => g.tag == 32 && (decide (g.place < 3) || !blocked g)) with
    | some g => reclaim n (l.erase g) (if g.place = 4 then BitVec.ofNat 64 g.addr else p)
    | none => (l, p)
/-- Frees the groups of a slot that a test names (R173), and reclaims what no live group stands above. -/
def freeTags (s : State) (core slot : Nat) (which : Nat → Bool) : State :=
  modCore s core (fun c =>
    let l := c.spill.map (fun g => if g.slot = slot ∧ which g.tag then { g with tag := 32 } else g)
    let (l, p) := reclaim l.length l c.ovfptr
    { c with spill := l, ovfptr := p })

/-- A slot that holds its task no more waits for no walk (R338). -/
def leaveWalks (s : State) (core slot : Nat) : State :=
  if (getPkg s (pkgOfCore core)).walks = [] then s
  else modPkg s (pkgOfCore core) (fun p => { p with walks :=
    (p.walks.map (fun w => { w with served := w.served.erase (core, slot) })).filter (fun w => !w.failed || w.served != []) })
/-- The slot becomes FREE: descriptors unconfigured, spilled groups freed, Letterbox messages bounced; its incarnation
counter and registers stay (R26, R29, R173, R213). -/
def freeSlot (s : State) (core slot : Nat) : State :=
  let s := bounceAll core slot (List.range 16) s
  let s := freeTags s core slot (fun _ => true)
  let s := (getSlot s core slot).records.foldl (fun s r =>
    if r.obj = .geyser ∨ r.unit = 3 then faultLog s (getSlot s core slot).part (pkgOfCore core) r.cause r.unit core 0 r.value else s) s
  let s := leaveWalks s core slot
  afterFree (modSlot s core slot (fun t =>
    { t with st := .free, retiredAt := some s.now, origin := none, ac := Vector.replicate 8 none, pend := [], records := [],
             errs := [], barFaults := [], gang := none, stall := none, request := none, replied := none, draught := none,
             freezing := false, yielding := none, w7 := false })) core

/-- A double trap: the task retires as failed with the second trap's cause, and the fault domain is told TRAPPC and
TRAPVAL of the first (R23). -/
def doubleTrap (s : State) (core slot cause unit : Nat) : State :=
  let t := getSlot s core slot
  let s := faultLog s t.part (pkgOfCore core) cause unit core t.trappc t.trapval
  let s := abandonOps s core slot
  let s := reportEnd s core slot true (unit * 4096 + cause) t.trapval
  freeSlot { s with issued := true } core slot

/-- Releases a handler's Letterbox entry and leaves the handler slot idle (R156, R159, R160). -/
def handlerIdle (s : State) (core : Nat) : State :=
  let s := match (getSlot s core 4).entry with
    | some i => lbFree s core i
    | none => s
  let s := modSlot s core 4 (fun t => { t with st := .free, entry := none, hcount := 0, stall := none, w7 := false, request := none })
  soon s .handlerStart [core]

/-- A handler is aborted: HFAULT and HFTAG record it, the owning partition's fault domain is notified (R160). -/
def abortHandler (s : State) (core cause : Nat) (pc : W64) : State :=
  let t := getSlot s core 4
  let tag := match t.entry with
    | some i => (vget ⟨0, 0, 0, none, 0⟩ (getCore s core).lb i).tag
    | none => 0
  let hf := BitVec.ofNat 64 (2 ^ 63 + cause % 64 * 2 ^ 56 + pc.toNat % 2 ^ 52 / 4 * 4)
  let s := setReg (setReg s (coreWin core 0x020) hf) (coreWin core 0x028) tag
  let s := faultLog s (partOfCore s core) (pkgOfCore core) cause 0 core pc hf
  handlerIdle { s with issued := true } core

/-- The trap vector of a slot's region control block (R86). -/
def tvecOf (s : State) (core slot : Nat) : W64 :=
  match findPart s (getSlot s core slot).part with
  | some p => p.tvec
  | none => 0

/-- Taking a trap in a slot: cause, unit, TRAPVAL and TRAPPC (R85). While INTRAP is 1 it is a double trap (R23); in the
handler slot it aborts the handler (R160). Pending fixed-latency writes land first, and the handler's first instruction
issues after the last of them (R41). -/
def takeTrap (s : State) (core slot cause unit : Nat) (value pc : W64) : State :=
  if slot = 4 then abortHandler s core cause pc
  else if inTrap (getSlot s core slot) then doubleTrap s core slot cause unit
  else
    let tv := tvecOf s core slot
    modSlot { s with issued := true } core slot (fun t =>
      let last := (t.pend.filter (fun p => !p.var)).foldl (fun a p => max a p.due) (s.now + 1)
      let t := t.landDue false last
      let st := setBits (setBits (setBits t.status 1 1 (bits t.status 0 1)) 0 1 1) 2 1 1
      { t with trapcause := BitVec.ofNat 64 (unit * 4096 + cause), trappc := pc &&& 0xFFFFFFFFFFFFC, trapval := value
               status := st, pc := tv + BitVec.ofNat 64 (64 * cause), st := .trap, fbuf := [], ready := last
               w7 := false, stall := none, request := none, replied := none })

/-- A precise trap of the issuing instruction: TRAPPC is its own address (R84, R88). -/
def trapHere (s : State) (cause unit : Nat) (value : W64) : State :=
  takeTrap s s.curCore s.curSlot cause unit value (me s).pc

/-- Return from a trap: pc from TRAPPC, LVL from PLVL, PLVL and INTRAP 0; the next instruction issues no earlier than
2 cycles later, later by the refetch delay when TRAPPC is not in the fetch buffer (R83). An earlier write of STATUS that is
still pending lands as it would have, but for PLVL and INTRAP, which hold what the later writer, the return, gave them
(R38). DEDUCED, log entry 70. -/
def trapReturn (s : State) : State :=
  modMe { s with issued := true } (fun t =>
    let hit := t.fbuf.any (fun p => p.1 == t.trappc.toNat)
    let lvl := if s.curSlot = 4 then 1 else bits t.status 1 1
    let st := setBits (setBits (setBits t.status 0 1 lvl) 1 1 0) 2 1 0
    let kept (p : Pend) : Pend := if p.file == .csr && p.idx == 0 then { p with val := p.val &&& ~~~6 } else p
    { t with pc := t.trappc, status := st, st := if lvl = 1 then .trap else .run, fbuf := if hit then t.fbuf else []
             pend := t.pend.map kept, ready := s.now + 2 + (if hit then 0 else 3), w7 := false, stall := none })
/-- The wait count of an instruction whose own rule bounds the next issue from below holds beside that bound (R34, R36, R83,
R110). DEDUCED, log entry 70. -/
def holdWait (s : State) (w : BitVec 3) : State :=
  modMe s (fun t => { t with ready := max t.ready (s.now + 1 + (if w = 7 then 0 else w.toNat)), w7 := w == 7 })

/-- Delivers the slot's oldest recorded fault that an observation counts: the observing instruction traps (R90). -/
def deliverRec (s : State) (seen : Rec → Bool) : Option State :=
  match (me s).records.find? seen with
  | some r =>
    let s := modMe s (fun t => { t with records := t.records.erase r })
    some (trapHere s r.cause r.unit r.value)
  | none => none
/-- Delivers the slot's oldest pending error of an access that an observation reaches (R99, R116, R329). -/
def deliverErr (s : State) (seen : Err → Bool) : Option State :=
  match (me s).errs.find? seen with
  | some r =>
    let s := modMe s (fun t => { t with errs := t.errs.erase r })
    some (trapHere s r.cause r.unit r.value)
  | none => none

/-! ### Translation (R333 to R339) -/

/-- The outcome of a translation: an address with its permissions (RD 1, W 2, X 4, U 8), a wait until a cycle or until
something changes, or no translation. -/
inductive Xl where
  | ok (pa perms : Nat)
  | wait (until_ : Option Nat)
  | none
  deriving DecidableEq, Repr

/-- The range entry r of a package's translation unit, for a partition and address (R334). -/
def rangeHit (s : State) (pkg part va r : Nat) : Option (Nat × Nat) :=
  let reg (i : Nat) := getReg s (dieWin pkg uTrans (32 * r + 8 * i))
  let vb := bits (reg 0) 12 40 * 4096
  let d3 := reg 3
  let pa := bits (reg 1) 12 34 * 4096 + (va - vb)
  if bitOf d3 5 ∧ bits d3 6 40 * 64 = part ∧ vb ≤ va ∧ va < vb + 4096 * (bits (reg 2) 0 40 + 1) ∧ pa < 2 ^ 46 then
    some (pa, b2n (bitOf d3 1) + 2 * b2n (bitOf d3 2) + 4 * b2n (bitOf d3 3) + 8 * b2n (bitOf d3 4))
  else none

/-- Whether an address may be translated to: some home lies there, and it is not backing of the coherent window
(R329, R378). -/
def hasHome (pa : Nat) : Bool :=
  match placeOf pa with
  | .none => false
  | .gddr .. => !(decide (0xB01000000 ≤ pa % 0xC00000000))
  | _ => true

/-- The partition's page-table root on a package, if its context is valid (R333, R339). -/
def ptRoot (s : State) (pkg part : Nat) : Option Nat :=
  (List.range 16).findSome? (fun n =>
    let v := getReg s (dieWin pkg uTrans (0x800 + 16 * n))
    if bitOf v 0 ∧ bits v 6 40 * 64 = part then some (bits (getReg s (dieWin pkg uTrans (0x808 + 16 * n))) 16 30 * 65536)
    else none)

/-- Starts or joins the walk for an address, for the issuing slot of a core; a full queue of 64 misses holds the requester
(R338). -/
def startWalk (s : State) (pkg core part va : Nat) : State :=
  let p := getPkg s pkg
  let who := (core, s.curSlot)
  let joins (w : Walk) : Bool := !w.failed && w.part == part && w.va / 4096 == va / 4096
  if p.walks.any joins then
    modPkg s pkg (fun p => { p with walks := p.walks.map (fun w =>
      if joins w && !w.served.contains who then { w with served := who :: w.served } else w) })
  else
    let running := (p.walks.filter (fun w => w.running)).length
    if 72 ≤ (p.walks.filter (fun w => !w.failed)).length then s
    else
      let (id, s) := takeId s
      let w : Walk :=
        { id := id, part := part, va := va / 4096 * 4096, failed := false, running := decide (running < 8), served := [who] }
      let s := modPkg s pkg (fun p => { p with walks := p.walks ++ [w] })
      if running < 8 then
        let (d, s) := takeDelay s
        schedule s (s.now + 1 + d) .pageWalkComplete [pkg, id]
      else s

/-- A requester takes the failure of its walk, which goes once every requester it served has taken it (R338). -/
def takeFailure (s : State) (pkg id : Nat) (who : Nat × Nat) : State :=
  modPkg s pkg (fun p => { p with walks :=
    (p.walks.map (fun w => if w.id = id then { w with served := w.served.erase who } else w)).filter (fun w => !w.failed || w.served != []) })
/-- Translates a virtual address for the issuing slot of a core, or for a die unit when `core` is 2048, in a partition on a
package. -/
def xlate (s : State) (pkg core part va : Nat) : Xl × State :=
  if 2 ^ 52 ≤ va then (.none, s) else
  match (List.range 64).findSome? (rangeHit s pkg part va) with
  | some (pa, perms) => (if hasHome pa then .ok pa perms else .none, s)
  | none =>
    let covers (e : Tlb) : Bool := e.part == part && decide (e.vbase ≤ va) && decide (va < e.vbase + e.len)
    let out (e : Tlb) : Xl := if hasHome (e.pbase + (va - e.vbase)) then .ok (e.pbase + (va - e.vbase)) e.perms else .none
    match (getPkg s pkg).tlb.find? (fun e => e.core == core && covers e) with
    | some e => (out e, s)
    | none =>
      match (getPkg s pkg).tlb.find? (fun e => e.core == 2048 && covers e) with
      | some e =>
        let s := modPkg s pkg (fun p => { p with tlb := { e with core := core } ::
          (p.tlb.filter (fun q => q.core == core)).take 15 ++ p.tlb.filter (fun q => q.core != core) })
        (.wait (some (s.now + 8)), s)
      | none =>
        match (getPkg s pkg).walks.find? (fun w => w.failed && w.part == part && w.va == va / 4096 * 4096 && w.served.contains (core, s.curSlot)) with
        | some w => (.none, takeFailure s pkg w.id (core, s.curSlot))
        | none =>
          match ptRoot s pkg part with
          | none => (.none, s)
          | some _ => (.wait none, startWalk s pkg core part va)

/-- Whether permissions cover what is needed at a level: at task level U as well (R337). -/
def permits (perms need : Nat) (sys : Bool) : Bool :=
  Nat.land perms need == need && (sys || decide (8 ≤ perms))

/-- One level of a walk: the entry's address, and the leaf's base, size and permissions, the next table, or a failure
(R335, R336). -/
inductive WalkRes where
  | leaf (base size perms : Nat) | bad | uncorrectable (level : Nat)
  deriving DecidableEq, Repr

def walkFrom (s : State) (va : Nat) : Nat → Nat → Nat → WalkRes
  | 0, _, _ => .bad
  | fuel + 1, level, table =>
    let idx := if level = 3 then va / 2 ^ 39 % 2 ^ 13 else va / 2 ^ (12 + 9 * level) % 512
    let pa := table + 8 * idx
    let e := dwordAt s pa
    if wordErr s pa = .ecc ∨ (wordErr s pa).isAttic then .uncorrectable level
    else if !bitOf e 0 ∨ bits e 46 18 ≠ 0 ∨ bits e 7 5 ≠ 0 then .bad
    else
      let addr := bits e 12 34 * 4096
      let cont := bitOf e 6
      let perms := b2n (bitOf e 2) + 2 * b2n (bitOf e 3) + 4 * b2n (bitOf e 4) + 8 * b2n (bitOf e 5)
      if bitOf e 1 then
        if level = 3 ∨ (level = 1 ∧ cont) then .bad
        else
          let size := 2 ^ (12 + 9 * level)
          let csize := if cont then (if level = 0 then 65536 else 8 * 2 ^ 30) else size
          if addr % size ≠ 0 then .bad else .leaf (addr / csize * csize) csize perms
      else if level = 0 ∨ cont then .bad
      else walkFrom s va fuel (level - 1) addr

/-- The addresses of the entries that a walk reads, in order. -/
def walkPas (s : State) (va : Nat) : Nat → Nat → Nat → List Nat
  | 0, _, _ => []
  | fuel + 1, level, table =>
    let pa := table + 8 * (if level = 3 then va / 2 ^ 39 % 2 ^ 13 else va / 2 ^ (12 + 9 * level) % 512)
    let e := dwordAt s pa
    if wordErr s pa = .ecc ∨ (wordErr s pa).isAttic ∨ !bitOf e 0 ∨ bits e 46 18 ≠ 0 ∨ bits e 7 5 ≠ 0 ∨ bitOf e 1 ∨ bitOf e 6 then [pa]
    else pa :: walkPas s va fuel (level - 1) (bits e 12 34 * 4096)

/-- Translates for a die unit at once: where a walk is needed it is made in this step, the tables as they are performed
(R438). -/
def xlateUnit (s : State) (pkg part va need : Nat) (sys : Bool) : Option Nat :=
  match (xlate s pkg 2048 part va).1 with
  | .ok pa perms => if permits perms need sys then some pa else none
  | .none => none
  | .wait _ =>
    match ptRoot s pkg part with
    | none => none
    | some root =>
      match walkFrom s va 4 3 root with
      | .leaf base size perms =>
        let pa := base + va % size
        if hasHome pa ∧ permits perms need sys then some pa else none
      | _ => none

end Sys2Proof.Machine
end

