-- ==== Sys2Proof/Machine/Operands.lean ====
section
/-! DEFINITION. Which registers each instruction reads and writes, for the scoreboard, for WAITCHK and for the presence
bits, and how immediates, offsets, masks and addresses are formed from the fields of a word. -/
namespace Sys2Proof.Machine
open Sys2Proof

/-! ### Registers an instruction reads and writes (R36, R37, R40, R169, R181) -/

/-- The registers an instruction reads by its fields; one that keeps any bit of its destination reads it (R181). -/
def readsOf : Instr → List (RFile × Nat)
  | .add _ _ a b
  | .sub _ _ a b
  | .and _ _ a b
  | .or _ _ a b
  | .xor _ _ a b
  | .sll _ _ a b
  | .srl _ _ a b
  | .sra _ _ a b
  | .slt _ _ a b
  | .slto _ _ a b
  | .min _ _ a b
  | .max _ _ a b
  | .minw _ _ a b
  | .maxw _ _ a b
  | .mul _ _ a b
  | .mulh _ _ a b
  | .mulhw _ _ a b
  | .div _ _ a b
  | .divw _ _ a b
  | .rem _ _ a b
  | .remw _ _ a b
  | .addsh _ _ a b _
  | .chcfg _ _ a b _
  | .beq _ a b _
  | .bne _ a b _
  | .blt _ a b _
  | .bge _ a b _
  | .blo _ a b _
  | .bhs _ a b _
  | .st _ b a _ _
  | .stgW _ b a _ _
  | .stgD _ b a _ _
  | .stbit _ a b _
  | .amoAdd _ _ a b _ _
  | .amoAnd _ _ a b _ _
  | .amoOr _ _ a b _ _
  | .amoXor _ _ a b _ _
  | .amoMin _ _ a b _ _
  | .amoMax _ _ a b _ _
  | .amoMinw _ _ a b _ _
  | .amoMaxw _ _ a b _ _
  | .amoSwap _ _ a b _ _
  | .amsend _ a b _ _ _
  | .mlds _ a b _
  | .mstr _ a b _ _ _ _
  | .mgang _ a b
  | .gpatch _ a b
  | .gcell _ a b _
  | .gsave _ a b _ _ _
  | .grest _ a b _ _ _
  | .qpush _ a b _ _ _
  | .ald _ a b _
  | .ast _ a b _
  | .vprojLap2 _ a b _ _
  | .slabel _ a b => [(.x, a.toNat), (.x, b.toNat)]
  | .clz _ _ a
  | .ctz _ _ a
  | .popc _ _ a
  | .sext _ _ a _
  | .zext _ _ a _
  | .addi _ _ a _
  | .andi _ _ a _
  | .ori _ _ a _
  | .xori _ _ a _
  | .slti _ _ a _
  | .slli _ _ a _
  | .srli _ _ a _
  | .srai _ _ a _
  | .bfx _ _ a _ _
  | .jalr _ _ a _
  | .ld _ _ a _ _
  | .ldz _ _ a _ _
  | .ldgW _ _ a _ _
  | .ldgD _ _ a _ _
  | .ldbit _ _ a _
  | .nput _ a _ _ _
  | .ccinc _ a _
  | .ccset _ a _
  | .waitlt _ a _
  | .vbcast _ _ a _
  | .vmset _ _ a
  | .vld _ _ a _
  | .mwr _ a _ _
  | .macfg _ a _ _
  | .grd _ a _
  | .gclk _ a _
  | .gstep _ a _ _ _
  | .gstat _ a _
  | .qflush _ a _
  | .qmark _ a _
  | .qmarkH _ a _
  | .aopRed _ a _ _
  | .aopCmpx _ a _ _
  | .aopSacc _ a _ _
  | .aopDot _ a _ _
  | .vproj _ a _ _ _ _
  | .hmerge _ a _ _
  | .hread _ a _
  | .snorm _ a
  | .sdraw _ a _
  | .cqpush _ a _ _ _ _
  | .cqpushNb _ a _ _ _ _ _
  | .wmwait _ a _
  | .barArrive _ a _
  | .barExpect _ a _
  | .barWait _ a _ => [(.x, a.toNat)]
  | .csel _ _ a b c => [(.x, a.toNat), (.x, b.toNat), (.x, c.toNat)]
  | .bfi _ d a _ _ => [(.x, d.toNat), (.x, a.toNat)]
  | .lih _ d _ => [(.x, d.toNat)]
  | .amoCas _ d a b _ _ => [(.x, a.toNat), (.x, b.toNat), (.x, d.toNat)]
  | .csrr _ _ r => [(.csr, r.toNat)]
  | .csrw _ _ a r
  | .csrs _ _ a r
  | .csrc _ _ a r => [(.x, a.toNat), (.csr, r.toNat)]
  | .vadd _ _ d a b k
  | .vsub _ _ d a b k
  | .vmul _ _ d a b k
  | .vmin _ _ d a b k
  | .vmax _ _ d a b k
  | .vadds _ _ d a b k
  | .vsubs _ _ d a b k
  | .vmulh _ _ d a b k
  | .vand _ _ d a b k
  | .vor _ _ d a b k
  | .vxor _ _ d a b k
  | .vsll _ _ d a b k
  | .vsrl _ _ d a b k
  | .vsra _ _ d a b k
  | .vdiv _ _ d a b k
  | .vperm _ d a b k => [(.v, a.toNat), (.v, b.toNat), (.k, k.toNat), (.v, d.toNat)]
  | .vabs _ _ d a k
  | .vneg _ _ d a k
  | .vsqrt _ _ d a k
  | .vcvt _ d a _ k _
  | .vpack _ d a _ k _
  | .vunpack _ d a _ k _
  | .vbscale _ d a _ k _
  | .vbhdr _ d a _ k _
  | .vmov _ d a k
  | .vexp2 _ d a k _
  | .vlog2 _ d a k _
  | .vrcp _ d a k _
  | .vrsqrt _ d a k _
  | .vtanh _ d a k _
  | .vsin _ d a k _
  | .vcos _ d a k _
  | .vsigm _ d a k _ => [(.v, a.toNat), (.k, k.toNat), (.v, d.toNat)]
  | .vceq _ _ _ a b k
  | .vcne _ _ _ a b k
  | .vclt _ _ _ a b k
  | .vcle _ _ _ a b k
  | .vsel _ _ _ a b k => [(.v, a.toNat), (.v, b.toNat), (.k, k.toNat)]
  | .vredsum _ _ _ a k
  | .vredmin _ _ _ a k
  | .vredmax _ _ _ a k => [(.v, a.toNat), (.k, k.toNat)]
  | .vslideup _ d a m k
  | .vslidedn _ d a m k => [(.v, a.toNat), (.x, m.toNat), (.k, k.toNat), (.v, d.toNat)]
  | .vxget _ _ a i _ => [(.v, a.toNat), (.x, i.toNat)]
  | .vxput _ d a i _ => [(.x, a.toNat), (.x, i.toNat), (.v, d.toNat)]
  | .vrget _ d a k => [(.x, a.toNat), (.k, k.toNat), (.v, d.toNat)]
  | .vmand _ _ a b
  | .vmor _ _ a b
  | .vmxor _ _ a b => [(.k, a.toNat), (.k, b.toNat)]
  | .vmnot _ _ a
  | .vmget _ _ a => [(.k, a.toNat)]
  | .vfmaF32 _ d a b c
  | .vfmaF16 _ d a b c
  | .vfmaBf16 _ d a b c
  | .vfnmaF32 _ d a b c
  | .vfnmaF16 _ d a b c
  | .vfnmaBf16 _ d a b c
  | .vmaccS32 _ d a b c
  | .vmaccW32 _ d a b c => [(.v, a.toNat), (.v, b.toNat), (.v, c.toNat), (.k, 0), (.v, d.toNat)]
  | .vst _ s a _ => [(.x, a.toNat), (.v, s.toNat)]
  | .mrd _ v m _ k _ => [(.x, m.toNat), (.k, k.toNat), (.v, v.toNat)]
  | .ginj _ s k => [(.v, s.toNat), (.k, k.toNat)]
  | .gtap _ d s k => [(.v, s.toNat), (.k, k.toNat), (.v, d.toNat)]
  | _ => []

/-- The registers an instruction writes by its fields. -/
def writesOf : Instr → List (RFile × Nat)
  | .add _ d _ _
  | .sub _ d _ _
  | .and _ d _ _
  | .or _ d _ _
  | .xor _ d _ _
  | .sll _ d _ _
  | .srl _ d _ _
  | .sra _ d _ _
  | .slt _ d _ _
  | .slto _ d _ _
  | .min _ d _ _
  | .max _ d _ _
  | .minw _ d _ _
  | .maxw _ d _ _
  | .mul _ d _ _
  | .mulh _ d _ _
  | .mulhw _ d _ _
  | .div _ d _ _
  | .divw _ d _ _
  | .rem _ d _ _
  | .remw _ d _ _
  | .clz _ d _
  | .ctz _ d _
  | .popc _ d _
  | .sext _ d _ _
  | .zext _ d _ _
  | .addsh _ d _ _ _
  | .csel _ d _ _ _
  | .chidx _ d _ _
  | .addi _ d _ _
  | .andi _ d _ _
  | .ori _ d _ _
  | .xori _ d _ _
  | .slti _ d _ _
  | .slli _ d _ _
  | .srli _ d _ _
  | .srai _ d _ _
  | .bfx _ d _ _ _
  | .bfi _ d _ _ _
  | .lih _ d _
  | .jal _ d _
  | .jalr _ d _ _
  | .ld _ d _ _ _
  | .ldz _ d _ _ _
  | .ldgW _ d _ _ _
  | .ldgD _ d _ _ _
  | .ldbit _ d _ _
  | .amoAdd _ d _ _ _ _
  | .amoAnd _ d _ _ _ _
  | .amoOr _ d _ _ _ _
  | .amoXor _ d _ _ _ _
  | .amoMin _ d _ _ _ _
  | .amoMax _ d _ _ _ _
  | .amoMinw _ d _ _ _ _
  | .amoMaxw _ d _ _ _ _
  | .amoSwap _ d _ _ _ _
  | .amoCas _ d _ _ _ _
  | .csrr _ d _
  | .vxget _ d _ _ _
  | .vmget _ d _
  | .grd _ _ d
  | .gstat _ _ d
  | .qrsv _ d _
  | .qpop _ d _
  | .hread _ _ d
  | .sdraw _ _ d
  | .cqpushNb _ _ d _ _ _ _
  | .barTry _ d _ => [(.x, d.toNat)]
  | .csrw _ d _ r
  | .csrs _ d _ r
  | .csrc _ d _ r => [(.x, d.toNat), (.csr, r.toNat)]
  | .vadd _ _ d _ _ _
  | .vsub _ _ d _ _ _
  | .vmul _ _ d _ _ _
  | .vmin _ _ d _ _ _
  | .vmax _ _ d _ _ _
  | .vabs _ _ d _ _
  | .vneg _ _ d _ _
  | .vadds _ _ d _ _ _
  | .vsubs _ _ d _ _ _
  | .vmulh _ _ d _ _ _
  | .vand _ _ d _ _ _
  | .vor _ _ d _ _ _
  | .vxor _ _ d _ _ _
  | .vsll _ _ d _ _ _
  | .vsrl _ _ d _ _ _
  | .vsra _ _ d _ _ _
  | .vredsum _ _ d _ _
  | .vredmin _ _ d _ _
  | .vredmax _ _ d _ _
  | .vsel _ _ d _ _ _
  | .vdiv _ _ d _ _ _
  | .vsqrt _ _ d _ _
  | .vcvt _ d _ _ _ _
  | .vpack _ d _ _ _ _
  | .vunpack _ d _ _ _ _
  | .vbscale _ d _ _ _ _
  | .vbhdr _ d _ _ _ _
  | .vmov _ d _ _
  | .vbcast _ d _ _
  | .vperm _ d _ _ _
  | .vslideup _ d _ _ _
  | .vslidedn _ d _ _ _
  | .vxput _ d _ _ _
  | .vrget _ d _ _
  | .vfmaF32 _ d _ _ _
  | .vfmaF16 _ d _ _ _
  | .vfmaBf16 _ d _ _ _
  | .vfnmaF32 _ d _ _ _
  | .vfnmaF16 _ d _ _ _
  | .vfnmaBf16 _ d _ _ _
  | .vmaccS32 _ d _ _ _
  | .vmaccW32 _ d _ _ _
  | .vld _ d _ _
  | .vexp2 _ d _ _ _
  | .vlog2 _ d _ _ _
  | .vrcp _ d _ _ _
  | .vrsqrt _ d _ _ _
  | .vtanh _ d _ _ _
  | .vsin _ d _ _ _
  | .vcos _ d _ _ _
  | .vsigm _ d _ _ _
  | .gtap _ d _ _ => [(.v, d.toNat)]
  | .vceq _ _ d _ _ _
  | .vcne _ _ d _ _ _
  | .vclt _ _ d _ _ _
  | .vcle _ _ d _ _ _
  | .vmand _ d _ _
  | .vmor _ d _ _
  | .vmxor _ d _ _
  | .vmnot _ d _
  | .vmset _ d _ => [(.k, d.toNat)]
  | .mrd _ v _ _ _ _ => [(.v, v.toNat)]
  | _ => []

/-- Takes the register x0 out of a list: it never holds a pending write (R64). -/
def noX0 (l : List (RFile × Nat)) : List (RFile × Nat) := l.filter (fun p => !(p.1 == .x && p.2 == 0))
/-- All registers an instruction reads in a slot; `vrget` also reads the register its index names (R198), and `vbhdr` of part 0
keeps no bit of its destination (R181, R194). -/
def readsIn (t : Slot) (i : Instr) : List (RFile × Nat) :=
  let l := noX0 (readsOf i)
  match i with
  | .vrget _ _ a _ => if (t.rx a.toNat).toNat < 32 then l ++ [(.v, (t.rx a.toNat).toNat)] else l
  | .vbhdr _ _ _ _ _ p => if p = 0 then l.filter (fun r => r.1 != .v) ++ (l.filter (fun r => r.1 == .v)).take 1 else l
  | _ => l
def writesIn (i : Instr) : List (RFile × Nat) := noX0 (writesOf i)

/-- The index operand that is outside its file, if the instruction has one (R56, R198, R199, R89). -/
def regIndexOf (t : Slot) : Instr → Option W64
  | .vrget _ _ a _ => if 32 ≤ (t.rx a.toNat).toNat then some (t.rx a.toNat) else none
  | .vxget _ _ _ i c => if 32 / 2 ^ c.toNat ≤ (t.rx i.toNat).toNat then some (t.rx i.toNat) else none
  | .vxput _ _ _ i c => if 32 / 2 ^ c.toNat ≤ (t.rx i.toNat).toNat then some (t.rx i.toNat) else none
  | _ => none

/-- Whether the handler slot may not run an instruction (R159). -/
def handlerForbids : Instr → Bool
  | .amoAdd .. | .amoAnd .. | .amoOr .. | .amoXor .. | .amoMin .. | .amoMax .. | .amoMinw .. | .amoMaxw .. | .amoSwap ..
  | .amoCas .. | .waitlt .. | .yield .. | .svc .. | .brk .. | .spl .. | .fil .. | .chcfg .. | .chidx .. | .chloop .. => true
  | .mwr .. | .mlds .. | .mswap .. | .mstr .. | .macfg .. | .marel .. | .mgang .. | .mwait .. | .mrd .. => true
  | .gpatch .. | .gcell .. | .grd .. | .gclk .. | .gstep .. | .grun .. | .ghalt .. | .gsave .. | .grest .. | .gstat ..
  | .ginj .. | .gtap .. => true
  | .qrsv .. | .qpush .. | .qpop .. | .qrel .. | .qflush .. | .qmark .. | .qmarkH .. | .ald .. | .ast .. | .aopRed ..
  | .aopCmpx .. | .aopSacc .. | .aopDot .. => true
  | .vproj .. | .vprojLap2 .. | .hmerge .. | .hread .. | .snorm .. | .sdraw .. | .slabel .. => true
  | .cqpush .. | .cqpushNb .. | .wmwait .. | .barArrive .. | .barExpect .. | .barWait .. | .barTry .. => true
  | _ => false

/-- The control registers that an instruction reads without naming them, which a wait on the scoreboard covers (R36): RNDMODE and
STATUS.FIE where it rounds, the formats and scales that a tile operation captures, the spill registers, and what `tret` takes.
DEDUCED, log entry 70. -/
def implicitCsrs : Instr → List Nat
  | .vadd _ t _ _ _ _ | .vsub _ t _ _ _ _ | .vmul _ t _ _ _ _ | .vredsum _ t _ _ _ => if 6 ≤ t.toNat then [0x000, 0x018] else []
  | .vdiv .. | .vsqrt .. | .vfmaF32 .. | .vfmaF16 .. | .vfmaBf16 .. | .vfnmaF32 .. | .vfnmaF16 .. | .vfnmaBf16 .. => [0x000, 0x018]
  | .vcvt .. | .vpack .. | .vunpack .. | .vbscale .. | .vexp2 .. | .vlog2 .. | .vrcp .. | .vrsqrt .. | .vtanh .. | .vsin ..
  | .vcos .. | .vsigm .. | .mrd .. | .cqpush .. | .cqpushNb .. | .aopRed .. | .aopCmpx .. | .aopSacc .. | .aopDot .. => [0x000, 0x018]
  | .mlds .. => [0x011, 0x013]
  | .mstr .. => [0x010, 0x012]
  | .spl .. | .fil .. => [0x020, 0x021]
  | .tret .. => [0x000, 0x002]
  | _ => []

/-- Whether an instruction that can take a trap, or set a flag otherwise than `wflags` records, has a result whose latency its
trap-state readers wait for (R79). -/
def trapLatent : Instr → Bool
  | .ld .. | .ldz .. | .ldbit .. | .vld .. | .csrw .. | .csrs .. | .csrc .. | .mrd .. | .grd .. | .gstat .. | .gtap .. | .qrsv ..
  | .qpop .. | .cqpushNb .. | .barTry .. | .hread .. | .sdraw .. | .vrget .. | .vxget .. | .vxput .. => true
  | _ => false

/-- Whether an instruction reads the control register number FLAGS or a trap register, or writes one, so that it waits
for earlier flag-setting results (R79). -/
def waitsForFlags : Instr → Bool
  | .csrr _ _ r => r = 0x019 ∨ (0x001 ≤ r.toNat ∧ r.toNat ≤ 0x003)
  | .csrw _ _ _ r => (0x001 ≤ r.toNat ∧ r.toNat ≤ 0x003)
  | .csrs _ _ _ r => r = 0x019 ∨ (0x001 ≤ r.toNat ∧ r.toNat ≤ 0x003)
  | .csrc _ _ _ r => r = 0x019 ∨ (0x001 ≤ r.toNat ∧ r.toNat ≤ 0x003)
  | _ => false

/-! ### Immediates, offsets and shifts (R43) -/

/-- A two's-complement field as a dword (R43). -/
def sext64 {n : Nat} (i : BitVec n) : W64 := i.signExtend 64
/-- A branch or jump target: the instruction's own address and 4 times the offset (R43). -/
def target {n : Nat} (pc : W64) (o : BitVec n) : W64 := pc + 4 * sext64 o
/-- An M-format address: the base register and the offset times the access size (R43). -/
def mAddr (base : W64) (o : BitVec 11) (size : Nat) : W64 := base + sext64 o * BitVec.ofNat 64 size
/-- The low `n` bits of a dword, sign-extended. -/
def sextN (v n : Nat) : W64 :=
  if v % 2 ^ n < 2 ^ (n - 1) then BitVec.ofNat 64 (v % 2 ^ n) else BitVec.ofNat 64 (2 ^ 64 - 2 ^ n + v % 2 ^ n)

/-! ### Lanes and masks (R180, R181) -/

/-- Lane `i` of `w` bits of a vector register. -/
def lane (v : W256) (w i : Nat) : Nat := v.toNat / 2 ^ (w * i) % 2 ^ w
/-- A vector register from its lanes of `w` bits, lane 0 first. -/
def ofLanes (w : Nat) : List Nat → Nat
  | [] => 0
  | a :: r => a % 2 ^ w + 2 ^ w * ofLanes w r
/-- A vector register built lane by lane. -/
def buildLanes (w n : Nat) (f : Nat → Nat) : W256 := BitVec.ofNat 256 (ofLanes w ((List.range n).map f))
/-- A result merged under a mask: an inactive lane keeps the old destination's value (R181). -/
def maskLanes (k : W32) (w n : Nat) (old : W256) (f : Nat → Nat) : W256 :=
  buildLanes w n (fun i => if k.getLsbD i then f i else lane old w i)

end Sys2Proof.Machine
end

