-- ==== Sys2Proof/Machine/Scalar.lean ====
section
/-! DEFINITION. The scalar instructions of majors 0x01 to 0x06: arithmetic, immediates, field moves and chain set-up
(R64 to R68, R74, R75). -/
namespace Sys2Proof.Machine
open Sys2Proof

/-- A scalar result of an instruction: written after its latency, then the next word (R34, R35, R64). -/
def scalarResult (s : State) (w : BitVec 3) (d : BitVec 5) (lat : Nat) (v : W64) : Host.Outcome State Fault Refusal :=
  .next (retire (wx s d lat v) w)

/-- The number of leading zero bits among the low `n` bits of a number. -/
def leadZeros : Nat → Nat → Nat
  | 0, _ => 0
  | n + 1, v => if v.testBit n then 0 else leadZeros n v + 1
/-- The number of trailing zero bits among `n` bits of a number. -/
def trailZeros : Nat → Nat → Nat
  | 0, _ => 0
  | n + 1, v => if v % 2 = 1 then 0 else trailZeros n (v / 2) + 1
/-- The number of one bits among `n` bits of a number. -/
def countOnes : Nat → Nat → Nat
  | 0, _ => 0
  | n + 1, v => v % 2 + countOnes n (v / 2)

/-- The signed quotient with the saturations of Table 3-2 (R66). -/
def divSigned (a b : W64) : W64 :=
  if b = 0 then (if 0 ≤ sgn a then 0x7FFFFFFFFFFFFFFF else 0x8000000000000000)
  else if a = 0x8000000000000000 ∧ b = 0xFFFFFFFFFFFFFFFF then 0x7FFFFFFFFFFFFFFF
  else BitVec.ofInt 64 ((sgn a).tdiv (sgn b))
/-- The unsigned quotient (R66). -/
def divWhole (a b : W64) : W64 := if b = 0 then 0xFFFFFFFFFFFFFFFF else BitVec.ofNat 64 (a.toNat / b.toNat)
/-- The signed remainder, with the dividend's sign (R66). -/
def remSigned (a b : W64) : W64 := if b = 0 then a else BitVec.ofInt 64 ((sgn a).tmod (sgn b))
/-- The unsigned remainder (R66). -/
def remWhole (a b : W64) : W64 := if b = 0 then a else BitVec.ofNat 64 (a.toNat % b.toNat)

def execAdd (w : BitVec 3) (d a b : BitVec 5) (s : State) := scalarResult s w d 1 (xr s a + xr s b)
def execSub (w : BitVec 3) (d a b : BitVec 5) (s : State) := scalarResult s w d 1 (xr s a - xr s b)
def execAnd (w : BitVec 3) (d a b : BitVec 5) (s : State) := scalarResult s w d 1 (xr s a &&& xr s b)
def execOr (w : BitVec 3) (d a b : BitVec 5) (s : State) := scalarResult s w d 1 (xr s a ||| xr s b)
def execXor (w : BitVec 3) (d a b : BitVec 5) (s : State) := scalarResult s w d 1 (xr s a ^^^ xr s b)
def execSll (w : BitVec 3) (d a b : BitVec 5) (s : State) := scalarResult s w d 1 (xr s a <<< bits (xr s b) 0 6)
def execSrl (w : BitVec 3) (d a b : BitVec 5) (s : State) := scalarResult s w d 1 (xr s a >>> bits (xr s b) 0 6)
def execSra (w : BitVec 3) (d a b : BitVec 5) (s : State) :=
  scalarResult s w d 1 ((xr s a).sshiftRight (bits (xr s b) 0 6))
def execSlt (w : BitVec 3) (d a b : BitVec 5) (s : State) :=
  scalarResult s w d 1 (if sgn (xr s a) < sgn (xr s b) then 1 else 0)
def execSlto (w : BitVec 3) (d a b : BitVec 5) (s : State) :=
  scalarResult s w d 1 (if (xr s a).toNat < (xr s b).toNat then 1 else 0)
def execMin (w : BitVec 3) (d a b : BitVec 5) (s : State) :=
  scalarResult s w d 1 (if sgn (xr s b) < sgn (xr s a) then xr s b else xr s a)
def execMax (w : BitVec 3) (d a b : BitVec 5) (s : State) :=
  scalarResult s w d 1 (if sgn (xr s a) < sgn (xr s b) then xr s b else xr s a)
def execMinw (w : BitVec 3) (d a b : BitVec 5) (s : State) :=
  scalarResult s w d 1 (if (xr s b).toNat < (xr s a).toNat then xr s b else xr s a)
def execMaxw (w : BitVec 3) (d a b : BitVec 5) (s : State) :=
  scalarResult s w d 1 (if (xr s a).toNat < (xr s b).toNat then xr s b else xr s a)
def execMul (w : BitVec 3) (d a b : BitVec 5) (s : State) := scalarResult s w d 3 (xr s a * xr s b)
def execMulh (w : BitVec 3) (d a b : BitVec 5) (s : State) :=
  scalarResult s w d 3 (BitVec.ofInt 64 (sgn (xr s a) * sgn (xr s b) / 2 ^ 64))
def execMulhw (w : BitVec 3) (d a b : BitVec 5) (s : State) :=
  scalarResult s w d 3 (BitVec.ofNat 64 ((xr s a).toNat * (xr s b).toNat / 2 ^ 64))
def execDiv (w : BitVec 3) (d a b : BitVec 5) (s : State) := scalarResult s w d 20 (divSigned (xr s a) (xr s b))
def execDivw (w : BitVec 3) (d a b : BitVec 5) (s : State) := scalarResult s w d 20 (divWhole (xr s a) (xr s b))
def execRem (w : BitVec 3) (d a b : BitVec 5) (s : State) := scalarResult s w d 20 (remSigned (xr s a) (xr s b))
def execRemw (w : BitVec 3) (d a b : BitVec 5) (s : State) := scalarResult s w d 20 (remWhole (xr s a) (xr s b))
def execClz (w : BitVec 3) (d a : BitVec 5) (s : State) :=
  scalarResult s w d 1 (BitVec.ofNat 64 (leadZeros 64 (xr s a).toNat))
def execCtz (w : BitVec 3) (d a : BitVec 5) (s : State) :=
  scalarResult s w d 1 (BitVec.ofNat 64 (trailZeros 64 (xr s a).toNat))
def execPopc (w : BitVec 3) (d a : BitVec 5) (s : State) :=
  scalarResult s w d 1 (BitVec.ofNat 64 (countOnes 64 (xr s a).toNat))

/-- The number of bits of a width code: 0 byte, 1 half, 2 word (R46). -/
def widthBits (c : BitVec 5) : Nat := 8 * 2 ^ (c.toNat % 4)
def execSext (w : BitVec 3) (d a c : BitVec 5) (s : State) :=
  scalarResult s w d 1 (sextN (xr s a).toNat (widthBits c))
def execZext (w : BitVec 3) (d a c : BitVec 5) (s : State) :=
  scalarResult s w d 1 (BitVec.ofNat 64 ((xr s a).toNat % 2 ^ widthBits c))
def execAddsh (w : BitVec 3) (d a b : BitVec 5) (sh : BitVec 2) (s : State) :=
  scalarResult s w d 1 (xr s a + (xr s b <<< sh.toNat))
def execCsel (w : BitVec 3) (d a b c : BitVec 5) (s : State) :=
  scalarResult s w d 1 (if xr s c ≠ 0 then xr s a else xr s b)

def execAddi (w : BitVec 3) (d a : BitVec 5) (i : BitVec 13) (s : State) := scalarResult s w d 1 (xr s a + sext64 i)
def execAndi (w : BitVec 3) (d a : BitVec 5) (i : BitVec 11) (s : State) := scalarResult s w d 1 (xr s a &&& sext64 i)
def execOri (w : BitVec 3) (d a : BitVec 5) (i : BitVec 11) (s : State) := scalarResult s w d 1 (xr s a ||| sext64 i)
def execXori (w : BitVec 3) (d a : BitVec 5) (i : BitVec 11) (s : State) := scalarResult s w d 1 (xr s a ^^^ sext64 i)
def execSlti (w : BitVec 3) (d a : BitVec 5) (i : BitVec 11) (s : State) :=
  scalarResult s w d 1 (if sgn (xr s a) < sgn (sext64 i) then 1 else 0)
def execSlli (w : BitVec 3) (d a : BitVec 5) (sh : BitVec 6) (s : State) := scalarResult s w d 1 (xr s a <<< sh.toNat)
def execSrli (w : BitVec 3) (d a : BitVec 5) (sh : BitVec 6) (s : State) := scalarResult s w d 1 (xr s a >>> sh.toNat)
def execSrai (w : BitVec 3) (d a : BitVec 5) (sh : BitVec 6) (s : State) :=
  scalarResult s w d 1 ((xr s a).sshiftRight sh.toNat)
/-- `bfx`: the field of `l + 1` bits at position `p`, zero-extended (R67). -/
def execBfx (w : BitVec 3) (d a : BitVec 5) (l p : BitVec 6) (s : State) :=
  scalarResult s w d 1 (BitVec.ofNat 64 (bits (xr s a) p.toNat (l.toNat + 1)))
/-- `bfi`: replaces a field of the destination, leaving its other bits (R67). -/
def execBfi (w : BitVec 3) (d a : BitVec 5) (l p : BitVec 6) (s : State) :=
  scalarResult s w d 1 (setBits (xr s d) p.toNat (l.toNat + 1) (xr s a).toNat)
/-- `lih`: shifts the destination left by 18 and puts the immediate below (R68). -/
def execLih (w : BitVec 3) (d : BitVec 5) (i : BitVec 18) (s : State) :=
  scalarResult s w d 1 ((xr s d <<< 18) ||| i.setWidth 64)

/-! ### Counter chains (R73 to R77) -/

/-- Level `l` of chain `c` of a slot. -/
def chainLevel (t : Slot) (c l : Nat) : Level := vget ⟨0, 0, 0⟩ t.chains (3 * c + l)
def setLevel (t : Slot) (c l : Nat) (v : Level) : Slot := { t with chains := vset t.chains (3 * c + l) v }
/-- The active depth: consecutive levels from 0 whose count is not 0 (R73). -/
def activeDepth (t : Slot) (c : Nat) : Nat :=
  if (chainLevel t c 0).n = 0 then 0 else if (chainLevel t c 1).n = 0 then 1 else if (chainLevel t c 2).n = 0 then 2 else 3
/-- The index of a level: iteration times step (R75). -/
def levelIndex (v : Level) : W64 := v.i.setWidth 64 * v.s
/-- The sum of the indices of a chain's active levels, as an engine instruction samples it (R77, R166). -/
def chainOffset (t : Slot) (c : Nat) : W64 :=
  (List.range (activeDepth t c)).foldl (fun a l => a + levelIndex (chainLevel t c l)) 0
/-- A chain's last mark (R77). -/
def chainLast (t : Slot) (c : Nat) : Bool :=
  activeDepth t c != 0 && (List.range (activeDepth t c)).all (fun l => (chainLevel t c l).i + 1 == (chainLevel t c l).n)

/-- `chcfg` (R74). -/
def execChcfg (w : BitVec 3) (c a b : BitVec 5) (l : BitVec 2) (s : State) : Host.Outcome State Fault Refusal :=
  .next (retire (modMe s (fun t => setLevel t c.toNat l.toNat ⟨(xr s a).setWidth 32, xr s b, 0⟩)) w)
/-- `chidx` (R75). -/
def execChidx (w : BitVec 3) (d c : BitVec 5) (l : BitVec 2) (s : State) :=
  scalarResult s w d 1 (levelIndex (chainLevel (me s) c.toNat l.toNat))

end Sys2Proof.Machine
end

