-- ==== Sys2Proof/Machine/Access.lean ====
section
/-! DEFINITION. Accesses: what a slot may reach in local memory, reading and writing one aligned word at its home,
and the life of an access from issue to reply (R92 to R107, R154 to R156, R179, R274, R329). -/
namespace Sys2Proof.Machine
open Sys2Proof

/-! ### Local memory as a slot may reach it (Table 6-2, R156, R179) -/

def lbEntry (s : State) (core i : Nat) : LbEnt := vget ⟨0, 0, 0, none, 0⟩ (getCore s core).lb i
/-- Whether a Letterbox entry is VALID and addressed to a task slot. -/
def lbOwned (s : State) (core slot i : Nat) : Bool :=
  let e := lbEntry s core i
  bitOf e.tag 63 && !bitOf e.tag 62 && bits e.tag 60 2 == slot
/-- Whether a slot may load a byte of the Letterbox bodies or tags at task level; an entry that holds no message is no
other slot's, so its tag may be read. Log entry 18. -/
def lbReadable (s : State) (core slot a : Nat) : Bool :=
  if a < 0x3FC00 then true
  else if a < 0x3FE00 then lbOwned s core slot ((a - 0x3FC00) / 32)
  else if a < 0x3FE80 then !bitOf (lbEntry s core ((a - 0x3FE00) / 8)).tag 63 || lbOwned s core slot ((a - 0x3FE00) / 8)
  else false

/-- Whether a local access of `n` bytes is allowed by Table 6-2 to a slot at a level. -/
def localAllowed (s : State) (core slot : Nat) (sys : Bool) (a n : Nat) (load dstore : Bool) : Bool :=
  if 0x3FE80 < a + n then false
  else if sys then true
  else if a + n ≤ 0x3FC00 then !sysOnlyRange s core a n
  else if load then lbReadable s core slot a && lbReadable s core slot (a + n - 1) && (0x3FC00 ≤ a || !sysOnlyRange s core a (0x3FC00 - a))
  else dstore && decide (0x3FE00 ≤ a) && n == 8 && lbOwned s core slot ((a - 0x3FE00) / 8)

/-- The granule of a core that holds a local byte, and the group that holds an accumulator entry (R179). -/
def localGran (a : Nat) : Nat := a / 4096
def accGran (e : Nat) : Nat := 64 + e / 256
/-- The key under which a partition's granule is marked as standing in its Pantry frame. -/
def savedKey (part gran : Nat) : Nat := part * 128 + gran

/-- Whether a partition is halted: DRAIN ended and not yet running again (Table 14-6). -/
def haltedPart (s : State) (part : Nat) : Bool :=
  match findPart s part with
  | some p => p.state == 5 || p.state == 6 || p.state == 7
  | none => false

/-- What stands in the way of touching a granule: nothing, another halted partition, or its saved contents, which are loaded
back whoever holds its place (R179). -/
inductive Touch where
  | ok | prot | restore
  deriving DecidableEq, Repr
def touch (s : State) (core part gran : Nat) : Touch :=
  let o := (getCore s core).owner.get part gran
  if ((getCore s core).saved.get false (savedKey part gran)) then .restore
  else if o ≠ part ∧ haltedPart s o then .prot else .ok

/-! ### One aligned word at its home -/

/-- The TRAPVAL of ATTIC_DATA (Table 12-3). -/
def atticVal (kind core off : Nat) : W64 := BitVec.ofNat 64 (kind * 2 ^ 62 + core * 2 ^ 40 + off / 8 * 8)
/-- Cause and value of an uncorrectable word at a home for an access by virtual address (R99). -/
def errOf (s : State) (pa : Nat) (va : W64) : Option (Nat × W64) :=
  match wordErr s pa, placeOf pa with
  | .attic k, .slice c off => some (0x07, atticVal k c off)
  | .ecc, _ => some (0x06, va ||| 0x8000000000000000)
  | _, _ => none

/-- What a read of a word does beside returning it: a corrected local dword is counted, a slice's checker reports. -/
def noteRead (s : State) (pa : Nat) : State :=
  match placeOf pa with
  | .localMem .. => countCorrected s pa
  | .slice .. => if wordErr s pa = .good then s else reportAttic s pa
  | .acc c _ => if wordErr s pa = .ecc then setReg s (coreWin c 0x030) (satAdd16 (getReg s (coreWin c 0x030)) 16 1) else s
  | _ => s
/-- What a walk does beside translating: the checkers of its entries' homes see its reads, and an uncorrectable entry is logged in
XFAULT (R282, R336). -/
def walkNotes (s : State) (pkg va root : Nat) : State :=
  let log (s : State) : State := match walkFrom s va 4 3 root with
    | .uncorrectable level => setReg s (dieWin pkg uTrans 0x918) (BitVec.ofNat 64 (2 ^ 63 + va / 4096 * 4096 % 2 ^ 52 + level % 4))
    | _ => s
  (walkPas s va 4 3 root).foldl noteRead (log s)
/-- What a die unit's translation does beside answering, where it needs a walk (R336, R438). -/
def noteWalk (s : State) (pkg part va : Nat) : State :=
  match (xlate s pkg 2048 part va).1, ptRoot s pkg part with
  | .wait _, some root => walkNotes s pkg va root
  | _, _ => s
/-- `n` bytes of an aligned word as a number. -/
def wordAt (s : State) (pa n : Nat) : Nat := (dwordAt s pa).toNat / 2 ^ (8 * (pa % 8)) % 2 ^ (8 * n)

/-- A dword with `n` bytes at byte `o` replaced. -/
def mergeBytes (old : W64) (o n v : Nat) : W64 := setBits old (8 * o) (8 * n) v

/-- Writes an aligned word of `n` bytes at its home; false where an uncorrectable dword keeps it from being written
(R94, R99, R155, R282, R332). -/
def writeWord (s : State) (pa n v : Nat) : State × Bool :=
  match placeOf pa with
  | .acc .. =>
    if wordErr s pa = .ecc then (noteRead s pa, false)
    else (wrN s pa n v, true)
  | .localMem .. =>
    if n = 8 then (putDword s pa (BitVec.ofNat 64 v), true)
    else if wordErr s pa = .ecc then (s, false)
    else (wrN (countCorrected s pa) pa n v, true)
  | .slice .. =>
    if n = 8 then (putDword s pa (BitVec.ofNat 64 v), true)
    else if (wordErr s pa).isAttic then (reportAttic s pa, false)
    else (putDword (noteRead s pa) (pa / 8 * 8) (mergeBytes (dwordAt s pa) (pa % 8) n v), true)
  | .gddr .. => if wordErr s pa = .ecc then (s, false) else (wrN s pa n v, true)
  | .cc .. => if wordErr s pa = .ecc then (s, false) else (wrN s (backing pa) n v, true)
  | _ => (s, true)

/-! ### Granules of a halted partition (R179, R323) -/

/-- The frame number of a partition in a core's Pantry; frames stand downwards from ATTCAP. Log entry 19. -/
def frameOff (s : State) (core part : Nat) : Option Nat :=
  ((getCore s core).frames.find? (fun p => p.1 == part)).map (fun p => attcap s core - 0x80000 * (p.2 + 1))
/-- Where a granule or group stands in its core, and in a frame (Table 14-11), with its length in bytes. -/
def granPlace (core g : Nat) : Nat × Nat × Nat :=
  if g < 64 then (localPa core (4096 * g), 4096 * g, 4096) else (accPa core (256 * (g - 64)), 0x40000 + 4096 * (g - 64), 4096)
/-- Marks a dword as uncorrectable where it stands: poisoned in a slice, bad in local memory or in its entry. -/
def markBad (s : State) (pa : Nat) : State :=
  match placeOf pa with
  | .slice .. => { s with syn := s.syn.ins (pa / 8) 0xFF }
  | .localMem .. => { s with localBad := s.localBad.ins (pa / 8) true }
  | .acc .. => { s with accBad := pa / 16 :: s.accBad.filter (· != pa / 16) }
  | _ => s
/-- Copies `n` dwords through the checkers of both sides; an uncorrectable one stays uncorrectable (R94, R155, R282). -/
def copyDwords (src dst : Nat) : Nat → State → State
  | 0, s => s
  | n + 1, s =>
    let bad := wordErr s src = .ecc ∨ (wordErr s src).isAttic
    let t := putDword (noteRead s src) dst (dwordAt s src)
    copyDwords (src + 8) (dst + 8) n (if bad then markBad t dst else t)

/-- Writes a halted owner's granule to its frame and gives the granule to `part` (R179). -/
def saveGranule (s : State) (core g part : Nat) : State :=
  let o := (getCore s core).owner.get part g
  if o = part ∨ !haltedPart s o then modCore s core (fun c => { c with owner := c.owner.ins g part })
  else match frameOff s core o with
    | none => s
    | some off =>
      let (pa, fo, n) := granPlace core g
      let s := copyDwords pa (slicePa core (off + fo)) (n / 8) s
      modCore s core (fun c => { c with owner := c.owner.ins g part, saved := c.saved.ins (savedKey o g) true })
/-- A partition that runs again gives its frame on a core back once no granule stands there any more (R321). -/
def dropFrame (s : State) (core part : Nat) : State :=
  if (getCore s core).saved.any (fun p => p.1 / 128 == part && p.2) ∨ (findPart s part).any (fun p => p.state != 3) then s
  else modCore s core (fun c => { c with frames := c.frames.filter (fun f => f.1 != part) })
/-- Loads a granule of a partition back from its frame. -/
def loadGranule (s : State) (core g part : Nat) : State :=
  if (getCore s core).saved.get false (savedKey part g) then
    match frameOff s core part with
    | none => s
    | some off =>
      let (pa, fo, n) := granPlace core g
      let s := copyDwords (slicePa core (off + fo)) pa (n / 8) (saveGranule s core g part)
      dropFrame (modCore s core (fun c => { c with saved := c.saved.del (savedKey part g) })) core part
  else s

/-- What the granule is to a partition that touches or claims it: loaded back, or taken from a halted owner (R179). -/
def claimGranule (s : State) (core part g : Nat) : State :=
  if (getCore s core).saved.get false (savedKey part g) then loadGranule s core g part
  else if (getCore s core).owner.get part g ≠ part then saveGranule s core g part else s

/-! ### Issue-side checks of local accesses -/

/-- The first line of an `ald` of the slot, not yet landed, that a local range meets, with its landing cycle (R40,
R278). -/
def aldShort (s : State) (core slot a n : Nat) : Option Nat :=
  (getCore s core).chim.findSome? (fun x =>
    if x.load && x.slot == slot then
      (List.range x.left).findSome? (fun i =>
        let j := x.n - x.left + i
        if x.la + 128 * j < a + n ∧ a < x.la + 128 * j + 128 then some (x.at0 + 16 + j) else none)
    else none)

/-- Whether a global access or an `amo` of the slot to its own core is still to be performed, which holds later local
accesses (R102). -/
def ownPending (s : State) (core slot : Nat) : Bool :=
  s.flights.any (fun p => p.2.core == core && p.2.slot == slot && p.2.home == core && !p.2.performed &&
    (match p.2.kind with | .amo _ => true | .load => true | .store => true | _ => false))

/-- An `ald` line that has not landed traps STALL_SHORT at a load of it while WAITCHK.EN is 1 (R40). -/
def shortGate (s : State) (a : W64) (n : Nat) : Option State :=
  if bitOf (me s).waitchk 0 then
    (aldShort s s.curCore s.curSlot a.toNat n).map (fun due =>
      trapHere s 0x02 0 (BitVec.ofNat 64 (a.toNat * 2 ^ 32 + min (due - s.now) 255 * 256 + 3 * 64)))
  else none
/-- The checks of a local address: alignment, then range and what the access is allowed (R93, R115, R203, R359). -/
def addrGate (s : State) (a : W64) (n al : Nat) (allowed : Bool) : Option State :=
  if a.toNat % al ≠ 0 then some (trapHere s 0x03 0 a)
  else if 0x40000 < a.toNat + n ∨ !allowed then some (trapHere s 0x05 0 a) else none
/-- What a local access waits for: the task's own accesses to its core that are not performed (R102), and its granules, which are
loaded back first or are another halted partition's (R179). -/
def granGate (s : State) (a : W64) (n : Nat) : Option State :=
  if ownPending s s.curCore s.curSlot then some (stallMe s)
  else
    let part := partOf s (me s).part
    let g (x : Nat) : Option State :=
      match touch s s.curCore part (localGran x) with
      | .ok => none
      | .prot => some (trapHere s 0x05 0 a)
      | .restore => some (soon (stallMe s) .granuleRestore [s.curCore, localGran x])
    (g a.toNat).orElse (fun _ => g (a.toNat + n - 1))

/-- The checks and waits of a local access of `n` bytes at `a` by the issuing slot, in order: an `ald` not landed, alignment,
range and what the access is allowed, an own-core access, a granule to be restored. `none` lets it go on. -/
def localGateIf (s : State) (a : W64) (n al : Nat) (load allowed : Bool) : Option State :=
  ((if load then shortGate s a n else none).orElse (fun _ => addrGate s a n al allowed)).orElse (fun _ => granGate s a n)
/-- `localGateIf` for the accesses that Table 6-2 allows. -/
def localGate (s : State) (a : W64) (n al : Nat) (load dstore : Bool) : Option State :=
  localGateIf s a n al load (localAllowed s s.curCore s.curSlot (lvlOf (me s)) a.toNat n load dstore)

/-- An undersized wait on an `ald` line is counted while WAITCHK.CNT is 1 and EN is 0 (R40). -/
def countAldShort (s : State) (a n : Nat) : State :=
  if bitOf (me s).waitchk 1 ∧ !bitOf (me s).waitchk 0 ∧ (aldShort s s.curCore s.curSlot a n).isSome then
    modMe s (fun t => { t with waitchk := satAdd16 t.waitchk 16 1 })
  else s

/-! ### The life of an access (R98, R99, R103 to R106) -/

def flight? (s : State) (id : Nat) : Option Flight := s.flights.find id
def modFlight (s : State) (id : Nat) (f : Flight → Flight) : State :=
  { s with flights := match s.flights.find id with
    | some v => s.flights.ins id (f v)
    | none => s.flights }

/-- An access of the issuing slot with nothing yet said of it; a message carries its send stamp (R25), taken in the cycle of its
issue also where its chain holds it at its core. DEDUCED, log entry 71. -/
def newFlight (s : State) (kind : AccKind) (home : Nat) (va : W64) (pa size chain : Nat) : Flight :=
  { kind := kind, core := s.curCore, slot := s.curSlot, inc := (me s).incarn,
    part := if s.curSlot = 4 then regionOf s s.curCore else (me s).part, lvl := lvlOf (me s), home := home, va := va, pa := pa,
    size := size, b := 0, c := 0, body := 0, rd := none, chain := chain, pred := none, cnt := none, corr := 0, seqNo := 0,
    link := none, stamp := if kind = .amsend then timeBase s (pkgOfCore s.curCore) / 4 % 65536 else 0,
    waitc := 0, heldAt := 0, arrived := 0, sent := false, performed := false, result := 0, err := none }

/-- Whether an access belongs to a slot of a core. -/
def ofSlot (core slot : Nat) (p : Nat × Flight) : Bool := p.2.core == core && p.2.slot == slot
/-- The slot's last access of a chain that is not yet performed and acknowledged (R104). -/
def chainPred (s : State) (core slot chain : Nat) : Option Nat :=
  if chain = 0 then none
  else ((s.flights.filter (fun p => ofSlot core slot p && p.2.chain == chain)).getLast?).map (·.1)

/-- The step that an access causes at its home when it arrives. -/
def arrivalOf : AccKind → Instr
  | .amo _ => .amoStep
  | .amsend => .amsendArrival
  | .qrsv => .reservationAtHome
  | .qmark => .reservationAtHome
  | .draughtMark => .reservationAtHome
  | .qpush => .commitAtHome
  | .qrel => .releaseAtHome
  | .barArrive => .barrierArrival
  | .barExpect => .barrierExpect
  | _ => .accessAtHome

/-- The package of a home by its number. -/
def pkgOfHome (h : Nat) : Nat :=
  if h < 4096 then pkgOfCore (h % 2048) else if h < 4352 then (h - 4096) / 48 else if h < 4400 then (h - 4352) / 8 else (h - 4400) % 4

/-- Whether an access may leave its core: the one before it in its chain is performed, earlier ones of the slot to the
same home have left, and a barrier arrival waits for every earlier access (R103, R104, R351). -/
def maySend (s : State) (id : Nat) (f : Flight) : Bool :=
  (match f.pred with | some p => (s.flights.find p).isNone | none => true) &&
  s.flights.all (fun p => !(ofSlot f.core f.slot p && decide (p.1 < id) && p.2.home == f.home && !p.2.sent && !p.2.performed)) &&
  (match f.kind with
    | .barArrive => s.flights.all (fun p => !(ofSlot f.core f.slot p && decide (p.1 < id) &&
        !(match p.2.kind with | .barWait => true | .barTry => true | _ => false)))
        && (getCore s f.core).chim.all (fun x => !(x.slot == f.slot && decide (x.op < id)))
    | .qrel => s.flights.all (fun p => !(ofSlot f.core f.slot p && decide (p.1 < id) &&
        (match p.2.kind with | .qpush => true | _ => false)))
    | _ => true)

/-- The TYPE of the flits of an access: 3 an active message, 4 a corridor operation, 1 another request (Table 20-2). -/
def AccKind.flitType : AccKind → Nat
  | .amsend => 3
  | .qrsv => 4
  | .qpush => 4
  | .qrel => 4
  | .qmark => 4
  | .draughtMark => 4
  | _ => 1
/-- Sends the accesses of a slot that may leave, in issue order. -/
def sendReady : List (Nat × Flight) → State → State
  | [], s => s
  | (id, f) :: r, s =>
    if !f.sent && !f.performed && maySend s id f then
      let s := modFlight s id (fun f => { f with sent := true })
      let s := if f.home = f.core then schedule s (s.now + 1) (arrivalOf f.kind) [id] else
        send s (pkgOfCore f.core) (pkgOfHome f.home) f.core f.home
        f.kind.flitType 0 (if f.kind = .amsend then 56 else 24)
        (f.core * 8192 + f.home) (arrivalOf f.kind) [id]
      sendReady r s
    else sendReady r s
def pushAccesses (s : State) (core slot : Nat) : State := sendReady (s.flights.filter (ofSlot core slot)) s

/-- Whether the core's outbound message queue is full: the accesses that have not left fill it. The manual does not give its
size, which is the opaque Config.outboundSlots and 1 more (R98). Log entry 71. -/
def outboundFull (s : State) : Bool :=
  decide (Config.outboundSlots < (s.flights.filter (fun p => p.2.core == s.curCore && !p.2.sent && !p.2.performed)).length)
/-- Registers an access of the issuing slot; its number is its place in issue order. -/
def issueFlight (s : State) (f : Flight) : Nat × State :=
  let (id, s) := takeId s
  let s := { s with flights := s.flights.ins id { f with pred := chainPred s f.core f.slot f.chain } }
  (id, pushAccesses s f.core f.slot)

/-- The home sends a reply for an access (R106). -/
def replyTo (s : State) (id : Nat) (f : Flight) (ev : Instr) : State :=
  if f.home = f.core then schedule s (s.now + 1) ev [id] else
  send s (pkgOfHome f.home) (pkgOfCore f.core) f.home f.core 2 1 16 (f.home * 8192 + f.core + 67108864) ev [id]

/-- The issuing slot's destination waits for a reply (R37). -/
def awaitX (s : State) (rd : Nat) : State :=
  if rd = 0 then s
  else modMe s (fun t => { t with pend := { file := .x, idx := rd, val := 0, due := 0, var := true } :: t.pend })
/-- The value of a reply lands in a destination register, where an earlier write that is still pending is discarded (R38), or
the wait for it ends without one (R99). -/
def landX (s : State) (core slot rd : Nat) (v : Option W64) : State :=
  modSlot s core slot (fun t =>
    let t := { t with pend := t.pend.filter (fun p => !((p.var || v.isSome) && p.file == .x && p.idx == rd)) }
    match v with
    | some x => t.land (slot == 4) { file := .x, idx := rd, val := x.setWidth 256, due := 0, var := true }
    | none => t)

/-- Records an error of an access for its observation, in issue order. -/
def addErr (s : State) (core slot : Nat) (e : Err) : State :=
  modSlot s core slot (fun t => { t with
    errs := t.errs.filter (fun q => decide (q.order ≤ e.order)) ++ e :: t.errs.filter (fun q => decide (e.order < q.order)) })

/-! ### Fences (R106, Table 4-4) -/

/-- The home of an access as fences tell homes apart: a core's accumulator window, its control window and its messages are not
its local memory (Table 4-4). -/
def fenceHome (f : Flight) : Nat :=
  match f.kind, placeOf f.pa with
  | .load, .acc c _ | .store, .acc c _ | .amo _, .acc c _ => 8192 + c
  | .amsend, _ => 16384 + f.home
  | .load, .coreReg c _ | .store, .coreReg c _ | .amo _, .coreReg c _ => 12288 + c
  | _, _ => f.home
/-- Whether a fence of a scope, 0 task to 5 card, reaches a home, numbered as `fenceHome` gives; `fence.core` reaches the messages
to the own core, those to its task slots too. DEDUCED, log entry 71. -/
def fenceReaches (scope core home : Nat) : Bool :=
  if home = core then true
  else if home = 2048 + core ∨ home = 8192 + core ∨ home = 16384 + core then decide (1 ≤ scope)
  else if home < 4096 ∨ 8192 ≤ home then
    let c := home % 2048
    if colOfCore c = colOfCore core then decide (2 ≤ scope)
    else if pkgOfCore c = pkgOfCore core then decide (3 ≤ scope) else decide (5 ≤ scope)
  else if pkgOfHome home = pkgOfCore core then decide (4 ≤ scope) else decide (5 ≤ scope)

/-- Whether a fence of the issuing slot still waits: an access in scope is not performed or not acknowledged, or a
Chimney transfer of the slot is not performed (R106, R278, R279). -/
def fenceWaits (s : State) (scope : Nat) : Bool :=
  s.flights.any (fun p => ofSlot s.curCore s.curSlot p && fenceReaches scope s.curCore (fenceHome p.2) &&
    !(p.2.home == s.curCore && p.2.performed && p.2.err.isNone) &&
    (match p.2.kind with | .amsend => p.2.size != 1 | .barWait => false | .barTry => false | _ => true))
  || (decide (1 ≤ scope) && (myCore s).chim.any (fun x => x.slot == s.curSlot))

/-- A fence: waits, then delivers the oldest error of an access it reaches, else completes (R99, R106, R116). -/
def fence (s : State) (w : BitVec 3) (scope : Nat) : Host.Outcome State Fault Refusal :=
  if fenceWaits s scope then .next (stallMe s)
  else match deliverErr s (fun e => fenceReaches scope s.curCore e.home) with
    | some s => .next s
    | none => .next (retire s w)

def execFenceTask (w : BitVec 3) (s : State) := fence s w 0
def execFenceCore (w : BitVec 3) (s : State) := fence s w 1
def execFenceCol (w : BitVec 3) (s : State) := fence s w 2
def execFenceDie (w : BitVec 3) (s : State) := fence s w 3
def execFencePkg (w : BitVec 3) (s : State) := fence s w 4
def execFenceCard (w : BitVec 3) (s : State) := fence s w 5

end Sys2Proof.Machine
end

