-- ==== Sys2Proof/Machine/Flags.lean ====
section
/-! DEFINITION. Number formats, rounding and flags: exact values, rounding into each format, the conversions, exact
arithmetic with its invalid cases, the accumulator's value, and the stochastic-rounding generator (R119 to R149). -/
namespace Sys2Proof.Machine
open Sys2Proof

/-! ### Flags (Table 5-8) -/

def fNV : Nat := 1
def fDZ : Nat := 2
def fOF : Nat := 4
def fUF : Nat := 8
def fNX : Nat := 16
def fSAT : Nat := 32
def fACC : Nat := 64

/-! ### Formats (Tables 5-1, 5-3) -/

/-- A floating-point format: exponent bits, mantissa bits, bias, and whether it has infinities and NaNs. -/
structure FpFmt where
  eb : Nat
  mb : Nat
  bias : Int
  hasInf : Bool
  hasNan : Bool
  deriving DecidableEq, Repr

/-- The floating-point format of a code (Table 5-1). -/
def fpFmt (code : Nat) : Option FpFmt :=
  if code = 0x0D then some ⟨8, 23, 127, true, true⟩
  else if code = 0x0C then some ⟨8, 7, 127, true, true⟩
  else if code = 0x0B then some ⟨5, 10, 15, true, true⟩
  else if code = 0x07 then some ⟨5, 2, 15, true, true⟩
  else if code = 0x06 then some ⟨4, 3, 7, false, true⟩
  else if code = 0x08 then some ⟨3, 2, 3, false, false⟩
  else if code = 0x09 then some ⟨2, 3, 1, false, false⟩
  else if code = 0x0A then some ⟨2, 1, 1, false, false⟩ else none

/-- The width of an element of a format code (Tables 5-1, 5-3). -/
def fmtBits (code : Nat) : Nat :=
  if code = 0x0D ∨ code = 0x02 ∨ code = 0x05 then 32
  else if code = 0x0B ∨ code = 0x0C ∨ code = 0x01 ∨ code = 0x04 then 16
  else if code = 0x08 ∨ code = 0x09 then 6 else if code = 0x0A ∨ code = 0x0E then 4 else 8
/-- Whether a whole-number code is signed (Table 5-3). -/
def intSigned (code : Nat) : Bool := code == 0 || code == 1 || code == 2 || code == 0x0E
/-- The least and greatest value of a whole-number format (Table 5-3). -/
def intMin (code : Nat) : Int := if intSigned code then -(2 ^ (fmtBits code - 1) : Nat) else 0
def intMax (code : Nat) : Int := if intSigned code then (2 ^ (fmtBits code - 1) : Nat) - 1 else (2 ^ fmtBits code : Nat) - 1

/-- The value of an element of a floating-point format (R119). -/
def decodeFp (f : FpFmt) (b : Nat) : Num :=
  let neg := b.testBit (f.eb + f.mb)
  let e := b / 2 ^ f.mb % 2 ^ f.eb
  let m := b % 2 ^ f.mb
  if e = 2 ^ f.eb - 1 ∧ f.hasInf then (if m = 0 then .inf neg else .nan neg)
  else if e = 2 ^ f.eb - 1 ∧ f.hasNan ∧ m = 2 ^ f.mb - 1 then .nan neg
  else if e = 0 then .fin neg m (1 - f.bias - f.mb)
  else .fin neg (2 ^ f.mb + m) (e - f.bias - f.mb)
/-- A whole number as an exact value. -/
def numInt (v : Int) : Num := .fin (decide (v < 0)) v.natAbs 0
/-- The value of an element of any format code (R119, R122). -/
def decodeNum (code b : Nat) : Num :=
  match fpFmt code with
  | some f => decodeFp f (b % 2 ^ fmtBits code)
  | none =>
    let w := fmtBits code
    let v := b % 2 ^ w
    numInt (if intSigned code ∧ 2 ^ (w - 1) ≤ v then (v : Int) - (2 ^ w : Nat) else v)

def Num.isNan : Num → Bool
  | .nan _ => true
  | _ => false
def Num.isInf : Num → Bool
  | .inf _ => true
  | _ => false
def Num.isZero : Num → Bool
  | .fin _ m _ => m == 0
  | _ => false
def Num.isNeg : Num → Bool
  | .fin n _ _ => n
  | .inf n => n
  | .nan n => n

/-! ### Rounding (R130 to R132, R135, R140 to R143) -/

/-- How a result is rounded: RNDMODE.MODE with the draw that stochastic rounding takes (R131, R132). -/
structure Rnd where
  mode : Nat
  satf : Bool
  draw : Nat
  deriving DecidableEq, Repr

/-- The rounding that RNDMODE names, with stochastic rounding read as RNE (R132). -/
def rndPlain (r : W64) : Rnd :=
  { mode := if bits r 0 3 = 4 then 0 else bits r 0 3, satf := bitOf r 7, draw := 0 }
/-- The rounding that RNDMODE names, with the word drawn for stochastic rounding. -/
def rndDraw (r : W64) (u : Nat) : Rnd := { mode := bits r 0 3, satf := bitOf r 7, draw := u }

/-- `m * 2 ^ e` rounded to a multiple of `2 ^ q`: the multiple, and whether it is inexact (R131, R132). -/
def roundMag (r : Rnd) (neg : Bool) (m : Nat) (e q : Int) : Nat × Bool :=
  if q ≤ e then (m * 2 ^ (e - q).toNat, false)
  else
    let sh := (q - e).toNat
    let lo := m / 2 ^ sh
    let rem := m % 2 ^ sh
    if rem = 0 then (lo, false)
    else
      let up :=
        if r.mode = 0 then decide (2 ^ sh < 2 * rem) || (2 * rem == 2 ^ sh && lo % 2 == 1)
        else if r.mode = 1 then false
        else if r.mode = 2 then neg
        else if r.mode = 3 then !neg
        else decide (r.draw < 2 ^ 32 * rem / 2 ^ sh)
      (if up then lo + 1 else lo, true)

/-- The binary exponent of `m * 2 ^ e`, for m not 0. -/
def expOf (m : Nat) (e : Int) : Int := (Nat.log2 m : Int) + e
/-- The place of the least significant bit of `m * 2 ^ e` in a format, its exponent unbounded above (R131). -/
def quantum (f : FpFmt) (m : Nat) (e : Int) : Int := max (expOf m e - f.mb) (1 - f.bias - f.mb)
/-- The largest finite magnitude of a format as a mantissa and an exponent (Table 5-1). -/
def maxFinite (f : FpFmt) : Nat × Int :=
  let top : Int := (2 ^ f.eb : Nat) - 1 - f.bias
  if f.hasInf then (2 ^ (f.mb + 1) - 1, top - 1 - f.mb)
  else if f.hasNan then (2 ^ (f.mb + 1) - 2, top - f.mb) else (2 ^ (f.mb + 1) - 1, top - f.mb)
/-- Whether `a * 2 ^ ea` is less than `b * 2 ^ eb`. -/
def magLt (a : Nat) (ea : Int) (b : Nat) (eb : Int) : Bool :=
  let k := min ea eb
  decide (a * 2 ^ (ea - k).toNat < b * 2 ^ (eb - k).toNat)

/-- The bits of a finite magnitude `n * 2 ^ q` that the format represents, with its sign. -/
def encodeFp (f : FpFmt) (neg : Bool) (n : Nat) (q : Int) : Nat :=
  let s := if neg then 2 ^ (f.eb + f.mb) else 0
  if n = 0 then s
  else
    let l := Nat.log2 n
    let e := (l : Int) + q
    if e < 1 - f.bias then s + n * 2 ^ (q - (1 - f.bias - f.mb)).toNat
    else s + (e + f.bias).toNat * 2 ^ f.mb + (if f.mb ≤ l then n / 2 ^ (l - f.mb) else n * 2 ^ (f.mb - l)) % 2 ^ f.mb
/-- The canonical NaN of a format that has one (Table 5-2). -/
def nanBits (f : FpFmt) (neg : Bool) : Nat :=
  (if neg then 2 ^ (f.eb + f.mb) else 0) + (2 ^ f.eb - 1) * 2 ^ f.mb +
    (if f.hasInf then 2 ^ (f.mb - 1) else 2 ^ f.mb - 1)
def infBits (f : FpFmt) (neg : Bool) : Nat := (if neg then 2 ^ (f.eb + f.mb) else 0) + (2 ^ f.eb - 1) * 2 ^ f.mb
def maxBits (f : FpFmt) (neg : Bool) : Nat := encodeFp f neg (maxFinite f).1 (maxFinite f).2

/-- What an overflow writes (Table 5-9). -/
def overflowBits (f : FpFmt) (r : Rnd) (neg : Bool) : Nat :=
  if !f.hasInf || r.satf then maxBits f neg
  else if r.mode = 1 ∨ (r.mode = 2 ∧ !neg) ∨ (r.mode = 3 ∧ neg) then maxBits f neg else infBits f neg

/-- Rounds an exact value into a floating-point format: its bits and the flags it sets (R131, R132, R135, R140, R141). -/
def roundFp (f : FpFmt) (r : Rnd) : Num → Nat × Nat
  | .nan neg => if f.hasNan then (nanBits f neg, 0) else (maxBits f neg, fNV)
  | .inf neg => if f.hasInf then (infBits f neg, 0) else (maxBits f neg, fOF + fNX)
  | .fin neg m e =>
    if m = 0 then (encodeFp f neg 0 0, 0)
    else
      let q := quantum f m e
      let (n, inexact) := roundMag r neg m e q
      let (mx, me) := maxFinite f
      if magLt mx me n q then (overflowBits f r neg, fOF + fNX)
      else
        let q' := expOf m e - f.mb
        let tiny := magLt (roundMag r neg m e q').1 q' 1 (1 - f.bias)
        (encodeFp f neg n q, if inexact then fNX + (if tiny then fUF else 0) else 0)

/-- Rounds an exact value into a whole-number format (R143). -/
def roundInt (code : Nat) (r : Rnd) : Num → Nat × Nat
  | .nan _ => (0, fNV)
  | .inf neg => ((((if neg then intMin code else intMax code)) % (2 ^ fmtBits code : Nat)).toNat, fSAT)
  | .fin neg m e =>
    let r := if r.mode = 4 then { r with mode := 0 } else r
    let (n, inexact) := roundMag r neg m e 0
    let v : Int := if neg then -(n : Int) else n
    let c := max (intMin code) (min (intMax code) v)
    ((c % (2 ^ fmtBits code : Nat)).toNat, (if inexact then fNX else 0) + (if c = v then 0 else fSAT))

/-- Rounds an exact value into the format of a code. -/
def roundTo (code : Nat) (r : Rnd) (x : Num) : Nat × Nat :=
  match fpFmt code with
  | some f => roundFp f r x
  | none => roundInt code r x

/-- A value times a power of two, exactly. -/
def Num.scale (k : Int) : Num → Num
  | .fin n m e => .fin n m (e + k)
  | x => x

/-! ### Exact arithmetic with its special cases (R121, R136, R147, R148) -/

/-- A sum of two finite values; an exact zero takes the sign of IEEE 754 for the mode (R120). -/
def addFin (mode : Nat) (n1 : Bool) (m1 : Nat) (e1 : Int) (n2 : Bool) (m2 : Nat) (e2 : Int) : Num :=
  let k := min e1 e2
  let a : Int := (m1 * 2 ^ (e1 - k).toNat : Nat)
  let b : Int := (m2 * 2 ^ (e2 - k).toNat : Nat)
  let s := (if n1 then -a else a) + (if n2 then -b else b)
  if s = 0 then .fin (if m1 = 0 ∧ m2 = 0 ∧ n1 = n2 then n1 else mode == 2) 0 0
  else .fin (decide (s < 0)) s.natAbs k

/-- A sum, with the flag of an invalid one (R121, R136). -/
def addNum (mode : Nat) : Num → Num → Num × Nat
  | .nan n, _ => (.nan n, 0)
  | _, .nan n => (.nan n, 0)
  | .inf a, .inf b => if a = b then (.inf a, 0) else (.nan false, fNV)
  | .inf a, .fin .. => (.inf a, 0)
  | .fin .., .inf b => (.inf b, 0)
  | .fin n1 m1 e1, .fin n2 m2 e2 => (addFin mode n1 m1 e1 n2 m2 e2, 0)
/-- The negated value; a NaN operand keeps its sign (R121). -/
def Num.neg : Num → Num
  | .fin n m e => .fin (!n) m e
  | .inf n => .inf (!n)
  | .nan n => .nan n
/-- A product, with the flag of an invalid one. -/
def mulNum : Num → Num → Num × Nat
  | .nan n, _ => (.nan n, 0)
  | _, .nan n => (.nan n, 0)
  | .inf a, .inf b => (.inf (a != b), 0)
  | .inf a, .fin b m _ => if m = 0 then (.nan false, fNV) else (.inf (a != b), 0)
  | .fin b m _, .inf a => if m = 0 then (.nan false, fNV) else (.inf (a != b), 0)
  | .fin n1 m1 e1, .fin n2 m2 e2 => (.fin (n1 != n2) (m1 * m2) (e1 + e2), 0)
/-- A fused product and sum: an invalid product sets NV even when the addend is a NaN (R190). -/
def fmaNum (mode : Nat) (negate : Bool) (a b c : Num) : Num × Nat :=
  let (p, fl) := mulNum a b
  if p.isNan ∧ fl = 0 then (p, 0)
  else if fl ≠ 0 then (if c.isNan then c else p, fl)
  else if c.isNan then (c, 0) else addNum mode (if negate then p.neg else p) c
/-- A quotient to far more bits than any format holds, its last bit set when the rest is not 0 (R136). -/
def divNum : Num → Num → Num × Nat
  | .nan n, _ => (.nan n, 0)
  | _, .nan n => (.nan n, 0)
  | .inf _, .inf _ => (.nan false, fNV)
  | .inf a, .fin b _ _ => (.inf (a != b), 0)
  | .fin a _ _, .inf b => (.fin (a != b) 0 0, 0)
  | .fin n1 m1 e1, .fin n2 m2 e2 =>
    if m2 = 0 then (if m1 = 0 then (.nan false, fNV) else (.inf (n1 != n2), fDZ))
    else
      let k := Nat.log2 m2 + 64
      let q := m1 * 2 ^ k / m2
      (.fin (n1 != n2) (2 * q + (if m1 * 2 ^ k % m2 = 0 then 0 else 1)) (e1 - e2 - k - 1), 0)
/-- The whole square root, bit by bit from bit `i - 1`. -/
def isqrt : Nat → Nat → Nat → Nat
  | 0, _, acc => acc
  | i + 1, n, acc => isqrt i n (if (acc + 2 ^ i) * (acc + 2 ^ i) ≤ n then acc + 2 ^ i else acc)
/-- A square root, as `divNum`. -/
def sqrtNum : Num → Num × Nat
  | .nan n => (.nan n, 0)
  | .inf true => (.nan false, fNV)
  | .inf false => (.inf false, 0)
  | .fin n m e =>
    if m = 0 then (.fin n 0 0, 0)
    else if n then (.nan false, fNV)
    else
      let k := 128 + (e % 2).toNat
      let v := m * 2 ^ k
      let r := isqrt (Nat.log2 v / 2 + 1) v 0
      (.fin false (2 * r + (if r * r = v then 0 else 1)) ((e - k) / 2 - 1), 0)

/-- The order of two values that are not NaN: -1, 0 or 1, with -0 equal to +0. -/
def cmpNum : Num → Num → Int
  | .inf a, .inf b => if a = b then 0 else if a then -1 else 1
  | .inf a, _ => if a then -1 else 1
  | _, .inf b => if b then 1 else -1
  | .fin n1 m1 e1, .fin n2 m2 e2 =>
    let k := min e1 e2
    let a : Int := (m1 * 2 ^ (e1 - k).toNat : Nat)
    let b : Int := (m2 * 2 ^ (e2 - k).toNat : Nat)
    let a := if n1 then -a else a
    let b := if n2 then -b else b
    if a < b then -1 else if a = b then 0 else 1
  | _, _ => 0
/-- Whether `a` orders below `b` for a minimum or maximum, -0 below +0 (R148). -/
def minOrder (a b : Num) : Bool :=
  let c := cmpNum a b
  c == -1 || (c == 0 && a.isZero && b.isZero && a.isNeg && !b.isNeg)
/-- The lesser, or with `greater` the greater, of two values; a NaN if either is one (R148). -/
def minmaxNum (greater : Bool) (a b : Num) : Num :=
  if a.isNan then a else if b.isNan then b
  else if greater then (if minOrder a b then b else a) else (if minOrder b a then b else a)

/-! ### The accumulator's value (R144, R146) -/

def accNan : BitVec 128 := 0x80000000000000000000000000000000
def accMax : Int := 2 ^ 127 - 1
/-- An entry as an exact value; AccNaN is a NaN of sign 0 (R144, R146). -/
def accNum (v : BitVec 128) : Num :=
  if v = accNan then .nan false else .fin (decide (v.toInt < 0)) v.toInt.natAbs (-64)
/-- An entry read into a format (R146). -/
def accTo (code : Nat) (r : Rnd) (v : BitVec 128) : Nat × Nat := roundTo code r (accNum v)
/-- A value rounded to the entry's grid and bounded, with ACC_SAT when it is bounded (R144). -/
def toAcc : Num → BitVec 128 × Nat
  | .nan _ => (accNan, 0)
  | .inf neg => (BitVec.ofInt 128 (if neg then -accMax else accMax), fACC)
  | .fin neg m e =>
    let exact : Bool := magLt (2 ^ 127 - 1) (-64) m e
    if exact then (BitVec.ofInt 128 (if neg then -accMax else accMax), fACC)
    else
      let n := (roundMag ⟨0, false, 0⟩ neg m e (-64)).1
      (BitVec.ofInt 128 (if neg then -(n : Int) else n), 0)
/-- The sum of two entries (R144). -/
def accAdd (old p : BitVec 128) : BitVec 128 × Nat :=
  if old = accNan ∨ p = accNan then (accNan, 0)
  else
    let s := old.toInt + p.toInt
    let c := max (-accMax) (min accMax s)
    (BitVec.ofInt 128 c, if c = s then 0 else fACC)

/-! ### The generator (R132, R133) -/

/-- Rounds of Philox4x32-10 on a counter's four words with a key's two. -/
def philoxGo : Nat → Nat → Nat → Nat → Nat → Nat → Nat → List Nat
  | 0, c0, c1, c2, c3, _, _ => [c0, c1, c2, c3]
  | n + 1, c0, c1, c2, c3, k0, k1 =>
    let p0 := 0xD2511F53 * c0
    let p1 := 0xCD9E8D57 * c2
    philoxGo n (Nat.xor (Nat.xor (p1 / 2 ^ 32) c1) k0) (p1 % 2 ^ 32) (Nat.xor (Nat.xor (p0 / 2 ^ 32) c3) k1) (p0 % 2 ^ 32)
      ((k0 + 0x9E3779B9) % 2 ^ 32) ((k1 + 0xBB67AE85) % 2 ^ 32)
/-- The four words of one block: the generator's output for a 64-bit key and a 128-bit counter (R133). -/
def philox (key ctr : Nat) : List Nat :=
  philoxGo 10 (ctr % 2 ^ 32) (ctr / 2 ^ 32 % 2 ^ 32) (ctr / 2 ^ 64 % 2 ^ 32) (ctr / 2 ^ 96 % 2 ^ 32) (key % 2 ^ 32) (key / 2 ^ 32 % 2 ^ 32)

/-- Draws words for `n` elements from a core's generator: one block for every four, the counter raised by one a block
(R133). -/
def drawWords (s : State) (core n : Nat) : List Nat × State :=
  let key := (getReg s (coreWin core 0)).toNat
  let ctr := (getReg s (coreWin core 8)).toNat + 2 ^ 64 * (getReg s (coreWin core 0x10)).toNat
  let k := (n + 3) / 4
  let ws := (List.range k).flatMap (fun i => philox key ((ctr + i) % 2 ^ 128))
  let c := (ctr + k) % 2 ^ 128
  (ws, setReg (setReg s (coreWin core 8) (BitVec.ofNat 64 c)) (coreWin core 0x10) (BitVec.ofNat 64 (c / 2 ^ 64)))

/-! ### Packed elements (R127) -/

/-- Element `e` of width `w` of a run of packed bits. -/
def packed (v w e : Nat) : Nat := v / 2 ^ (w * e) % 2 ^ w

end Sys2Proof.Machine
end

