-- ==== Sys2Proof/Machine/Vector.lean ====
section
/-! DEFINITION. The typed vector operations, fused operations, moves, permutes and mask operations (R180 to R191,
R198 to R200). -/
namespace Sys2Proof.Machine
open Sys2Proof

/-- The format code of a typed vector operation's type: .s8 to .w32, .f16, .bf16, .f32 in order (R51). -/
def tyCode (t : BitVec 4) : Nat := if t.toNat < 6 then t.toNat else t.toNat + 5
/-- Whether a type is a float type. -/
def tyFloat (t : BitVec 4) : Bool := decide (6 ≤ t.toNat)
/-- The lanes of a type: 256 bits by its width (R180). -/
def tyLanes (t : BitVec 4) : Nat := 256 / fmtBits (tyCode t)

/-- The bits of all flags raised in a list of lane results. -/
def orAll : List (Nat × Nat) → Nat
  | [] => 0
  | p :: r => Nat.lor p.2 (orAll r)
/-- Bit i set for each lane whose result was invalid (R137). -/
def invalidLanes : List (Nat × Nat) → Nat
  | [] => 0
  | p :: r => (if p.2 % 2 = 1 then 1 else 0) + 2 * invalidLanes r

/-- A vector result with flags: under FIE an invalid lane traps FP_INVALID and nothing is written or drawn (R84), else
destination and flags land after the latency (R137, R138, R186). `s'` is `s` after the draws of its rounding (R133). -/
def finishVec (s s' : State) (w : BitVec 3) (d : BitVec 5) (lat : Nat) (rs : List (Nat × Nat)) (v : W256) :
    Host.Outcome State Fault Refusal :=
  if fieOf (me s) ∧ invalidLanes rs ≠ 0 then .next (trapHere s 0x0E 0 (BitVec.ofNat 64 (invalidLanes rs)))
  else .next (retire (wflags (wv s' d lat v) lat (orAll rs)) w)

/-- The lane results of an instruction under a mask: an inactive lane keeps the destination's value and raises nothing
(R181). -/
def laneResults (s : State) (d : BitVec 5) (k : BitVec 3) (wd n : Nat) (f : Nat → Nat × Nat) : List (Nat × Nat) :=
  (List.range n).map (fun i => if (kr s k).getLsbD i then f i else (lane (vr s d) wd i, 0))
/-- A lane-wise instruction that can raise flags. -/
def vecFlags (s : State) (w : BitVec 3) (d : BitVec 5) (k : BitVec 3) (wd n lat : Nat) (f : Nat → Nat × Nat) :
    Host.Outcome State Fault Refusal :=
  let rs := laneResults s d k wd n f
  finishVec s s w d lat rs (BitVec.ofNat 256 (ofLanes wd (rs.map (·.1))))
/-- A lane-wise instruction that raises none. -/
def vecPlain (s : State) (w : BitVec 3) (d : BitVec 5) (k : BitVec 3) (wd n lat : Nat) (f : Nat → Nat) :
    Host.Outcome State Fault Refusal :=
  .next (retire (wv s d lat (maskLanes (kr s k) wd n (vr s d) f)) w)

/-- The two's-complement or plain value of an integer lane. -/
def laneInt (code v : Nat) : Int :=
  let w := fmtBits code
  if intSigned code ∧ 2 ^ (w - 1) ≤ v then (v : Int) - (2 ^ w : Nat) else v
/-- An integer as the bits of a lane. -/
def intLane (code : Nat) (v : Int) : Nat := (v % (2 ^ fmtBits code : Nat)).toNat
/-- The rounding of the vector unit's arithmetic: RNDMODE with SR as RNE (R147, R186). -/
def vecRnd (s : State) : Rnd := rndPlain (me s).rndmode
/-- A float result rounded into its type, its flags with those of the operation. -/
def fpResult (s : State) (code : Nat) (x : Num × Nat) : Nat × Nat :=
  let r := roundTo code (vecRnd s) x.1
  (r.1, Nat.lor r.2 x.2)

/-! ### Two-source and one-source typed operations (R184 to R187) -/

/-- A typed operation of two sources, by an integer and a float function of the lanes (R184). -/
def typed2 (s : State) (w : BitVec 3) (t : BitVec 4) (d a b : BitVec 5) (k : BitVec 3) (latI latF : Nat)
    (fi : Int → Int → Int) (ff : Num → Num → Num × Nat) : Host.Outcome State Fault Refusal :=
  let c := tyCode t
  let wd := fmtBits c
  if tyFloat t then vecFlags s w d k wd (tyLanes t) latF (fun i =>
    fpResult s c (ff (decodeNum c (lane (vr s a) wd i)) (decodeNum c (lane (vr s b) wd i))))
  else vecPlain s w d k wd (tyLanes t) latI (fun i =>
    intLane c (fi (laneInt c (lane (vr s a) wd i)) (laneInt c (lane (vr s b) wd i))))

/-- `vadd` (R184). -/
def execVadd (w : BitVec 3) (t : BitVec 4) (d a b : BitVec 5) (k : BitVec 3) (s : State) :=
  typed2 s w t d a b k 2 4 (· + ·) (addNum (vecRnd s).mode)
/-- `vsub` (R184). -/
def execVsub (w : BitVec 3) (t : BitVec 4) (d a b : BitVec 5) (k : BitVec 3) (s : State) :=
  typed2 s w t d a b k 2 4 (· - ·) (fun x y => addNum (vecRnd s).mode x y.neg)
/-- `vmul` (R184). -/
def execVmul (w : BitVec 3) (t : BitVec 4) (d a b : BitVec 5) (k : BitVec 3) (s : State) :=
  typed2 s w t d a b k 4 4 (· * ·) mulNum
/-- `vmin` (R148, R184). -/
def execVmin (w : BitVec 3) (t : BitVec 4) (d a b : BitVec 5) (k : BitVec 3) (s : State) :=
  typed2 s w t d a b k 2 2 min (fun x y => (minmaxNum false x y, 0))
/-- `vmax` (R148, R184). -/
def execVmax (w : BitVec 3) (t : BitVec 4) (d a b : BitVec 5) (k : BitVec 3) (s : State) :=
  typed2 s w t d a b k 2 2 max (fun x y => (minmaxNum true x y, 0))

/-- A float lane with its sign replaced; a NaN becomes the canonical NaN of that sign (R187). -/
def withSign (code v : Nat) (neg : Bool) : Nat :=
  match fpFmt code with
  | some f => if (decodeFp f v).isNan then nanBits f neg else v % 2 ^ (f.eb + f.mb) + (if neg then 2 ^ (f.eb + f.mb) else 0)
  | none => v
/-- `vabs` (R184, R187). -/
def execVabs (w : BitVec 3) (t : BitVec 4) (d a : BitVec 5) (k : BitVec 3) (s : State) : Host.Outcome State Fault Refusal :=
  let c := tyCode t
  let wd := fmtBits c
  vecPlain s w d k wd (tyLanes t) 2 (fun i =>
    let v := lane (vr s a) wd i
    if tyFloat t then withSign c v false else intLane c (laneInt c v).natAbs)
/-- `vneg` (R184, R187). -/
def execVneg (w : BitVec 3) (t : BitVec 4) (d a : BitVec 5) (k : BitVec 3) (s : State) : Host.Outcome State Fault Refusal :=
  let c := tyCode t
  let wd := fmtBits c
  vecPlain s w d k wd (tyLanes t) 2 (fun i =>
    let v := lane (vr s a) wd i
    if tyFloat t then withSign c v (!v.testBit (wd - 1)) else intLane c (-laneInt c v))

/-- A saturating integer operation (R184, R185). -/
def saturating (s : State) (w : BitVec 3) (t : BitVec 4) (d a b : BitVec 5) (k : BitVec 3) (f : Int → Int → Int) :
    Host.Outcome State Fault Refusal :=
  let c := tyCode t
  let wd := fmtBits c
  vecFlags s w d k wd (tyLanes t) 2 (fun i =>
    let v := f (laneInt c (lane (vr s a) wd i)) (laneInt c (lane (vr s b) wd i))
    let x := max (intMin c) (min (intMax c) v)
    (intLane c x, if x = v then 0 else fSAT))
/-- `vadds` (R184). -/
def execVadds (w : BitVec 3) (t : BitVec 4) (d a b : BitVec 5) (k : BitVec 3) (s : State) := saturating s w t d a b k (· + ·)
/-- `vsubs` (R184). -/
def execVsubs (w : BitVec 3) (t : BitVec 4) (d a b : BitVec 5) (k : BitVec 3) (s : State) := saturating s w t d a b k (· - ·)

/-- An integer operation on the bits of the lanes (R184). -/
def intOp (s : State) (w : BitVec 3) (t : BitVec 4) (d a b : BitVec 5) (k : BitVec 3) (lat : Nat) (f : Nat → Nat → Nat) :
    Host.Outcome State Fault Refusal :=
  let wd := fmtBits (tyCode t)
  vecPlain s w d k wd (tyLanes t) lat (fun i => f (lane (vr s a) wd i) (lane (vr s b) wd i))
/-- `vmulh` (R184). -/
def execVmulh (w : BitVec 3) (t : BitVec 4) (d a b : BitVec 5) (k : BitVec 3) (s : State) :=
  intOp s w t d a b k 4 (fun x y => intLane (tyCode t) (laneInt (tyCode t) x * laneInt (tyCode t) y / (2 ^ fmtBits (tyCode t) : Nat)))
/-- `vand` (R184). -/
def execVand (w : BitVec 3) (t : BitVec 4) (d a b : BitVec 5) (k : BitVec 3) (s : State) := intOp s w t d a b k 2 Nat.land
/-- `vor` (R184). -/
def execVor (w : BitVec 3) (t : BitVec 4) (d a b : BitVec 5) (k : BitVec 3) (s : State) := intOp s w t d a b k 2 Nat.lor
/-- `vxor` (R184). -/
def execVxor (w : BitVec 3) (t : BitVec 4) (d a b : BitVec 5) (k : BitVec 3) (s : State) := intOp s w t d a b k 2 Nat.xor
/-- `vsll` (R184): the count is the low bits of the second lane. -/
def execVsll (w : BitVec 3) (t : BitVec 4) (d a b : BitVec 5) (k : BitVec 3) (s : State) :=
  intOp s w t d a b k 2 (fun x y => x * 2 ^ (y % fmtBits (tyCode t)) % 2 ^ fmtBits (tyCode t))
/-- `vsrl` (R184). -/
def execVsrl (w : BitVec 3) (t : BitVec 4) (d a b : BitVec 5) (k : BitVec 3) (s : State) :=
  intOp s w t d a b k 2 (fun x y => x / 2 ^ (y % fmtBits (tyCode t)))
/-- `vsra` (R184). -/
def execVsra (w : BitVec 3) (t : BitVec 4) (d a b : BitVec 5) (k : BitVec 3) (s : State) :=
  intOp s w t d a b k 2 (fun x y => intLane (tyCode t) (laneInt (tyCode t) x / (2 ^ (y % fmtBits (tyCode t)) : Nat)))

/-- `vsel`: its mask selects the source, and every lane is written (R184). -/
def execVsel (w : BitVec 3) (t : BitVec 4) (d a b : BitVec 5) (k : BitVec 3) (s : State) : Host.Outcome State Fault Refusal :=
  let wd := fmtBits (tyCode t)
  .next (retire (wv s d 2 (buildLanes wd (tyLanes t) (fun i =>
    if (kr s k).getLsbD i then lane (vr s a) wd i else lane (vr s b) wd i))) w)

/-- `vdiv` (R147, R184). -/
def execVdiv (w : BitVec 3) (t : BitVec 4) (d a b : BitVec 5) (k : BitVec 3) (s : State) :=
  vecFlags s w d k (fmtBits (tyCode t)) (tyLanes t) 14 (fun i => fpResult s (tyCode t)
    (divNum (decodeNum (tyCode t) (lane (vr s a) (fmtBits (tyCode t)) i)) (decodeNum (tyCode t) (lane (vr s b) (fmtBits (tyCode t)) i))))
/-- `vsqrt` (R147, R184). -/
def execVsqrt (w : BitVec 3) (t : BitVec 4) (d a : BitVec 5) (k : BitVec 3) (s : State) :=
  vecFlags s w d k (fmtBits (tyCode t)) (tyLanes t) 14 (fun i => fpResult s (tyCode t)
    (sqrtNum (decodeNum (tyCode t) (lane (vr s a) (fmtBits (tyCode t)) i))))

/-! ### Compares (R188) -/

/-- A compare: bit i is the relation of active lane i, every other bit 0. The float relation takes whether a NaN stands
there and the order. -/
def compare (s : State) (w : BitVec 3) (t : BitVec 4) (d a b : BitVec 5) (k : BitVec 3) (ri : Int → Int → Bool)
    (rf : Bool → Int → Bool) : Host.Outcome State Fault Refusal :=
  let c := tyCode t
  let wd := fmtBits c
  let rel (i : Nat) : Bool :=
    let x := lane (vr s a) wd i
    let y := lane (vr s b) wd i
    if tyFloat t then
      let x := decodeNum c x
      let y := decodeNum c y
      rf (x.isNan || y.isNan) (cmpNum x y)
    else ri (laneInt c x) (laneInt c y)
  .next (retire (wk s d 2 (BitVec.ofNat 32 (ofLanes 1 ((List.range (tyLanes t)).map (fun i =>
    if (kr s k).getLsbD i ∧ rel i then 1 else 0))))) w)
/-- `vceq` (R188). -/
def execVceq (w : BitVec 3) (t : BitVec 4) (d a b : BitVec 5) (k : BitVec 3) (s : State) :=
  compare s w t d a b k (fun x y => decide (x = y)) (fun n c => !n && c == 0)
/-- `vcne` (R188). -/
def execVcne (w : BitVec 3) (t : BitVec 4) (d a b : BitVec 5) (k : BitVec 3) (s : State) :=
  compare s w t d a b k (fun x y => decide (x ≠ y)) (fun n c => n || c != 0)
/-- `vclt` (R188). -/
def execVclt (w : BitVec 3) (t : BitVec 4) (d a b : BitVec 5) (k : BitVec 3) (s : State) :=
  compare s w t d a b k (fun x y => decide (x < y)) (fun n c => !n && decide (c < 0))
/-- `vcle` (R188). -/
def execVcle (w : BitVec 3) (t : BitVec 4) (d a b : BitVec 5) (k : BitVec 3) (s : State) :=
  compare s w t d a b k (fun x y => decide (x ≤ y)) (fun n c => !n && decide (c ≤ 0))

/-! ### Reductions (R149, R189) -/

/-- One level of the pairwise tree, with the flags its nodes raise. -/
def treeLevel {α : Type} (node : α → α → α × Nat) : List α → List α × Nat
  | x :: y :: r =>
    let (l, fl) := treeLevel node r
    let (v, g) := node x y
    (v :: l, Nat.lor g fl)
  | l => (l, 0)
/-- The tree over 2 to the `n` values. -/
def tree {α : Type} (node : α → α → α × Nat) : Nat → List α → List α × Nat
  | 0, l => (l, 0)
  | n + 1, l =>
    let (l, fl) := treeLevel node l
    let (r, g) := tree node n l
    (r, Nat.lor fl g)

/-- A reduction with its integer node and identity and its float node and identity (R149, R189). -/
def reduce (s : State) (w : BitVec 3) (t : BitVec 4) (d a : BitVec 5) (k : BitVec 3) (ni : Int → Int → Int) (zi : Int)
    (nf : Num → Num → Num × Nat) (zf : Num) : Host.Outcome State Fault Refusal :=
  let c := tyCode t
  let wd := fmtBits c
  let n := tyLanes t
  let act (i : Nat) : Bool := (kr s k).getLsbD i
  let r : Nat × Nat :=
    if tyFloat t then
      let node (x y : Num) : Num × Nat :=
        let q := fpResult s c (nf x y)
        (decodeNum c q.1, q.2)
      let (l, fl) := tree node (Nat.log2 n) ((List.range n).map (fun i => if act i then decodeNum c (lane (vr s a) wd i) else zf))
      ((roundTo c (vecRnd s) (l.headD zf)).1, fl)
    else
      let (l, _) := tree (fun x y => (ni x y, 0)) (Nat.log2 n)
        ((List.range n).map (fun i => if act i then laneInt c (lane (vr s a) wd i) else zi))
      (intLane c (l.headD zi), 0)
  finishVec s s w d 6 [r] (BitVec.ofNat 256 r.1)
/-- `vredsum` (R189). -/
def execVredsum (w : BitVec 3) (t : BitVec 4) (d a : BitVec 5) (k : BitVec 3) (s : State) :=
  reduce s w t d a k (· + ·) 0 (addNum (vecRnd s).mode) (.fin true 0 0)
/-- `vredmin` (R189). -/
def execVredmin (w : BitVec 3) (t : BitVec 4) (d a : BitVec 5) (k : BitVec 3) (s : State) :=
  reduce s w t d a k min (intMax (tyCode t)) (fun x y => (minmaxNum false x y, 0)) (.inf false)
/-- `vredmax` (R189). -/
def execVredmax (w : BitVec 3) (t : BitVec 4) (d a : BitVec 5) (k : BitVec 3) (s : State) :=
  reduce s w t d a k max (intMin (tyCode t)) (fun x y => (minmaxNum true x y, 0)) (.inf true)

/-! ### Fused operations (R190, R191) -/

/-- A fused multiply-add of float lanes under k0 (R190). -/
def fused (s : State) (w : BitVec 3) (code : Nat) (negate : Bool) (d a b c : BitVec 5) : Host.Outcome State Fault Refusal :=
  let wd := fmtBits code
  let num (r : BitVec 5) (i : Nat) := decodeNum code (lane (vr s r) wd i)
  vecFlags s w d 0 wd (256 / wd) 5 (fun i => fpResult s code (fmaNum (vecRnd s).mode negate (num a i) (num b i) (num c i)))
def execVfmaF32 (w : BitVec 3) (d a b c : BitVec 5) (s : State) := fused s w 0x0D false d a b c
def execVfmaF16 (w : BitVec 3) (d a b c : BitVec 5) (s : State) := fused s w 0x0B false d a b c
def execVfmaBf16 (w : BitVec 3) (d a b c : BitVec 5) (s : State) := fused s w 0x0C false d a b c
def execVfnmaF32 (w : BitVec 3) (d a b c : BitVec 5) (s : State) := fused s w 0x0D true d a b c
def execVfnmaF16 (w : BitVec 3) (d a b c : BitVec 5) (s : State) := fused s w 0x0B true d a b c
def execVfnmaBf16 (w : BitVec 3) (d a b c : BitVec 5) (s : State) := fused s w 0x0C true d a b c

/-- A four-way dot product of bytes added to 32-bit lanes under k0 (R191). -/
def dot4 (s : State) (w : BitVec 3) (code : Nat) (d a b c : BitVec 5) : Host.Outcome State Fault Refusal :=
  vecPlain s w d 0 32 8 5 (fun i =>
    let p (j : Nat) : Int := laneInt code (lane (vr s a) 8 (4 * i + j)) * laneInt code (lane (vr s b) 8 (4 * i + j))
    (((lane (vr s c) 32 i : Int) + p 0 + p 1 + p 2 + p 3) % (2 ^ 32 : Nat)).toNat)
def execVmaccS32 (w : BitVec 3) (d a b c : BitVec 5) (s : State) := dot4 s w 0 d a b c
def execVmaccW32 (w : BitVec 3) (d a b c : BitVec 5) (s : State) := dot4 s w 3 d a b c

/-! ### Byte-lane moves (R198) -/

/-- A byte-lane move under a mask. -/
def byteMove (s : State) (w : BitVec 3) (d : BitVec 5) (k : BitVec 3) (f : Nat → Nat) := vecPlain s w d k 8 32 2 f
/-- The count of a slide: the scalar, at most 32. -/
def slideBy (s : State) (m : BitVec 5) : Nat := min (xr s m).toNat 32
def execVmov (w : BitVec 3) (d a : BitVec 5) (k : BitVec 3) (s : State) := byteMove s w d k (fun i => lane (vr s a) 8 i)
def execVperm (w : BitVec 3) (d a b : BitVec 5) (k : BitVec 3) (s : State) :=
  byteMove s w d k (fun i => if 128 ≤ lane (vr s b) 8 i then 0 else lane (vr s a) 8 (lane (vr s b) 8 i % 32))
def execVslideup (w : BitVec 3) (d a m : BitVec 5) (k : BitVec 3) (s : State) :=
  byteMove s w d k (fun i => if slideBy s m ≤ i then lane (vr s a) 8 (i - slideBy s m) else 0)
def execVslidedn (w : BitVec 3) (d a m : BitVec 5) (k : BitVec 3) (s : State) :=
  byteMove s w d k (fun i => if i + slideBy s m < 32 then lane (vr s a) 8 (i + slideBy s m) else 0)
/-- `vrget`: an index of 32 or more traps REG_INDEX before it executes (R89, R198). -/
def execVrget (w : BitVec 3) (d a : BitVec 5) (k : BitVec 3) (s : State) : Host.Outcome State Fault Refusal :=
  if 32 ≤ (xr s a).toNat then .next (trapHere s 0x0F 0 (xr s a))
  else byteMove s w d k (fun i => lane ((me s).rv (xr s a).toNat) 8 i)

/-! ### Elements and scalars (R199) -/

/-- `vbcast` (R199). -/
def execVbcast (w : BitVec 3) (d a : BitVec 5) (c : BitVec 3) (s : State) : Host.Outcome State Fault Refusal :=
  let wd := 8 * 2 ^ c.toNat
  .next (retire (wv s d 2 (buildLanes wd (256 / wd) (fun _ => (xr s a).toNat))) w)
/-- `vxget` (R199): an index outside traps REG_INDEX. -/
def execVxget (w : BitVec 3) (d a i : BitVec 5) (c : BitVec 3) (s : State) : Host.Outcome State Fault Refusal :=
  let wd := 8 * 2 ^ c.toNat
  if 32 / 2 ^ c.toNat ≤ (xr s i).toNat then .next (trapHere s 0x0F 0 (xr s i))
  else scalarResult s w d 2 (BitVec.ofNat 64 (lane (vr s a) wd (xr s i).toNat))
/-- `vxput` (R199): an index outside traps REG_INDEX. -/
def execVxput (w : BitVec 3) (d a i : BitVec 5) (c : BitVec 3) (s : State) : Host.Outcome State Fault Refusal :=
  let wd := 8 * 2 ^ c.toNat
  if 32 / 2 ^ c.toNat ≤ (xr s i).toNat then .next (trapHere s 0x0F 0 (xr s i))
  else .next (retire (wv s d 2 (buildLanes wd (256 / wd) (fun j =>
    if j = (xr s i).toNat then (xr s a).toNat else lane (vr s d) wd j))) w)

/-! ### Mask operations (R200) -/

def execVmand (w : BitVec 3) (d a b : BitVec 5) (s : State) : Host.Outcome State Fault Refusal :=
  .next (retire (wk s d 2 (kr s a &&& kr s b)) w)
def execVmor (w : BitVec 3) (d a b : BitVec 5) (s : State) : Host.Outcome State Fault Refusal :=
  .next (retire (wk s d 2 (kr s a ||| kr s b)) w)
def execVmxor (w : BitVec 3) (d a b : BitVec 5) (s : State) : Host.Outcome State Fault Refusal :=
  .next (retire (wk s d 2 (kr s a ^^^ kr s b)) w)
def execVmnot (w : BitVec 3) (d a : BitVec 5) (s : State) : Host.Outcome State Fault Refusal :=
  .next (retire (wk s d 2 (~~~(kr s a))) w)
def execVmset (w : BitVec 3) (d a : BitVec 5) (s : State) : Host.Outcome State Fault Refusal :=
  .next (retire (wk s d 2 ((xr s a).setWidth 32)) w)
def execVmget (w : BitVec 3) (d a : BitVec 5) (s : State) := scalarResult s w d 2 ((kr s a).setWidth 64)

end Sys2Proof.Machine
end

