-- ==== Sys2Proof/Machine/Approx.lean ====
section
/-! DEFINITION. The transcendental approximations (R201, R202): the special operands exactly, and every other result one
of the values that the manual's bound admits, which of them the manual leaving open. Log entry 7. -/
namespace Sys2Proof.Machine
open Sys2Proof

/-! ### The exact functions, to 512 fraction bits -/

/-- Fraction bits of the reference values, far more than any bound needs. -/
def fixP : Nat := 512
def fixOne : Nat := 2 ^ 512

/-- Sum of 1 over k times 2 to the k: the natural logarithm of 2. -/
def ln2Go : Nat → Nat → Nat
  | 0, _ => 0
  | n + 1, k => fixOne / (k * 2 ^ k) + ln2Go n (k + 1)
def fixLn2 : Nat := ln2Go 520 1
/-- The arc tangent of 1 over n, alternating. -/
def atanGo (n : Nat) : Nat → Nat → Nat → Int
  | 0, _, _ => 0
  | i + 1, k, p => (p / (2 * k + 1) : Nat) - atanGo n i (k + 1) (p / (n * n))
/-- The circle's ratio, by Machin's formula. -/
def fixPi : Nat := (16 * atanGo 5 115 0 (fixOne / 5) - 4 * atanGo 239 40 0 (fixOne / 239)).toNat
/-- The exponential of a fraction `r`, by its series. -/
def expGo (r : Nat) : Nat → Nat → Nat → Nat
  | 0, _, t => t
  | n + 1, k, t => t + expGo r n (k + 1) (t * r / fixOne / k)
def fixExp01 (r : Nat) : Nat := expGo r 110 1 fixOne
/-- The sine or cosine of a small angle, by its series from term `k` on. -/
def sinGo (a2 : Nat) : Nat → Nat → Nat → Int
  | 0, _, t => t
  | n + 1, k, t => (t : Int) - sinGo a2 n (k + 2) (t * a2 / fixOne / (k * (k + 1)))
def fixSin (a : Nat) : Nat := (sinGo (a * a / fixOne) 75 2 a).toNat
def fixCos (a : Nat) : Nat := (sinGo (a * a / fixOne) 75 1 fixOne).toNat
/-- The inverse hyperbolic tangent of a fraction, by its series. -/
def atanhGo (z2 : Nat) : Nat → Nat → Nat → Nat
  | 0, _, _ => 0
  | n + 1, k, t => t / k + atanhGo z2 n (k + 2) (t * z2 / fixOne)
/-- e to a fixed-point power, as a mantissa and a power of two. -/
def fixExp (x : Nat) : Nat × Nat := (fixExp01 (x % fixLn2), x / fixLn2)

/-- A positive magnitude in fixed point that is not exact: its last bit stands for the rest. -/
def stickyFix (neg : Bool) (v : Nat) : Num := .fin neg (2 * v + 1) (-(fixP : Int) - 1)
/-- A finite operand's magnitude in fixed point. -/
def toFix (m : Nat) (e : Int) : Nat := if 0 ≤ e + fixP then m * 2 ^ (e + fixP).toNat else 0
/-- Whether a magnitude is a power of two. -/
def isPow2 (m : Nat) : Bool := m == 2 ^ Nat.log2 m

/-- 2 to a finite power; far outside every format's range the power is cut short, which changes no result. -/
def exp2Of (neg : Bool) (m : Nat) (e : Int) : Num :=
  if 12 < expOf m e then (if neg then .fin false 1 (-4096) else .fin false 1 4096)
  else
    let v : Int := if neg then -(toFix m e : Int) else toFix m e
    let n := v / fixOne
    let f := (v % fixOne).toNat
    if f = 0 then .fin false 1 n else .fin false (2 * fixExp01 (f * fixLn2 / fixOne) + 1) (n - fixP - 1)
/-- The binary logarithm of a positive value that is no power of two. -/
def log2Of (m : Nat) (e : Int) : Num :=
  let l := Nat.log2 m
  let mant := m * 2 ^ (fixP - l)
  let z := (mant - fixOne) * fixOne / (mant + fixOne)
  let ln := 2 * atanhGo (z * z / fixOne) 170 1 z
  let y : Int := ((l : Int) + e) * fixOne + (ln * fixOne / fixLn2 : Nat)
  stickyFix (decide (y < 0)) y.natAbs
/-- 1 over the square root of a positive value. -/
def rsqrtOf (m : Nat) (e : Int) : Num :=
  if isPow2 m ∧ expOf m e % 2 = 0 then .fin false 1 (-(expOf m e / 2))
  else
    let k := Nat.log2 m + 300 + (((Nat.log2 m : Int) + e) % 2).toNat
    let r := isqrt 160 (2 ^ k / m) 0
    .fin false (2 * r + 1) (-((k + e) / 2) - 1)
/-- The hyperbolic tangent of a value other than 0. -/
def tanhOf (neg : Bool) (m : Nat) (e : Int) : Num :=
  if 6 < expOf m e then stickyFix neg (fixOne - 1)
  else
    let (c, n) := fixExp (2 * toFix m e)
    let v := c * 2 ^ n
    stickyFix neg ((v - fixOne) * fixOne / (v + fixOne))
/-- The logistic function of a value other than 0. -/
def sigmOf (neg : Bool) (m : Nat) (e : Int) : Num :=
  if 7 < expOf m e then stickyFix false (if neg then 0 else fixOne - 1)
  else
    let (c, n) := fixExp (toFix m e)
    let v := c * 2 ^ n
    stickyFix false ((if neg then fixOne else v) * fixOne / (v + fixOne))
/-- The sine, or with `quarter` 1 the cosine, of a number of turns. -/
def turnOf (quarter : Nat) (neg : Bool) (m : Nat) (e : Int) : Num :=
  let fr := toFix m e % fixOne
  let q := (4 * fr / fixOne + quarter) % 4
  let r := 4 * fr % fixOne
  let a := 2 * fixPi * r / (4 * fixOne)
  let flip := (neg && quarter == 0) != decide (2 ≤ q)
  if r = 0 then (if q % 2 = 0 then .fin flip 0 0 else .fin flip 1 0)
  else stickyFix flip (if q % 2 = 0 then fixSin a else fixCos a)

/-- The function of Table 7-9 on an operand: its value, the flags of a special, and whether it is one (Table 7-10). -/
def approxOf (fn : Nat) : Num → Num × Nat × Bool
  | .nan n => (.nan n, 0, true)
  | .inf n =>
    if fn = 0 then (if n then .fin false 0 0 else .inf false, 0, true)
    else if fn = 1 then (if n then (.nan false, fNV, true) else (.inf false, 0, true))
    else if fn = 2 then (.fin n 0 0, 0, true)
    else if fn = 3 then (if n then (.nan false, fNV, true) else (.fin false 0 0, 0, true))
    else if fn = 4 then (.fin n 1 0, 0, true)
    else if fn = 7 then (if n then .fin false 0 0 else .fin false 1 0, 0, true)
    else (.nan false, fNV, true)
  | .fin n m e =>
    let whole := toFix m e % fixOne == 0
    if m = 0 then
      if fn = 0 then (.fin false 1 0, 0, true)
      else if fn = 1 then (.inf true, fDZ, true)
      else if fn = 2 ∨ fn = 3 then (.inf n, fDZ, true)
      else if fn = 6 then (.fin false 1 0, 0, true)
      else if fn = 7 then (.fin false 1 (-1), 0, true) else (.fin n 0 0, 0, true)
    else if fn = 0 then (exp2Of n m e, 0, whole)
    else if fn = 1 then
      if n then (.nan false, fNV, true)
      else if isPow2 m then (numInt (expOf m e), 0, true) else (log2Of m e, 0, false)
    else if fn = 2 then ((divNum (.fin false 1 0) (.fin n m e)).1, 0, isPow2 m)
    else if fn = 3 then (if n then (.nan false, fNV, true) else (rsqrtOf m e, 0, false))
    else if fn = 4 then (tanhOf n m e, 0, false)
    else if fn = 5 then (if 2 * toFix m e % fixOne = 0 then (.fin n 0 0, 0, true) else (turnOf 0 n m e, 0, false))
    else if fn = 6 then (if whole then (.fin false 1 0, 0, true) else (turnOf 1 n m e, 0, false))
    else (sigmOf n m e, 0, false)

/-! ### The results the bounds admit -/

/-- The place of an element's bits in the order of the format's values, -0 just below +0; and the bits of a place. -/
def placeKey (wd b : Nat) : Int := if b.testBit (wd - 1) then -((b % 2 ^ (wd - 1) : Nat) : Int) - 1 else b
def keyBits (wd : Nat) (k : Int) : Nat := if k < 0 then 2 ^ (wd - 1) + (-k - 1).toNat else k.toNat

/-- The .f32 bound of a function at a result and operand, as a mantissa and exponent (Table 7-9). -/
def boundOf (f : FpFmt) (fn : Nat) (x y : Num) : Nat × Int :=
  let ulp : Int := match y with
    | .fin _ m e => if m = 0 then 1 - f.bias - f.mb else quantum f m e
    | _ => 0
  if fn = 0 then (1, ulp + 1)
  else if fn = 1 then (if cmpNum (.fin false 1 (-1)) x ≤ 0 ∧ cmpNum x (.fin false 2 0) ≤ 0 then (1, -23) else (1, ulp + 1))
  else if fn = 2 ∨ fn = 3 then (1, ulp)
  else if fn = 4 then (1, max (ulp + 1) (-24))
  else if fn = 7 then (1, -23) else (1, -22)

/-- The lowest and highest admissible result of a finite value: within the bound for .f32, one of the two neighbours or
the exact value for .f16 and .bf16 (R201). -/
def admissible (f : FpFmt) (code fn : Nat) (x y : Num) : Int × Int :=
  let wd := fmtBits code
  let key (mode : Nat) (v : Num) : Int := placeKey wd (roundFp f ⟨mode, false, 0⟩ v).1
  if code = 0x0D then
    let (bm, be) := boundOf f fn x y
    let low := (addNum 0 y (.fin true bm be)).1
    let high := (addNum 0 y (.fin false bm be)).1
    let a := key 3 low
    let b := key 2 high
    let a := if a = 0 then -1 else a
    let b := if b = -1 then 0 else b
    if fn = 7 then (max a 0, min b 0x3F800000) else (a, b)
  else if y.isZero then (-1, 0) else (key 2 y, key 3 y)

/-- A lane of an approximation: bits and flags (R201, R202). -/
def approxLane (code fn : Nat) (r : Rnd) (opnd : Nat) : Nat × Nat :=
  let x := decodeNum code opnd
  let (y, fl, special) := approxOf fn x
  match fpFmt code with
  | none => (0, 0)
  | some f =>
    let r := { r with mode := 0 }
    let (b, g) := roundFp f r y
    if special ∧ (g = 0 ∨ !(match x with | .fin .. => true | _ => false)) then (b, Nat.lor fl g)
    else if g / fOF % 2 = 1 then (b, g)
    else
      let (lo, hi) := admissible f code fn x y
      let c := keyBits (fmtBits code) (lo + ((Config.approxPick code fn opnd % (hi - lo + 1).toNat : Nat) : Int))
      let small := decide (c % 2 ^ (f.eb + f.mb) < 2 ^ f.mb)
      (c, fNX + (if small ∧ !(y.isZero && c % 2 ^ (f.eb + f.mb) == 0) then fUF else 0))

/-- The type of an approximation: 0 .f32, 1 .f16, 2 .bf16 (Table 2-11). -/
def approxCode (t : BitVec 2) : Nat := if t = 0 then 0x0D else if t = 1 then 0x0B else 0x0C
/-- An approximation of function code `fn` (R201). -/
def approx (s : State) (w : BitVec 3) (fn : Nat) (d a : BitVec 5) (k : BitVec 3) (t : BitVec 2) :
    Host.Outcome State Fault Refusal :=
  let wd := fmtBits (approxCode t)
  vecFlags s w d k wd (256 / wd) 8 (fun i => approxLane (approxCode t) fn (vecRnd s) (lane (vr s a) wd i))
def execVexp2 (w : BitVec 3) (d a : BitVec 5) (k : BitVec 3) (t : BitVec 2) (s : State) := approx s w 0 d a k t
def execVlog2 (w : BitVec 3) (d a : BitVec 5) (k : BitVec 3) (t : BitVec 2) (s : State) := approx s w 1 d a k t
def execVrcp (w : BitVec 3) (d a : BitVec 5) (k : BitVec 3) (t : BitVec 2) (s : State) := approx s w 2 d a k t
def execVrsqrt (w : BitVec 3) (d a : BitVec 5) (k : BitVec 3) (t : BitVec 2) (s : State) := approx s w 3 d a k t
def execVtanh (w : BitVec 3) (d a : BitVec 5) (k : BitVec 3) (t : BitVec 2) (s : State) := approx s w 4 d a k t
def execVsin (w : BitVec 3) (d a : BitVec 5) (k : BitVec 3) (t : BitVec 2) (s : State) := approx s w 5 d a k t
def execVcos (w : BitVec 3) (d a : BitVec 5) (k : BitVec 3) (t : BitVec 2) (s : State) := approx s w 6 d a k t
def execVsigm (w : BitVec 3) (d a : BitVec 5) (k : BitVec 3) (t : BitVec 2) (s : State) := approx s w 7 d a k t

end Sys2Proof.Machine
end

