-- ==== Sys2Proof/Machine/Control.lean ====
section
/-! DEFINITION. Jumps, branches, chain loops, control registers, and the trap, return and yield instructions
(R70 to R72, R76, R78 to R81, R83, R110). -/
namespace Sys2Proof.Machine
open Sys2Proof

/-- `jal` (R71). -/
def execJal (w : BitVec 3) (d : BitVec 5) (o : BitVec 18) (s : State) : Host.Outcome State Fault Refusal :=
  .next (goTo (wx s d 1 ((me s).pc + 4)) w (target (me s).pc o))
/-- `jalr` (R71): a misaligned target traps ALIGN and writes no link. -/
def execJalr (w : BitVec 3) (d a : BitVec 5) (i : BitVec 13) (s : State) : Host.Outcome State Fault Refusal :=
  let t := xr s a + sext64 i
  if bits t 0 2 ≠ 0 then .next (trapHere s 0x03 0 t) else .next (goTo (wx s d 1 ((me s).pc + 4)) w t)

/-- A conditional branch (R70). -/
def branchIf (s : State) (w : BitVec 3) (taken : Bool) (o : BitVec 13) : Host.Outcome State Fault Refusal :=
  if taken then .next (goTo s w (target (me s).pc o)) else .next (retire s w)

def execBeq (w : BitVec 3) (a b : BitVec 5) (o : BitVec 13) (s : State) := branchIf s w (decide (xr s a = xr s b)) o
def execBne (w : BitVec 3) (a b : BitVec 5) (o : BitVec 13) (s : State) := branchIf s w (decide (xr s a ≠ xr s b)) o
def execBlt (w : BitVec 3) (a b : BitVec 5) (o : BitVec 13) (s : State) :=
  branchIf s w (decide (sgn (xr s a) < sgn (xr s b))) o
def execBge (w : BitVec 3) (a b : BitVec 5) (o : BitVec 13) (s : State) :=
  branchIf s w (decide (sgn (xr s b) ≤ sgn (xr s a))) o
def execBlo (w : BitVec 3) (a b : BitVec 5) (o : BitVec 13) (s : State) :=
  branchIf s w (decide ((xr s a).toNat < (xr s b).toNat)) o
def execBhs (w : BitVec 3) (a b : BitVec 5) (o : BitVec 13) (s : State) :=
  branchIf s w (decide ((xr s b).toNat ≤ (xr s a).toNat)) o

/-- Advances levels `l` up to `d` of a chain with a carry in; the result says whether the nest is unfinished (R76). -/
def advanceChain (c d : Nat) : Nat → Nat → Slot → Slot × Bool
  | 0, _, t => (t, false)
  | fuel + 1, l, t =>
    if d ≤ l then (t, false)
    else
      let v := chainLevel t c l
      if v.i + 1 = v.n then advanceChain c d fuel (l + 1) (setLevel t c l { v with i := 0 })
      else (setLevel t c l { v with i := v.i + 1 }, true)

/-- `chloop` (R76). -/
def execChloop (w : BitVec 3) (c : BitVec 5) (o : BitVec 18) (s : State) : Host.Outcome State Fault Refusal :=
  let (t, again) := advanceChain c.toNat (activeDepth (me s) c.toNat) 3 0 (me s)
  let pc := (me s).pc
  let s := modMe s (fun _ => t)
  if again then .next (goTo s w (target pc o)) else .next (retire s w)

/-! ### Control registers (R20, R21, R78, R79, R151) -/

/-- The value of a control register as an instruction of the issuing slot reads it (Table 1-7, R151). -/
def csrValue (s : State) (r : Nat) : W64 :=
  let t := me s
  let handler := s.curSlot == 4
  if r = 0x000 then t.status else if r = 0x001 then t.trapcause else if r = 0x002 then t.trappc
  else if r = 0x003 then t.trapval else if r = 0x004 then t.waitchk
  else if r = 0x005 then (if handler then 0 else t.incarn.setWidth 64)
  else if r = 0x006 then (if handler then 0 else t.taskid)
  else if r = 0x007 then BitVec.ofNat 64 (colOfCore s.curCore)
  else if r = 0x008 then BitVec.ofNat 64 s.curCore
  else if r = 0x010 then (if handler then 0 else t.fmtA) else if r = 0x011 then (if handler then 0 else t.fmtB)
  else if r = 0x012 then (if handler then 0 else t.scaleA) else if r = 0x013 then (if handler then 0 else t.scaleB)
  else if r = 0x018 then t.rndmode else if r = 0x019 then t.flags
  else if r = 0x020 then (myCore s).spillbase else if r = 0x021 then (myCore s).ovfptr else 0

/-- The bits of a control register that only system level may change (Table 1-7, R21). -/
def sysMask (r : Nat) : W64 :=
  if r = 0x000 then 0x26
  else if r = 0x001 ∨ r = 0x002 ∨ r = 0x003 ∨ r = 0x004 ∨ r = 0x020 ∨ r = 0x021 then csrMask r else 0

/-- A control register's write: PROT at task level where a system-only field would change, else the value lands 2 cycles
later and the old value is returned (R79). -/
def csrWrite (s : State) (w : BitVec 3) (d : BitVec 5) (r : Nat) (v : W64) : Host.Outcome State Fault Refusal :=
  let old := csrValue s r
  if !lvlOf (me s) ∧ (v ^^^ old) &&& sysMask r ≠ 0 then .next (trapHere s 0x05 0 (BitVec.ofNat 64 r))
  else
    let s := if r = 0x020 ∨ r = 0x021 then modMyCore s (fun c => { c with csrPend := (s.now + 2, r, v) :: c.csrPend })
      else wreg s .csr r 2 (v.setWidth 256)
    .next (retire (wx s d 2 old) w)

/-- `csrr` (R78). -/
def execCsrr (w : BitVec 3) (d : BitVec 5) (r : BitVec 11) (s : State) := scalarResult s w d 2 (csrValue s r.toNat)
/-- `csrw` (R78). -/
def execCsrw (w : BitVec 3) (d a : BitVec 5) (r : BitVec 11) (s : State) := csrWrite s w d r.toNat (xr s a)
/-- `csrs` (R78). -/
def execCsrs (w : BitVec 3) (d a : BitVec 5) (r : BitVec 11) (s : State) :=
  csrWrite s w d r.toNat (csrValue s r.toNat ||| xr s a)
/-- `csrc` (R78). -/
def execCsrc (w : BitVec 3) (d a : BitVec 5) (r : BitVec 11) (s : State) :=
  csrWrite s w d r.toNat (csrValue s r.toNat &&& ~~~(xr s a))

/-! ### Traps, return and yield -/

/-- `svc`: completes, then traps SVC with TRAPPC past itself (R80). -/
def execSvc (_w : BitVec 3) (i : BitVec 18) (s : State) : Host.Outcome State Fault Refusal :=
  .next (takeTrap s s.curCore s.curSlot 0x10 0 (i.setWidth 64) ((me s).pc + 4))
/-- `brk`: traps BRK onto itself (R80). -/
def execBrk (_w : BitVec 3) (i : BitVec 18) (s : State) : Host.Outcome State Fault Refusal :=
  .next (trapHere s 0x11 0 (i.setWidth 64))

/-- A slot that took a DRAUGHT trap begins to freeze at its `tret` or `yield` (R28, R81, R83). -/
def freezeAfterDraught (s : State) : State :=
  if (me s).draught.isSome then
    soon (modMe s (fun t => { t with draught := none, freezing := true })) .slotFreeze [s.curCore, s.curSlot]
  else s

/-- `tret`: PROT at task level; else the return from the trap (R83). In the handler slot it returns as for a task. -/
def execTret (w : BitVec 3) (s : State) : Host.Outcome State Fault Refusal :=
  if !lvlOf (me s) then .next (trapHere s 0x05 0 0) else .next (freezeAfterDraught (holdWait (trapReturn s) w))
/-- `yield` (R81). -/
def execYield (w : BitVec 3) (s : State) : Host.Outcome State Fault Refusal :=
  .next (freezeAfterDraught (modMe (retire s w) (fun t => { t with yielding := some (s.now + 8, []) })))
/-- `isync`: empties the fetch buffer; the next instruction issues no earlier than 3 cycles later (R110). -/
def execIsync (w : BitVec 3) (s : State) : Host.Outcome State Fault Refusal :=
  .next (modMe (retire s w) (fun t => { t with fbuf := [], ready := max t.ready (s.now + 3) }))

end Sys2Proof.Machine
end

