-- ==== Sys2Proof/Machine/Memory.lean ====
section
/-! DEFINITION. Local loads and stores, bit fields, vector loads and stores, global loads and stores, atomics and active
messages, as they issue (R93 to R99, R111 to R116, R203). -/
namespace Sys2Proof.Machine
open Sys2Proof

/-! ### Local loads and stores (R93, R94) -/

/-- The trap of an uncorrectable local dword: ECC_LOCAL with its byte address (R94). -/
def eccTrap (s : State) (a : Nat) : State := trapHere s 0x06 0 (BitVec.ofNat 64 (a / 8 * 8))

/-- A local load of `n` bytes whose value is extended by `ext` (R93). -/
def loadLocal (s : State) (w : BitVec 3) (d : BitVec 5) (a : W64) (n : Nat) (ext : Nat → W64) :
    Host.Outcome State Fault Refusal :=
  match localGate s a n n true false with
  | some s => .next s
  | none =>
    let pa := localPa s.curCore a.toNat
    if wordErr s pa = .ecc then .next (eccTrap s a.toNat)
    else
      let v := ext (wordAt s pa n)
      let s := countAldShort (noteRead s pa) a.toNat n
      .next (retire (wx s d 4 v) w)

/-- `ld` (R93). -/
def execLd (w : BitVec 3) (d a : BitVec 5) (sz : BitVec 2) (o : BitVec 11) (s : State) :=
  loadLocal s w d (mAddr (xr s a) o (2 ^ sz.toNat)) (2 ^ sz.toNat) (fun v => sextN v (8 * 2 ^ sz.toNat))
/-- `ldz` (R93). -/
def execLdz (w : BitVec 3) (d a : BitVec 5) (sz : BitVec 2) (o : BitVec 11) (s : State) :=
  loadLocal s w d (mAddr (xr s a) o (2 ^ sz.toNat)) (2 ^ sz.toNat) (fun v => BitVec.ofNat 64 v)

/-- `st` (R93, R94, R156): a store to a Letterbox tag releases its entry, whatever it stores. -/
def execSt (w : BitVec 3) (b a : BitVec 5) (sz : BitVec 2) (o : BitVec 11) (s : State) : Host.Outcome State Fault Refusal :=
  let n := 2 ^ sz.toNat
  let addr := mAddr (xr s a) o n
  match localGate s addr n n false (n == 8) with
  | some s => .next s
  | none =>
    if 0x3FE00 ≤ addr.toNat then .next (retire (lbFree s s.curCore ((addr.toNat - 0x3FE00) / 8)) w)
    else
      match writeWord s (localPa s.curCore addr.toNat) n ((xr s b).toNat % 2 ^ (8 * n)) with
      | (s, true) => .next (retire s w)
      | (s, false) => .next (eccTrap s addr.toNat)

/-! ### Bit fields (R95, R96) -/

/-- The checks of a bit field of `n` bits at bit address `b`, with the extra cycle of a straddling field (R95, R96). -/
def bitGate (s : State) (b : W64) (n : Nat) (load : Bool) : Option State :=
  let a := b.toNat / 8
  let len := (b.toNat + n - 1) / 8 + 1 - a
  let short := if load then aldShort s s.curCore s.curSlot a len else none
  if short.isSome ∧ bitOf (me s).waitchk 0 then localGate s (BitVec.ofNat 64 a) len 1 load false
  else if 0x200000 < b.toNat + n ∨ !localAllowed s s.curCore s.curSlot (lvlOf (me s)) a len load false then
    some (trapHere s 0x05 0 (BitVec.ofNat 64 a))
  else match localGate s (BitVec.ofNat 64 a) len 1 load false with
    | some s => some s
    | none =>
      if 64 < b.toNat % 64 + n ∧ !(me s).retry then
        some (stallTo (modMe s (fun t => { t with retry := true })) (s.now + 1))
      else none

/-- The first uncorrectable dword of a bit field (R95). -/
def bitEcc (s : State) (b n : Nat) : Option Nat :=
  let lo := b / 64 * 8
  if wordErr s (localPa s.curCore lo) = .ecc then some lo
  else if 64 < b % 64 + n ∧ wordErr s (localPa s.curCore (lo + 8)) = .ecc then some (lo + 8) else none

/-- `ldbit` (R95). -/
def execLdbit (w : BitVec 3) (d a : BitVec 5) (n : BitVec 6) (s : State) : Host.Outcome State Fault Refusal :=
  let b := xr s a
  let k := n.toNat + 1
  match bitGate s b k true with
  | some s => .next s
  | none =>
    let s := modMe s (fun t => { t with retry := false })
    match bitEcc s b.toNat k with
    | some p => .next (eccTrap s p)
    | none =>
      let pa := localPa s.curCore (b.toNat / 64 * 8)
      let v := rdN s pa 16 / 2 ^ (b.toNat % 64) % 2 ^ k
      let s := noteRead s pa
      let s := if 64 < b.toNat % 64 + k then noteRead s (pa + 8) else s
      let s := countAldShort s (b.toNat / 8) ((b.toNat + k - 1) / 8 + 1 - b.toNat / 8)
      .next (retire (wx s d 5 (BitVec.ofNat 64 v)) w)

/-- `stbit` (R95); a field that touches a Letterbox tag releases its entry at system level (Table 6-2). -/
def execStbit (w : BitVec 3) (a b : BitVec 5) (n : BitVec 6) (s : State) : Host.Outcome State Fault Refusal :=
  let ba := xr s a
  let k := n.toNat + 1
  match bitGate s ba k false with
  | some s => .next s
  | none =>
    let s := modMe s (fun t => { t with retry := false })
    if 0x3FE00 ≤ ba.toNat / 8 then
      let i := (ba.toNat / 8 - 0x3FE00) / 8
      let s := lbFree s s.curCore i
      let s := if 64 < ba.toNat % 64 + k then lbFree s s.curCore (i + 1) else s
      .next (retire s w)
    else match bitEcc s ba.toNat k with
      | some p => .next (eccTrap s p)
      | none =>
        let lo := ba.toNat / 64 * 8
        let two := decide (64 < ba.toNat % 64 + k)
        let pa := localPa s.curCore lo
        let s := countCorrected s pa
        let s := if two then countCorrected s (pa + 8) else s
        let len := if two then 16 else 8
        let old := rdN s pa len
        let o := ba.toNat % 64
        let v := old - old / 2 ^ o % 2 ^ k * 2 ^ o + (xr s b).toNat % 2 ^ k * 2 ^ o
        let s := wrN s pa len v
        .next (retire (if two ∧ lo + 8 = 0x3FE00 then lbFree s s.curCore 0 else s) w)

/-! ### Vector loads and stores (R203, R204) -/

/-- The first uncorrectable dword of 32 bytes. -/
def vecEcc (s : State) (a : Nat) : Option Nat :=
  [0, 8, 16, 24].findSome? (fun o => if wordErr s (localPa s.curCore (a + o)) = .ecc then some (a + o) else none)

/-- `vld` (R203); at task level it reads no Letterbox tag. -/
def execVld (w : BitVec 3) (d a : BitVec 5) (o : BitVec 11) (s : State) : Host.Outcome State Fault Refusal :=
  let addr := mAddr (xr s a) o 32
  match localGateIf s addr 32 32 true (localAllowed s s.curCore s.curSlot (lvlOf (me s)) addr.toNat 32 true false &&
      (lvlOf (me s) || decide (addr.toNat + 32 ≤ 0x3FE00))) with
  | some s => .next s
  | none =>
    match vecEcc s addr.toNat with
    | some p => .next (eccTrap s p)
    | none =>
      let pa := localPa s.curCore addr.toNat
      let v := rdN s pa 32
      let s := [0, 8, 16, 24].foldl (fun s o => noteRead s (pa + o)) s
      let s := countAldShort s addr.toNat 32
      .next (retire (wv s d 4 (BitVec.ofNat 256 v)) w)

/-- `vst` (R203); at system level one that covers Letterbox tags releases their entries (Table 6-2). -/
def execVst (w : BitVec 3) (v a : BitVec 5) (o : BitVec 11) (s : State) : Host.Outcome State Fault Refusal :=
  let addr := mAddr (xr s a) o 32
  match localGate s addr 32 32 false false with
  | some s => .next s
  | none =>
    if 0x3FE00 ≤ addr.toNat then
      let i := (addr.toNat - 0x3FE00) / 8
      .next (retire ([i, i + 1, i + 2, i + 3].foldl (fun s i => lbFree s s.curCore i) s) w)
    else
      let pa := localPa s.curCore addr.toNat
      let s := [0, 8, 16, 24].foldl (fun s o => freshDword s (pa + o)) s
      .next (retire (wrN s pa 32 (vr s v).toNat) w)

/-! ### Global and remote accesses (R97, R98, R111, R112) -/

/-- The outcome of the checks at issue: an address and home, or the state in which the instruction traps or stalls. -/
inductive Checked where
  | go (s : State) (pa : Nat)
  | stop (s : State)

/-- The checks of R98: alignment, translation, permission; with the waits for the walker, for a full outbound queue, and for an
own-core access the wait for what must be performed before it (R102, R104). -/
def checkGlobal (s : State) (a : W64) (size need chain : Nat) : Checked :=
  if a.toNat % size ≠ 0 then .stop (trapHere s 0x03 0 a)
  else
    let part := if s.curSlot = 4 then partOfCore s s.curCore else partOf s (me s).part
    match xlate s (pkgOfCore s.curCore) s.curCore part a.toNat with
    | (.wait (some c), s) => .stop (stallTo s c)
    | (.wait none, s) => .stop (stallMe s)
    | (.none, s) => .stop (trapHere s 0x04 0 a)
    | (.ok pa perms, s) =>
      if !permits perms need (lvlOf (me s)) then .stop (trapHere s 0x05 0 a)
      else if homeNo (placeOf pa) = s.curCore ∧
          ((chainPred s s.curCore s.curSlot chain).isSome ||
            s.flights.any (fun p => ofSlot s.curCore s.curSlot p && p.2.home == s.curCore && !p.2.performed && !p.2.sent)
            || ownPending s s.curCore s.curSlot) then .stop (stallMe s)
      else if homeNo (placeOf pa) ≠ s.curCore ∧ outboundFull s then .stop (stallMe s)
      else .go s pa

/-- A load (R97): its destination waits for the reply. -/
def loadGlobal (s : State) (w : BitVec 3) (d : BitVec 5) (a : W64) (size chain : Nat) : Host.Outcome State Fault Refusal :=
  match checkGlobal s a size 1 chain with
  | .stop s => .next s
  | .go s pa =>
    let f := { newFlight s .load (homeNo (placeOf pa)) a pa size chain with rd := some d.toNat }
    let (_, s) := issueFlight s f
    .next (retire (awaitX s d.toNat) w)

/-- A store (R97): its value is read at issue. -/
def storeGlobal (s : State) (w : BitVec 3) (b : BitVec 5) (a : W64) (size chain : Nat) : Host.Outcome State Fault Refusal :=
  match checkGlobal s a size 2 chain with
  | .stop s => .next s
  | .go s pa =>
    let f := { newFlight s .store (homeNo (placeOf pa)) a pa size chain with b := xr s b }
    let (_, s) := issueFlight s f
    .next (retire s w)

def execLdgW (w : BitVec 3) (d a : BitVec 5) (c : BitVec 2) (o : BitVec 11) (s : State) :=
  loadGlobal s w d (mAddr (xr s a) o 4) 4 c.toNat
def execLdgD (w : BitVec 3) (d a : BitVec 5) (c : BitVec 2) (o : BitVec 11) (s : State) :=
  loadGlobal s w d (mAddr (xr s a) o 8) 8 c.toNat
def execStgW (w : BitVec 3) (b a : BitVec 5) (c : BitVec 2) (o : BitVec 11) (s : State) :=
  storeGlobal s w b (mAddr (xr s a) o 4) 4 c.toNat
def execStgD (w : BitVec 3) (b a : BitVec 5) (c : BitVec 2) (o : BitVec 11) (s : State) :=
  storeGlobal s w b (mAddr (xr s a) o 8) 8 c.toNat

/-- An atomic of operation code `op` (R111): PROT unless its home is a core's local memory or a slice. -/
def atomic (s : State) (w : BitVec 3) (op : Nat) (d a b : BitVec 5) (c : BitVec 2) (sz : BitVec 1) :
    Host.Outcome State Fault Refusal :=
  let size := if sz = 1 then 8 else 4
  match checkGlobal s (xr s a) size 3 c.toNat with
  | .stop s => .next s
  | .go s pa =>
    let send : Host.Outcome State Fault Refusal :=
      let f := { newFlight s (.amo op) (homeNo (placeOf pa)) (xr s a) pa size c.toNat with
        b := xr s b, c := xr s d, rd := some d.toNat }
      let (_, s) := issueFlight s f
      .next (retire (awaitX s d.toNat) w)
    match placeOf pa with
    | .localMem .. => send
    | .slice .. => send
    | _ => .next (trapHere s 0x05 0 (xr s a))

def execAmoAdd (w : BitVec 3) (d a b : BitVec 5) (c : BitVec 2) (sz : BitVec 1) (s : State) := atomic s w 0 d a b c sz
def execAmoAnd (w : BitVec 3) (d a b : BitVec 5) (c : BitVec 2) (sz : BitVec 1) (s : State) := atomic s w 1 d a b c sz
def execAmoOr (w : BitVec 3) (d a b : BitVec 5) (c : BitVec 2) (sz : BitVec 1) (s : State) := atomic s w 2 d a b c sz
def execAmoXor (w : BitVec 3) (d a b : BitVec 5) (c : BitVec 2) (sz : BitVec 1) (s : State) := atomic s w 3 d a b c sz
def execAmoMin (w : BitVec 3) (d a b : BitVec 5) (c : BitVec 2) (sz : BitVec 1) (s : State) := atomic s w 4 d a b c sz
def execAmoMax (w : BitVec 3) (d a b : BitVec 5) (c : BitVec 2) (sz : BitVec 1) (s : State) := atomic s w 5 d a b c sz
def execAmoMinw (w : BitVec 3) (d a b : BitVec 5) (c : BitVec 2) (sz : BitVec 1) (s : State) := atomic s w 6 d a b c sz
def execAmoMaxw (w : BitVec 3) (d a b : BitVec 5) (c : BitVec 2) (sz : BitVec 1) (s : State) := atomic s w 7 d a b c sz
def execAmoSwap (w : BitVec 3) (d a b : BitVec 5) (c : BitVec 2) (sz : BitVec 1) (s : State) := atomic s w 8 d a b c sz
def execAmoCas (w : BitVec 3) (d a b : BitVec 5) (c : BitVec 2) (sz : BitVec 1) (s : State) := atomic s w 9 d a b c sz

/-- The new value an atomic writes from the old one, or none where it writes nothing (Table 4-7). -/
def amoNew (op size : Nat) (old b c : Nat) : Option Nat :=
  let m := 2 ^ (8 * size)
  let b := b % m
  let c := c % m
  let neg (v : Nat) : Bool := decide (m / 2 ≤ v)
  let less (x y : Nat) : Bool := if neg x == neg y then decide (x < y) else neg x
  if op = 0 then some ((old + b) % m) else if op = 1 then some (Nat.land old b) else if op = 2 then some (Nat.lor old b)
  else if op = 3 then some (Nat.xor old b) else if op = 4 then some (if less b old then b else old)
  else if op = 5 then some (if less old b then b else old) else if op = 6 then some (min old b)
  else if op = 7 then some (max old b) else if op = 8 then some b
  else if old = c then some b else none

/-! ### Active messages (R114 to R116) -/

/-- `amsend` (R98, R115): the body is read at issue as by a local load, and the message goes to its target core. -/
def execAmsend (w : BitVec 3) (a b : BitVec 5) (m : BitVec 4) (n : BitVec 1) (c : BitVec 2) (s : State) :
    Host.Outcome State Fault Refusal :=
  let p := xr s b
  let k := p.toNat
  let t := xr s a
  let home := bits t 0 11
  match localGateIf s p 32 32 true (localAllowed s s.curCore s.curSlot (lvlOf (me s)) k 32 true false &&
      (lvlOf (me s) || !sysOnlyRange s s.curCore k 32)) with
  | some s => .next s
  | none =>
    match vecEcc s k with
    | some p => .next (eccTrap s p)
    | none =>
      if home ≠ s.curCore ∧ outboundFull s then .next (stallMe s)
      else
        let pa := localPa s.curCore k
        let f := { newFlight s .amsend home 0 0 32 c.toNat with
          b := t, body := BitVec.ofNat 256 (rdN s pa 32), cnt := if n = 1 then some m.toNat else none }
        let s := [0, 8, 16, 24].foldl (fun s o => noteRead s (pa + o)) s
        .next (retire (issueFlight (countAldShort s k 32) f).2 w)

end Sys2Proof.Machine
end

