-- ==== Sys2Proof/Machine/System.lean ====
section
/-! DEFINITION. Completion counters, neighbour links, the spill map and `done` (R26, R161 to R163, R169 to R175). -/
namespace Sys2Proof.Machine
open Sys2Proof

/-! ### Completion counters (R161, R162) -/

def ccOf (s : State) (n : Nat) : BitVec 16 := vget 0 (myCore s).cc n

/-- `ccinc` (R162). -/
def execCcinc (w : BitVec 3) (a : BitVec 5) (n : BitVec 4) (s : State) : Host.Outcome State Fault Refusal :=
  .next (retire (raiseCc s s.curCore n.toNat (bits (xr s a) 0 16)) w)
/-- `ccset`: applied before the cycle's increments of the counter (R161, R162). -/
def execCcset (w : BitVec 3) (a : BitVec 5) (n : BitVec 4) (s : State) : Host.Outcome State Fault Refusal :=
  let add := ((myCore s).ccLog.filter (fun p => p.1 == s.now && p.2.1 == n.toNat)).foldl (fun a p => a + p.2.2) 0
  .next (retire (modMyCore s (fun c => { c with cc := vset c.cc n.toNat ((xr s a).setWidth 16 + add) })) w)
/-- `waitlt`: waits while the counter is less than the operand, then delivers recorded faults on it (R162). -/
def execWaitlt (w : BitVec 3) (a : BitVec 5) (n : BitVec 4) (s : State) : Host.Outcome State Fault Refusal :=
  if 2 ^ 15 ≤ (ccOf s n.toNat - (xr s a).setWidth 16).toNat then .next (stallMe s)
  else match deliverRec s (fun r => r.obj == .cc n.toNat || r.alt == some n.toNat) with
    | some s => .next s
    | none => .next (retire s w)

/-! ### Neighbour links (R169 to R171) -/

/-- Whether the instruction at which a slot stalls is an `nput` upwards to a register, with its source value there. -/
def stalledUp (t : Slot) (sl : BitVec 2) (r : BitVec 3) : Bool :=
  (t.st == .run || t.st == .trap) && t.stall.isSome &&
  match t.fbuf.find? (fun p => p.1 == t.pc.toNat) with
  | none => false
  | some (_, w) => match decode w with
    | .ok (.nput _ a d sl' r') => d == 1 && sl' == sl && r' == r && (decide (a.toNat < 24) || t.present.getLsbD (a.toNat - 24)) &&
        !t.pend.any (fun p => p.var && p.file == .x && p.idx == a.toNat)
    | _ => false
/-- Whether an `nput` from below the target's core meets the same register, and goes first (R171). -/
def fromBelow (s : State) (core : Nat) (sl : BitVec 2) (t : BitVec 3) : Bool :=
  posOfCore core != 0 && (List.range 5).any (fun k => stalledUp (getSlot s (core - 1) k) sl t)
/-- `nput` (R171). -/
def execNput (w : BitVec 3) (a : BitVec 5) (d : BitVec 1) (sl : BitVec 2) (t : BitVec 3) (s : State) :
    Host.Outcome State Fault Refusal :=
  let pos := posOfCore s.curCore
  let up := d == 1
  let mod := d.toNat * 128 + sl.toNat * 32 + t.toNat
  let trap := Host.Outcome.next (trapHere s 0x05 0 (BitVec.ofNat 64 mod))
  if (up ∧ pos = 15) ∨ (!up ∧ pos = 0) then trap
  else
    let core := if up then s.curCore + 1 else s.curCore - 1
    let u := getSlot s core sl.toNat
    if u.st = .free then trap
    else if u.present.getLsbD t.toNat ∨ (!up ∧ fromBelow s core sl t) ∨
        s.agenda.any (fun p => p.2.1 == .nputLanding && p.2.2.take 3 == [core, sl.toNat, t.toNat]) then .next (stallMe s)
    else .next (retire (schedule s (s.now + 4) .nputLanding [core, sl.toNat, t.toNat, (xr s a).toNat]) w)
/-- A neighbour value lands: the register is written and its presence bit set (R171). -/
def execNputLanding (s : State) : Host.Outcome State Fault Refusal :=
  .next (modSlot s (arg s 0) (arg s 1) (fun t =>
    t.land false { file := .x, idx := 24 + arg s 2 % 8, val := BitVec.ofNat 256 (arg s 3), due := 0, var := false }))
/-- `nclr` (R170); the handler slot has no presence bits. -/
def execNclr (w : BitVec 3) (t : BitVec 3) (s : State) : Host.Outcome State Fault Refusal :=
  .next (retire (if s.curSlot = 4 then s else
    modMe s (fun u => { u with present := u.present &&& ~~~(BitVec.ofNat 8 (2 ^ t.toNat)) })) w)

/-! ### The spill map (R172 to R175) -/

/-- The first entry, and the number of entries, of a configured descriptor's view (R213, R214). -/
def viewRange (c : W64) : Nat × Nat := (bits c 0 13, (bits c 31 13 + 1) * (bits c 44 8 + 1))
/-- Whether a range of entries meets a configured descriptor of any slot of a core (R155). -/
def allocated (s : State) (core e n : Nat) : Bool :=
  (List.range 4).any (fun k => (getSlot s core k).ac.toList.any (fun d => match d with
    | some c => decide ((viewRange c).1 < e + n) && decide (e < (viewRange c).1 + (viewRange c).2)
    | none => false))
def groupBytes (g : SpillGroup) : Nat := g.vals.length * (if g.isV then 32 else 8)
/-- Places of a spilled group: 1 accumulator entries, 2 the bank of a FREE slot, 3 carve-out, 4 overflow (R174). A group
whose tag is 32 has been freed and its space not yet reclaimed. -/
def spillAt (s : State) (core place : Nat) : List SpillGroup := (getCore s core).spill.filter (fun g => g.place == place)
def overlapsGroup (l : List SpillGroup) (unit e n : Nat) : Bool :=
  l.any (fun g => decide (g.addr < e + n) && decide (e < g.addr + (groupBytes g + unit - 1) / unit))
/-- The lowest run of unallocated entries that holds a group (R174). -/
def roomAcc (s : State) (core n : Nat) : Option Nat :=
  let used := (List.range 4).flatMap (fun k => (getSlot s core k).ac.toList.filterMap (fun d => d.map (fun c => (viewRange c).1 + (viewRange c).2)))
  let starts := 0 :: used ++ (spillAt s core 1).map (fun g => g.addr + (groupBytes g + 15) / 16)
  let good := starts.filter (fun e => decide (e + n ≤ 8192) && !allocated s core e n && !overlapsGroup (spillAt s core 1) 16 e n)
  match good with
  | [] => none
  | e :: r => some (r.foldl min e)
/-- A FREE slot whose bank of 1,280 bytes has room beside the groups it holds (R174). -/
def roomBank (s : State) (core bytes : Nat) : Option Nat :=
  (List.range 4).find? (fun k => (getSlot s core k).st == .free &&
    decide (((spillAt s core 2).filter (fun g => g.addr == k)).foldl (fun a g => a + groupBytes g) 0 + bytes ≤ 1280))
/-- The next free byte of a slot's quarter of the carve-out, if a group fits (R174, R175). -/
def roomCarve (s : State) (core slot bytes : Nat) : Option Nat :=
  let sb := (getCore s core).spillbase
  let base := bits sb 6 12 * 64 + slot * bits sb 18 12 * 16
  let top := ((spillAt s core 3).filter (fun g => g.slot == slot)).foldl (fun a g => max a (g.addr + groupBytes g)) base
  if top + bytes ≤ base + bits sb 18 12 * 16 ∧ top + bytes ≤ 0x3FC00 then some top else none
/-- OVFPTR, if a group fits below OVFEND and every page of it translates for writing (R174, R175). -/
def roomOvf (s : State) (core bytes : Nat) : Option Nat :=
  let p := bits (getCore s core).ovfptr 6 46 * 64
  let fin := bits (getReg s (coreWin core 0x040)) 6 46 * 64
  let ok (va : Nat) : Bool := (xlateUnit s (pkgOfCore core) (partOfCore s core) va 2 true).isSome
  if p + bytes ≤ fin ∧ ok p ∧ ok (p + bytes - 1) then some p else none

/-- The walks that asking for an overflow place makes (R336). -/
def ovfWalks (s : State) (core va bytes : Nat) : State :=
  let go (s : State) (a : Nat) : State := noteWalk s (pkgOfCore core) (partOfCore s core) a
  if bytes = 0 then s else go (go s va) (va + bytes - 1)

def packVals (isV : Bool) : List W256 → Nat
  | [] => 0
  | v :: r => v.toNat + (if isV then 2 ^ 256 else 2 ^ 64) * packVals isV r
/-- Where the dwords of a group stand, in order: entries, the carve-out or translated pages; none in a FREE slot's bank. -/
def groupPas (s : State) (core : Nat) (g : SpillGroup) (need : Nat) : List (Option Nat) :=
  (List.range (groupBytes g / 8)).map (fun i =>
    if g.place = 1 then some (accPa core g.addr + 8 * i) else if g.place = 3 then some (localPa core (g.addr + 8 * i))
    else if g.place = 4 then xlateUnit s (pkgOfCore core) (partOfCore s core) (g.addr + 8 * i) need true else none)
/-- The core's partition has the granules that a group lies in: loaded back, or taken from a halted owner, which the spill claims
(R179). -/
def claimGroup (s : State) (core : Nat) (g : SpillGroup) : State :=
  let n := groupBytes g
  let grans := if g.place = 1 then [accGran g.addr, accGran (g.addr + (n + 15) / 16 - 1)]
    else if g.place = 3 then [localGran g.addr, localGran (g.addr + n - 1)] else []
  grans.foldl (fun s x => claimGranule s core (partOfCore s core) x) s
/-- Writes a group's bytes into the memory of its place. -/
def storeGroup (s : State) (core : Nat) (g : SpillGroup) : State :=
  let v := packVals g.isV g.vals
  let s := claimGroup s core g
  (groupPas s core g 2).zipIdx.foldl (fun s q => match q.1 with
    | some pa => putDword s pa (BitVec.ofNat 64 (v / 2 ^ (64 * q.2)))
    | none => s) s

/-- Places a group in the first of the four places from `first` on that has room (R174). -/
def placeGroup (s : State) (core : Nat) (g : SpillGroup) (first : Nat) : Option State :=
  let n := groupBytes g
  let put (place addr : Nat) : State :=
    let g := { g with place := place, addr := addr }
    let s := storeGroup (if place = 4 then ovfWalks s core addr n else s) core g
    let s := modCore s core (fun c => { c with spill := g :: c.spill })
    if place = 4 then modCore s core (fun c => { c with ovfptr := BitVec.ofNat 64 (addr + (n + 63) / 64 * 64) }) else s
  match (if first = 1 then roomAcc s core ((n + 15) / 16) else none) with
  | some e => some (put 1 e)
  | none => match (if first = 1 then roomBank s core n else none) with
    | some k => some (put 2 k)
    | none => match roomCarve s core g.slot n with
      | some a => some (put 3 a)
      | none => match roomOvf s core n with
        | some a => some (put 4 a)
        | none => none

/-- The bytes of a group as they stand in its place, the dwords of it that cannot be corrected, and what reading it does. -/
def fetchGroup (s : State) (core : Nat) (g : SpillGroup) : List W256 × List Nat × State :=
  let w := if g.isV then 32 else 8
  let s := claimGroup (if g.place = 4 then ovfWalks s core g.addr (groupBytes g) else s) core g
  let pas := groupPas s core g 1
  let v := if g.place = 2 then packVals g.isV g.vals
    else pas.zipIdx.foldl (fun a q => match q.1 with
      | some pa => a + (dwordAt s pa).toNat * 2 ^ (64 * q.2)
      | none => a) 0
  let bad := (pas.zipIdx.filter (fun q => match q.1 with
    | some pa => decide (wordErr s pa = .ecc) || (wordErr s pa).isAttic
    | none => false)).map (·.2)
  ((List.range g.vals.length).map (fun i => BitVec.ofNat 256 (v / 2 ^ (8 * w * i) % 2 ^ (8 * w))), bad,
    pas.foldl (fun s q => match q with
      | some pa => noteRead s pa
      | none => s) s)
/-- Cause and value of the error of dword `i` of a group that is restored: as a local load, as an `mrd`, or as an access by virtual
address. DEDUCED, log entry 70. -/
def groupErr (s : State) (core : Nat) (g : SpillGroup) (i : Nat) : Nat × W64 :=
  if g.place = 3 then (0x06, BitVec.ofNat 64 (g.addr + 8 * i))
  else if g.place = 1 then (0x06, BitVec.ofNat 64 (2 ^ 62 + 16 * (g.addr + i / 2)))
  else match (groupPas s core g 1).getD i none with
    | some pa => (errOf s pa (BitVec.ofNat 64 (g.addr + 8 * i))).getD (0x06, BitVec.ofNat 64 (g.addr + 8 * i))
    | none => (0x06, BitVec.ofNat 64 (g.addr + 8 * i))

/-- Frees a tag of a slot (R173). -/
def freeTag (s : State) (core slot tag : Nat) : State := freeTags s core slot (fun t => t == tag)

/-- The registers of a group of the issuing slot, first to last. -/
def groupRegs (s : State) (isV : Bool) (f n : Nat) : List W256 :=
  (List.range n).map (fun i => if isV then (me s).rv (f + i) else ((me s).rx (f + i)).setWidth 256)
/-- Whether a register of a group has a pending write; a fixed one names the cycle it lands in. -/
def groupPending (s : State) (isV : Bool) (f n : Nat) : List Pend :=
  (me s).pend.filter (fun p => p.file == (if isV then RFile.v else RFile.x) && decide (f ≤ p.idx) && decide (p.idx < f + n))
/-- The slot's next instruction after a stall of `n` cycles (R34). -/
def retireAfter (s : State) (w : BitVec 3) (n : Nat) : State := modMe (retire s w) (fun t => { t with ready := t.ready + n })

/-- `spl` (R173, R174). -/
def execSpl (w : BitVec 3) (g f : BitVec 5) (e : BitVec 1) (c : BitVec 4) (s : State) : Host.Outcome State Fault Refusal :=
  let n := c.toNat + 1
  let isV := e == 1
  let pend := groupPending s isV f.toNat n
  if pend.any (fun p => p.var) then .next (stallMe s)
  else if pend ≠ [] then .next (stallTo s (pend.foldl (fun a p => max a p.due) 0))
  else if !isV ∧ (List.range n).any (fun i => decide (24 ≤ f.toNat + i) && !(me s).present.getLsbD (f.toNat + i - 24)) then
    .next (stallMe s)
  else
    let s' := freeTag s s.curCore s.curSlot g.toNat
    let grp : SpillGroup := { slot := s.curSlot, tag := g.toNat, isV := isV, vals := groupRegs s isV f.toNat n, place := 0, addr := 0 }
    match placeGroup s' s.curCore grp 1 with
    | some s => .next (retireAfter s w (1 + (groupBytes grp + 31) / 32))
    | none => .next (trapHere s 0x05 0 (myCore s).ovfptr)

/-- `fil` (R173); a dword of the group that cannot be corrected traps. -/
def execFil (w : BitVec 3) (g f : BitVec 5) (e : BitVec 1) (c : BitVec 4) (s : State) : Host.Outcome State Fault Refusal :=
  let n := c.toNat + 1
  let isV := e == 1
  match (myCore s).spill.find? (fun x => x.slot == s.curSlot && x.tag == g.toNat && x.isV == isV && x.vals.length == n) with
  | none => .next (trapHere s 0x05 0 (BitVec.ofNat 64 g.toNat))
  | some grp =>
    let pend := groupPending s isV f.toNat n
    if pend.any (fun p => p.var) then .next (stallMe s)
    else if pend ≠ [] then .next (stallTo s (pend.foldl (fun a p => max a p.due) 0))
    else
      match fetchGroup s s.curCore grp with
      | (_, i :: _, s') => .next (trapHere s' (groupErr s s.curCore grp i).1 0 (groupErr s s.curCore grp i).2)
      | (vals, [], s) =>
      let s := (List.range n).foldl (fun s i => modMe s (fun t =>
        t.land false { file := if isV then .v else .x, idx := f.toNat + i, val := vals.getD i 0, due := 0, var := false })) s
      .next (retireAfter (freeTag s s.curCore s.curSlot g.toNat) w (1 + (groupBytes grp + 31) / 32))

/-- Moves the groups that a claim of entries or of a slot's bank displaces to the carve-out or the overflow area; none
where one finds no room (R174). A dword that cannot be corrected stays so. -/
def moveGroups (s : State) (core : Nat) : List SpillGroup → Option State
  | [] => some s
  | g :: r =>
    let (vals, bad, s) := fetchGroup s core g
    let s := modCore s core (fun c => { c with spill := c.spill.erase g })
    if g.tag = 32 then moveGroups s core r
    else match placeGroup s core { g with vals := vals } 3 with
      | some s =>
        let pas := match (getCore s core).spill with
          | h :: _ => groupPas s core h 2
          | [] => []
        moveGroups (bad.foldl (fun s i => match pas.getD i none with
          | some pa => markBad s pa
          | none => s) s) core r
      | none => none
/-- Displaces the groups in a range of entries. -/
def claimEntries (s : State) (core e n : Nat) : Option State :=
  moveGroups s core ((spillAt s core 1).filter (fun g => overlapsGroup [g] 16 e n))
/-- Displaces the groups in the bank of a slot that is to be bound. -/
def claimBank (s : State) (core slot : Nat) : Option State :=
  moveGroups s core ((spillAt s core 2).filter (fun g => g.addr == slot))

/-! ### `done` (R26, R82, R159) -/

/-- The numbers of the slot's engine operations that have not completed. -/
def openOps (s : State) (core slot : Nat) : List Nat :=
  let c := getCore s core
  (c.cq.filter (fun e => e.slot == slot && !e.abandoned)).map (·.op) ++
  (c.mq.filter (fun e => e.slot == slot && !e.abandoned)).map (·.op) ++
  (c.sq.filter (fun e => e.slot == slot && !e.abandoned)).map (·.op) ++
  (match c.gjob with | some j => if j.slot = slot ∧ !j.abandoned then [j.op] else [] | none => []) ++
  ((getCol s (colOfCore core)).aops.filter (fun e => e.core == core && e.slot == slot && !e.abandoned)).map (·.op)

/-- The lowest endpoint on which the slot holds a corridor slot. -/
def heldEndpoint (t : Slot) : Option Nat :=
  (List.range 8).find? (fun n => (t.holdR.find n).isSome || (t.holdP.find n).isSome)

/-- The end of a task whose checks have passed: reported, then the slot is FREE (R26). -/
def retireTask (s : State) : State :=
  let failed := bitOf (me s).status 5
  let s := reportEnd s s.curCore s.curSlot failed (me s).trapcause.toNat (me s).trapval
  let s := if failed then
      match (me s).origin with
      | some (.stage _) => faultLog s (me s).part (pkgOfCore s.curCore) ((me s).trapcause.toNat % 64)
          ((me s).trapcause.toNat / 4096 % 16) s.curCore (me s).trappc (me s).trapval
      | _ => s
    else s
  freeSlot { s with issued := true } s.curCore s.curSlot

/-- `done`: joins the task's engine operations in issue order, checks its corridor holdings, waits as `fence.card`, then
retires (R26); in the handler slot it waits as `fence.card` and leaves the slot idle (R159). -/
def execDone (_w : BitVec 3) (s : State) : Host.Outcome State Fault Refusal :=
  let fin (s : State) (k : State → State) : Host.Outcome State Fault Refusal :=
    if fenceWaits s 5 then .next (stallMe s)
    else match deliverErr s (fun _ => true) with
      | some s => .next s
      | none => .next (k s)
  if s.curSlot = 4 then fin s (fun s => handlerIdle { s with issued := true } s.curCore)
  else
    let open_ := openOps s s.curCore s.curSlot
    match (me s).records.filter (fun r => r.unit != 7) with
    | r :: _ => if open_.any (fun o => decide (o < r.order)) then .next (stallMe s)
      else match deliverRec s (fun r => r.unit != 7) with
        | some s => .next s
        | none => .next s
    | [] =>
      if open_ ≠ [] then .next (stallMe s)
      else match (me s).barFaults with
        | b :: r => .next (trapHere (modMe s (fun t => { t with barFaults := r })) 0x13 0 (BitVec.ofNat 64 b))
        | [] =>
          match heldEndpoint (me s) with
          | some n => .next (trapHere s 0x0D 0 (BitVec.ofNat 64 (n + 0x1F * 256 + 9 * 65536)))
          | none => fin s retireTask

end Sys2Proof.Machine
end

