-- ==== Sys2Proof/Machine/Messages.lean ====
section
/-! DEFINITION. Atomics and active messages at their home, replies, the Letterbox and the handler slot, granules of a halted
partition, trap entry as a hardware step, and the freezing of a slot (R25, R28, R85, R99, R108, R113, R115, R156 to R160,
R179). -/
namespace Sys2Proof.Machine
open Sys2Proof

/-- An access that its home holds comes to its turn again in the next cycle (R101, R103). -/
def holdAtHome (s : State) (id : Nat) (ev : Instr) : State :=
  schedule (modFlight s id (fun f => { f with heldAt := if f.heldAt = 0 then s.now else f.heldAt })) (s.now + 1) ev [id]
/-- Whether an earlier access of the same source to the same home has left and is not performed: the slot's own for a core
or a memory, the core's for a window (R103, R117, R328). -/
def waitsBehind (s : State) (id : Nat) (f : Flight) : Bool :=
  s.flights.any (fun p => p.2.core == f.core && (p.2.slot == f.slot || decide (4352 ≤ f.home)) && decide (p.1 < id) &&
    p.2.home == f.home && p.2.sent && !p.2.performed &&
    (match p.2.kind with | .qrsv => false | .qmark => false | .draughtMark => false | .barWait => false | _ => true))
/-- Whether an atomic of any source that arrived earlier is still to be performed at a home (R101, R113). -/
def amoWaitsBehind (s : State) (f : Flight) : Bool :=
  s.flights.any (fun p => p.2.home % 2048 == f.home % 2048 && p.2.arrived != 0 && decide (p.2.arrived < f.arrived) && !p.2.performed &&
    (match p.2.kind with | .amo _ => true | _ => false))
/-- An access takes its place in the order of arrival, once (R101). -/
def noteArrival (s : State) (id : Nat) (f : Flight) : State :=
  if f.arrived ≠ 0 then s
  else
    let (n, s) := takeId s
    modFlight s id (fun f => { f with arrived := n + 1 })
def perform (s : State) (id : Nat) (v : W64) (err : Option (Nat × Nat × W64)) : State :=
  modFlight s id (fun f => { f with performed := true, result := v, err := err })

/-- Whether a place refuses an access of a task or unit of a partition at a level, sent from a package: a task-level access
to a system-only range, to the Pantry or above ATTCAP, an access to the reserved range, to an offset that does not exist,
to what a halted partition owns, to a core out of service, or to another package that is (R274, R286, R329, R435). -/
def placeRefuses (s : State) (from_ part : Nat) (lvl : Bool) (pa : Nat) : Bool :=
  let pk := pkgOfPlace (placeOf pa)
  (from_ != pk && !(getPkg s pk).inService) ||
  match placeOf pa with
  | .localMem c off =>
    !inSvc s c || decide (0x3FE80 ≤ off) || (!lvl && sysOnly s c off) || decide (touch s c (partOf s part) (localGran off) = .prot)
  | .acc c off => !inSvc s c || decide (touch s c (partOf s part) (accGran (off / 16)) = .prot)
  | .slice c off => !inSvc s c || decide (attcap s c ≤ off) || (!lvl && decide (pantry s c ≤ off))
  | _ => false
/-- Whether the home of an access refuses it. -/
def homeRefuses (s : State) (f : Flight) : Bool := placeRefuses s (pkgOfCore f.core) f.part f.lvl f.pa
/-- The granule an access touches as its partition finds it: loaded back before the access is performed (R179). -/
def homeRestore (s : State) (f : Flight) : State :=
  match placeOf f.pa with
  | .localMem c off => loadGranule s c (localGran off) (partOf s f.part)
  | .acc c off => loadGranule s c (accGran (off / 16)) (partOf s f.part)
  | _ => s

/-- Extends what a home returns: a word is sign-extended (Table 4-3, R111). -/
def extendTo64 (v size : Nat) : W64 := if size = 4 then sextN v 32 else BitVec.ofNat 64 v

/-- The read and the write of an atomic at its home, as one step (R111, R112). -/
def amoReadWrite (s : State) (id : Nat) (f : Flight) : State :=
  match errOf s f.pa f.va with
  | some (cause, v) => replyTo (perform (noteRead s f.pa) id 0 (some (cause, 0, v))) id f .accessReply
  | none =>
    let op := match f.kind with
      | .amo n => n
      | _ => 0
    let old := wordAt s f.pa f.size
    let s := noteRead s f.pa
    let s := match amoNew op f.size old f.b.toNat f.c.toNat, placeOf f.pa with
      | some v, .localMem c off => if 0x3FE00 ≤ off then lbFree s c ((off - 0x3FE00) / 8) else (writeWord s f.pa f.size v).1
      | some v, .slice .. => putDword s (f.pa / 8 * 8) (mergeBytes (dwordAt s f.pa) (f.pa % 8) f.size v)
      | some v, _ => (writeWord s f.pa f.size v).1
      | none, _ => s
    replyTo (perform s id (extendTo64 old f.size) none) id f .accessReply
/-- An atomic at its home: it waits for a running handler and behind earlier ones (R101, R103, R113, R118). -/
def amoAt (s : State) (id : Nat) (f : Flight) : State :=
  if waitsBehind s id f ∨ amoWaitsBehind s f ∨ (getSlot s (f.home % 2048) 4).st ≠ .free then holdAtHome s id .amoStep
  else if homeRefuses s f then replyTo (perform s id 0 (some (0x05, 0, f.va))) id f .accessReply
  else amoReadWrite (homeRestore s f) id f
/-- `amoStep` [access]: an atomic is performed at its home in one step, unless a handler runs there (R111 to R113, R118). -/
def execAmoStep (s : State) : Host.Outcome State Fault Refusal :=
  let id := arg s 0
  match flight? s id with
  | none => .next s
  | some f =>
    let s := noteArrival s id f
    .next (amoAt s id (match flight? s id with | some f => f | none => f))

/-- A reply reaches the core: the destination is written or an error recorded (R99, R106, R112, R329, R350). The error of a load to
x0 belongs to no register that an instruction could read, and is delivered at a fence or `done`: DEDUCED, log entry 71. -/
def takeReply (s : State) (id : Nat) : State :=
  match flight? s id with
  | none => s
  | some f =>
    let s := { s with flights := s.flights.del id }
    let rd := match f.rd with
      | some r => r
      | none => 0
    let here := sameTask s f.core f.slot f.inc
    let s := if !here then s else
      match f.kind with
      | .qrsv => modSlot s f.core f.slot (fun t => if t.request = some id then { t with replied := some f.result } else t)
      | .qmark => modSlot s f.core f.slot (fun t => if t.request = some id then { t with replied := some f.result } else t)
      | .barTry => modSlot s f.core f.slot (fun t => if t.request = some id then { t with replied := some f.result } else t)
      | .barWait => modSlot s f.core f.slot (fun t => if t.request = some id then { t with replied := some f.result } else t)
      | .barArrive => (match f.err with
        | some (_, _, v) => modSlot s f.core f.slot (fun t => { t with barFaults := t.barFaults ++ [v.toNat] })
        | none => s)
      | .barExpect => (match f.err with
        | some (_, _, v) => modSlot s f.core f.slot (fun t => { t with barFaults := t.barFaults ++ [v.toNat] })
        | none => s)
      | _ =>
        match f.err with
        | some (cause, unit, v) =>
          let e : Err :=
            { rd := if rd = 0 then none else some rd, home := fenceHome f, order := id, cause := cause, unit := unit, value := v }
          let s := addErr s f.core f.slot e
          if rd = 0 then s else landX s f.core f.slot rd none
        | none => if rd = 0 then s else landX s f.core f.slot rd (some f.result)
    pushAccesses s f.core f.slot

/-- `accessReply` [access]: a reply or acknowledgement returns to the issuing core (R106). -/
def execAccessReply (s : State) : Host.Outcome State Fault Refusal := .next (takeReply s (arg s 0))

/-! ### The Letterbox (R25, R115, R116, R156, R157) -/

/-- The bounce of a message: MSG_STALE with a status and the target word (Table 4-9). -/
def bounce (s : State) (id : Nat) (f : Flight) (status : Nat) : State :=
  replyTo (perform s id 0 (some (0x0B, 7, BitVec.ofNat 64 (status * 2 ^ 62 + bits f.b 0 30)))) id f .amsendReply

/-- A message's age on acceptance, in units of 4 cycles (R25). -/
def msgAge (s : State) (f : Flight) : Nat :=
  let held := if f.heldAt = 0 then 0 else (s.now - f.heldAt) / 4
  max (min 2049 (f.waitc + held)) ((timeBase s (pkgOfCore f.home) / 4 + 65536 - f.stamp % 65536) % 65536)

/-- Why a message is bounced before it is queued or accepted, if it is: 1 STALE, 2 HALTED, 3 REFUSED (R25, R115). HALTED goes before
STALE: DESIGN CHOICE, log entry 71. -/
def bounceStatus (s : State) (f : Flight) : Option Nat :=
  let core := f.home
  let slot := bits f.b 11 2
  let kind1 := bitOf f.b 13
  if partOfCore s core ≠ partOf s f.part ∨ !inSvc s core ∨ (getPkg s (pkgOfCore core)).st ≠ .running then some 3
  else if haltedPart s (partOfCore s core) then some 2
  else if kind1 then none
  else
    let t := getSlot s core slot
    if haltedPart s (partOf s t.part) then some 2
    else if t.st = .free ∨ t.incarn.toNat ≠ bits f.b 14 8 then some 1 else none

/-- `amsendArrival` [access]: a message reaches its target core, which bounces it or queues it for its Letterbox, behind the
sender's earlier accesses to that core (R103, R115, R117). -/
def execAmsendArrival (s : State) : Host.Outcome State Fault Refusal :=
  let id := arg s 0
  match flight? s id with
  | none => .next s
  | some f =>
    if waitsBehind s id f then .next (holdAtHome s id .amsendArrival)
    else match bounceStatus s f with
    | some st => .next (bounce s id f st)
    | none =>
      let s := modFlight s id (fun f => { f with heldAt := if f.heldAt = 0 then s.now else f.heldAt })
      .next (soon (modCore s f.home (fun c => { c with arrq := c.arrq ++ [id] })) .letterboxAccept [f.home])

/-- The tag dword of an accepted message (Table 6-3). One that a handler sent names incarnation 0 and slot 0, a handler having neither:
DESIGN CHOICE, log entry 71. -/
def tagOf (f : Flight) (seq : Nat) : W64 :=
  let kind1 := bitOf f.b 13
  BitVec.ofNat 64 (2 ^ 63 + b2n kind1 * 2 ^ 62 + (if kind1 then 0 else bits f.b 11 2) * 2 ^ 60 + (if f.slot = 4 then 0 else f.inc.toNat) * 2 ^ 50
    + f.slot % 4 * 2 ^ 48 + f.core * 2 ^ 37 + bits f.b 22 8 * 2 ^ 29 + seq % 16 * 2 ^ 25 + f.stamp % 65536)

/-- Accepts a message into entry `i`: body, tag, SEQ, inbox counter, then it is performed (R156, R157). -/
def acceptMsg (s : State) (core id i : Nat) (f : Flight) : State :=
  let kind1 := bitOf f.b 13
  let tgt := if kind1 then 4 else bits f.b 11 2
  let seq := (vget 0 (getCore s core).seq tgt) + 1
  let tag := tagOf f seq.toNat
  let s := [0, 8, 16, 24].foldl (fun s o => freshDword s (localPa core (0x3FC00 + 32 * i + o))) s
  let s := wrN s (localPa core (0x3FC00 + 32 * i)) 32 f.body.toNat
  let s := putDword s (localPa core (0x3FE00 + 8 * i)) tag
  let s := modCore s core (fun c => { c with
    seq := vset c.seq tgt seq, lb := vset c.lb i { tag := tag, slot := f.slot, target := f.b, cnt := f.cnt, order := id },
    lbOrder := if kind1 then c.lbOrder ++ [i] else c.lbOrder })
  let ctl := getReg s (coreWin core 0x018)
  let s := if !kind1 ∧ bitOf ctl (16 + tgt) then raiseCc s core (bits ctl (4 * tgt) 4) 1 else s
  replyTo (perform s id 0 none) id f .amsendReply

/-- Goes through the arrival queue in order; a message waits behind an earlier one for the same slot (R115, R156, R157). -/
def acceptAll (core : Nat) : List Nat → List Nat → State → State
  | [], _, s => s
  | id :: r, blocked, s =>
    match flight? s id with
    | none => acceptAll core r blocked (modCore s core (fun c => { c with arrq := c.arrq.filter (· != id) }))
    | some f =>
      let kind1 := bitOf f.b 13
      let tgt := if kind1 then 4 else bits f.b 11 2
      let drop (s : State) : State := modCore s core (fun c => { c with arrq := c.arrq.filter (· != id) })
      match bounceStatus s f with
      | some st => acceptAll core r blocked (drop (bounce s id f st))
      | none =>
        if blocked.contains tgt then acceptAll core r blocked s
        else
          let free := ((List.range 16).filter (fun i =>
            (kind1 || decide (4 ≤ i)) && !bitOf (lbEntry s core i).tag 63 && decide ((lbEntry s core i).order ≤ s.now))).head?
          match free with
          | none => acceptAll core r (tgt :: blocked) s
          | some i =>
            if !kind1 ∧ 2048 < msgAge s f then acceptAll core r blocked (drop (bounce s id f 1))
            else acceptAll core r blocked (drop (acceptMsg s core id i f))

/-- `letterboxAccept` [core]: messages held in the arrival queue are accepted as entries are free (R156). -/
def execLetterboxAccept (s : State) : Host.Outcome State Fault Refusal :=
  let core := arg s 0
  .next (soon (acceptAll core (getCore s core).arrq [] s) .handlerStart [core])

/-- `amsendReply` [access]: the reply raises the named counter; a bounce is recorded for the observation of the counter,
or of a fence (R115, R116); a late bounce raises none and is dropped when its sender is gone, as a handler, which holds no incarnation,
always is (R157). -/
def execAmsendReply (s : State) : Host.Outcome State Fault Refusal :=
  let id := arg s 0
  match flight? s id with
  | none => .next s
  | some f =>
    let late := f.size == 1
    let here := sameTask s f.core f.slot f.inc && !(late && f.slot == 4)
    let order := if late then f.seqNo else id
    let del (s : State) : State := { s with flights := s.flights.del id }
    if !here then
      let r := coreWin f.core 0x038
      .next (del (if late then setReg s r (satAdd16 (getReg s r) 0 1) else s))
    else match f.err, f.cnt with
      | some (cause, unit, v), some n =>
        if !recRoom s f.core f.slot then .next (schedule s (s.now + 1) .amsendReply [id])
        else
          let s := addRec s f.core f.slot { obj := .cc n, order := order, cause := cause, unit := unit, value := v, alt := none }
          .next (pushAccesses (del (if late then s else raiseCc s f.core n 1)) f.core f.slot)
      | some (cause, unit, v), none =>
        let e : Err := { rd := none, home := fenceHome f, order := order, cause := cause, unit := unit, value := v }
        .next (pushAccesses (del (addErr s f.core f.slot e)) f.core f.slot)
      | none, some n => .next (pushAccesses (del (raiseCc s f.core n 1)) f.core f.slot)
      | none, none => .next (pushAccesses (del s) f.core f.slot)

/-! ### The handler slot (R151, R158, R160) -/

/-- The image whose tables a core holds, with the stage: the lent stage's if it is lent (R296, R319). -/
def imageOf (s : State) (core : Nat) : Option (Image × Nat) :=
  match (getCore s core).grant with
  | none => none
  | some g =>
    match findPart s g.rcb with
    | none => none
    | some p => match s.images.find p.image with
      | some im => some (im, match g.lent with | some l => l | none => g.stage)
      | none => none

/-- `handlerStart` [core]: an idle handler slot starts the oldest accepted handler message (R158). Where ENTRY names none, HFTAG takes
that message's tag and HFAULT the program counter 0: DESIGN CHOICE, log entry 71. -/
def execHandlerStart (s : State) : Host.Outcome State Fault Refusal :=
  let core := arg s 0
  if (getSlot s core 4).st ≠ .free then .next s
  else match (getCore s core).lbOrder with
    | [] => .next s
    | i :: _ =>
      let tag := (lbEntry s core i).tag
      let pc := match imageOf s core with
        | some (im, st) => (im.stages.getD st ⟨0, [], 0, [], [], [], none, false⟩).handlers[bits tag 29 8]?
        | none => none
      match pc with
      | none =>
        let s := setReg (setReg s (coreWin core 0x020) (BitVec.ofNat 64 (2 ^ 63 + 2 ^ 56))) (coreWin core 0x028) tag
        .next (soon (lbFree s core i) .handlerStart [core])
      | some pc =>
        let stack := match imageOf s core with
          | some (im, _) => if im.stack = 0 then 4096 else im.stack
          | none => 4096
        let s := modCore s core (fun c => { c with lbOrder := c.lbOrder.filter (· != i) })
        .next (modSlot s core 4 (fun t =>
          let x := vset (vset (vset (vset (Vector.replicate 32 (0 : W64)) 2 (BitVec.ofNat 64 (0x38000 - 4 * stack)))
            3 (BitVec.ofNat 64 (0x3FC00 + 32 * i))) 4 tag) 5 (BitVec.ofNat 64 (0x2000 + core))
          { t with
            st := .trap, pc := pc, x := x, v := Vector.replicate 32 0, k := vset (Vector.replicate 8 (0 : W32)) 0 0xFFFFFFFF,
            status := 1, rndmode := 0, flags := 0, waitchk := 0, incarn := t.incarn + 1, part := regionOf s core, pend := [],
            flagDue := 0, errs := [], records := [], fbuf := [], ready := s.now + 2, stall := none, w7 := false, entry := some i,
            hcount := 0, retry := false, request := none, replied := none }))

/-- `handlerLongAbort` [core]: a handler that reaches its 257th instruction is aborted (R160). -/
def execHandlerLongAbort (s : State) : Host.Outcome State Fault Refusal :=
  let core := arg s 0
  if (getSlot s core 4).st = .free ∨ (getSlot s core 4).hcount < 256 then .next s
  else .next (abortHandler s core 0x0C (getSlot s core 4).pc)

/-! ### Trap entry and freezing (R28, R41, R85, R108) -/

/-- `trapEntry` [core, slot, cause, unit, value, pc]: a trap is taken in a slot that holds a task (R85). -/
def execTrapEntry (s : State) : Host.Outcome State Fault Refusal :=
  let t := getSlot s (arg s 0) (arg s 1)
  if t.st = .free ∨ t.st = .frozen then .next s
  else .next { takeTrap s (arg s 0) (arg s 1) (arg s 2) (arg s 3) (argW s 4) (argW s 5) with issued := false }

/-- `draughtInstructionLimit` [core, slot]: 256 instructions after its DRAUGHT trap the slot begins to freeze (R28). -/
def execDraughtInstructionLimit (s : State) : Host.Outcome State Fault Refusal :=
  let t := getSlot s (arg s 0) (arg s 1)
  match t.draught with
  | some n => if 256 ≤ n then
      .next (soon (modSlot s (arg s 0) (arg s 1) (fun t => { t with draught := none, freezing := true })) .slotFreeze [arg s 0, arg s 1])
    else .next s
  | none => .next s

/-- What a freezing slot still waits for: pending writes, accesses, Chimney transfers, neighbour values, messages (R41,
R108, R171, R295). -/
def freezeWaits (s : State) (core slot : Nat) : Bool :=
  let t := getSlot s core slot
  t.pend.any (fun p => p.var || decide (s.now < p.due)) ||
  s.flights.any (fun p => ofSlot core slot p && p.2.size != 1 &&
    (match p.2.kind with | .qrsv => p.2.performed | .qmark => p.2.performed | .barWait => false | .barTry => false | _ => true)) ||
  (getCore s core).chim.any (fun x => x.slot == slot) ||
  s.agenda.any (fun p => p.2.1 == .nputLanding && (p.2.2.head?.getD 0 == core || p.2.2.head?.getD 0 + 1 == core || p.2.2.head?.getD 0 == core + 1))

/-- Requests of a slot's stalled instruction that are not yet granted are withdrawn, and the home forgets them; a `qrsv` or
`qmark` that the home has performed keeps its answer, which its instruction takes when it issues again (R262, R352). -/
def withdraw (s : State) (core slot : Nat) : State :=
  let keep := s.flights.any (fun p => ofSlot core slot p &&
    (match p.2.kind with | .qrsv => p.2.performed | .qmark => p.2.performed | _ => false))
  let s := { s with flights := s.flights.filter (fun p => !(ofSlot core slot p &&
    (match p.2.kind with
      | .qrsv => !p.2.performed
      | .qmark => !p.2.performed
      | .barWait => true
      | .barTry => true
      | _ => false))) }
  let s := modCore s core (fun c => { c with ep := c.ep.map (fun e => e.map (fun e => { e with pops := e.pops.filter (fun p => p.2 != slot) })) })
  modSlot s core slot (fun t =>
    if keep || t.replied.isSome then { t with stall := none } else { t with request := none, replied := none, stall := none })

/-- A core's step clocks stop with the cycles left to their next boundary kept (R246). -/
def freezeClocks (s : State) (core : Nat) : State :=
  if (getCore s core).gfrozen then s
  else modCore s core (fun c => { c with gfrozen := true, gclk := c.gclk.map (fun k => { k with next := k.next - s.now }) })
/-- A core's running step clocks go on with the cycles that were left (R246). -/
def thawClocks (s : State) (core : Nat) : State :=
  let c := getCore s core
  if !c.gfrozen then s
  else
    let s := modCore s core (fun c => { c with gfrozen := false, gclk := c.gclk.map (fun k => { k with next := k.next + s.now }) })
    (getCore s core).gclk.toList.foldl (fun s k => if k.mode = 0 then s else scheduleOnce s k.next .geyserBoundary [core]) s
/-- `slotFreeze` [core, slot]: the slot freezes once everything it started has landed (R28, R41, R108). -/
def execSlotFreeze (s : State) : Host.Outcome State Fault Refusal :=
  let core := arg s 0
  let slot := arg s 1
  let t := getSlot s core slot
  if !t.freezing ∨ t.st = .free ∨ t.st = .frozen then .next s
  else if freezeWaits s core slot then .next (schedule s (s.now + 1) .slotFreeze [core, slot])
  else
    let s := withdraw s core slot
    let s := modSlot s core slot (fun t =>
      let t := t.landDue false s.now
      { t with st := .frozen, froze := t.st, freezing := false, draught := none, fbuf := [] })
    let s := if (List.range 4).all (fun k => (getSlot s core k).st == .free || (getSlot s core k).st == .frozen) then freezeClocks s core else s
    .next (soon s .partitionHalted [partOf s t.part])

/-! ### Granules of a halted partition (R179, R323) -/

/-- `granuleSave` [core, granule]: the granule of a halted partition goes to its frame; the core's partition owns it. -/
def execGranuleSave (s : State) : Host.Outcome State Fault Refusal :=
  .next (saveGranule s (arg s 0) (arg s 1) (partOfCore s (arg s 0)))
/-- `granuleRestore` [core, granule]: the core's partition has the granule loaded back. -/
def execGranuleRestore (s : State) : Host.Outcome State Fault Refusal :=
  .next (loadGranule s (arg s 0) (arg s 1) (partOfCore s (arg s 0)))

end Sys2Proof.Machine
end

