-- ==== Sys2Proof/Machine/Attic.lean ====
section
/-! DEFINITION. The Chimney: `ald` and `ast` with the schedules they are granted, their lines as they land, and scrub
(R275 to R284). -/
namespace Sys2Proof.Machine
open Sys2Proof

/-! ### Schedules (R276, R278, R279) -/

/-- The cycles in which a transfer holds the slice's array. -/
def chimArray (x : Xfer) : List Nat :=
  if x.load then (List.range x.n).map (fun j => x.at0 + 8 + j) else (List.range x.n).map (fun j => x.at0 + 11 + 2 * j)
/-- The cycles in which a transfer holds port B of local memory. -/
def chimPort (x : Xfer) : List Nat :=
  if x.load then (List.range x.n).map (fun j => x.at0 + 16 + j) else (List.range (2 * x.n)).map (fun j => x.at0 + 1 + j)
/-- Whether a queued matrix operation of the core at a position reads SPACE 1, so that it holds the array from its begin until it
has read; a gang's member takes its leader's broadcast in place of its own read (R226). -/
def mSpace1 (pos : Nat) (m : MOp) : Bool :=
  m.kind == .vproj || ((m.kind == .mlds || m.kind == .mstr) && bits (m.sh.getD 0 0) 62 2 == 1 &&
    !(m.kind == .mstr && bitOf m.control 55 && (match m.gang with | some g => g.leader != pos | none => false)))
/-- Whether a cycle lies in the run of a SPACE 1 read that has begun. -/
def inRun (pos : Nat) (m : MOp) (c : Nat) : Bool :=
  match m.begun with
  | some b => mSpace1 pos m && decide (b ≤ c) && decide (c < m.readBy)
  | none => false
/-- Whether a transfer's schedule overlaps none granted before (R276), and, for an `ast`, every SPACE 1 read issued before it has
begun, since it would be written before that read (R280). Log entry 72. -/
def chimFree (pos : Nat) (c : Core) (x : Xfer) : Bool :=
  c.chim.all (fun y => (chimArray x).all (fun k => !(chimArray y).contains k) && (chimPort x).all (fun k => !(chimPort y).contains k))
  && c.mq.all (fun m => (chimArray x).all (fun k => !inRun pos m k) && (x.load || m.begun.isSome || m.abandoned || !mSpace1 pos m))
/-- Whether a run of array cycles from `b` up to `e` is free for a SPACE 1 read (R276), and every earlier `ast` of the core
has been acknowledged (R280). -/
def runFree (pos : Nat) (c : Core) (op b e : Nat) : Bool :=
  c.chim.all (fun y => (chimArray y).all (fun k => !(decide (b ≤ k) && decide (k < e))) && (y.load || decide (op < y.op)))
  && c.mq.all (fun m => (List.range (e - b)).all (fun i => !inRun pos m (b + i)))

/-! ### `ald` and `ast` (R277 to R280) -/

/-- The checks of a Chimney transfer of local lines at `la` and slice lines at `so`, `first` being the address of rs1; the system-only
ranges stop it as R278 gives, at task level (R154). -/
def chimGate (s : State) (first second la so n : W64) : Option State :=
  let t := me s
  let len := 128 * n.toNat
  let cap := attcap s s.curCore
  let pan := pantry s s.curCore
  let localBad := decide (0x40000 < la.toNat + len) || (!lvlOf t && sysOnlyRange s s.curCore la.toNat len)
  let sliceBad := decide (cap < so.toNat + len) || (!lvlOf t && decide (pan < so.toNat + len))
  if first.toNat % 128 ≠ 0 then some (trapHere s 0x03 0 first)
  else if second.toNat % 128 ≠ 0 then some (trapHere s 0x03 0 second)
  else if (if first = la then localBad else sliceBad) then some (trapHere s 0x05 0 first)
  else if (if first = la then sliceBad else localBad) then some (trapHere s 0x05 0 second)
  else
    let part := partOf s t.part
    let grans := (List.range ((la.toNat + len - 1) / 4096 + 1 - la.toNat / 4096)).map (fun i => la.toNat / 4096 + i)
    match grans.find? (fun g => touch s s.curCore part g != .ok) with
    | some g => if touch s s.curCore part g = .prot then some (trapHere s 0x05 0 la)
      else some (soon (stallMe s) .granuleRestore [s.curCore, g])
    | none => none

/-- Grants a transfer its schedule and puts its cycles on the agenda. -/
def grantXfer (s : State) (w : BitVec 3) (x : Xfer) : State :=
  let s := modMyCore s (fun c => { c with chim := c.chim ++ [x] })
  let core := s.curCore
  let s := (List.range x.n).foldl (fun s j =>
    if x.load then
      schedule (schedule s (x.at0 + 8 + j) .aldLineLanding [core, x.op, j, 0]) (x.at0 + 16 + j) .aldLineLanding [core, x.op, j, 1]
    else
      schedule (schedule (schedule s (x.at0 + 1 + 2 * j) .astLineWrite [core, x.op, j, 0])
        (x.at0 + 2 + 2 * j) .astLineWrite [core, x.op, j, 1]) (x.at0 + 11 + 2 * j) .astLineWrite [core, x.op, j, 2]) s
  let s := if x.load then s else schedule s (x.at0 + 10 + 2 * x.n) .astAcknowledgement [core, x.op]
  retire s w

/-- `ald` (R278): stalls until its schedule is free and no overlapping `ast` is unacknowledged (R276). -/
def execAld (w : BitVec 3) (a b : BitVec 5) (n : BitVec 6) (s : State) : Host.Outcome State Fault Refusal :=
  let la := xr s a
  let so := xr s b
  let k := n.toNat + 1
  match chimGate s la so la so (BitVec.ofNat 64 k) with
  | some s => .next s
  | none =>
    let (op, s') := takeId s
    let x : Xfer :=
      { op := op, slot := s.curSlot, load := true, la := la.toNat, so := so.toNat, n := k, at0 := s.now, left := k, halves := [] }
    if !chimFree (posOfCore s.curCore) (myCore s) x ∨ (myCore s).chim.any (fun y => !y.load && decide (y.so < x.so + 128 * k) && decide (x.so < y.so + 128 * y.n)) then
      .next (stallTo s (s.now + 1))
    else .next (grantXfer s' w x)
/-- `ast` (R279). -/
def execAst (w : BitVec 3) (a b : BitVec 5) (n : BitVec 6) (s : State) : Host.Outcome State Fault Refusal :=
  let so := xr s a
  let la := xr s b
  let k := n.toNat + 1
  match (if so = la then chimGate s la so la so (BitVec.ofNat 64 k) else chimGate s so la la so (BitVec.ofNat 64 k)) with
  | some s => .next s
  | none =>
    let (op, s') := takeId s
    let x : Xfer :=
      { op := op, slot := s.curSlot, load := false, la := la.toNat, so := so.toNat, n := k, at0 := s.now, left := k, halves := [] }
    if !chimFree (posOfCore s.curCore) (myCore s) x then .next (stallTo s (s.now + 1)) else .next (grantXfer s' w x)

/-! ### Lines as they move -/

def findXfer (s : State) (core op : Nat) : Option Xfer := (getCore s core).chim.find? (fun x => x.op == op)
def modXfer (s : State) (core op : Nat) (f : Xfer → Xfer) : State :=
  modCore s core (fun c => { c with chim := c.chim.map (fun x => if x.op = op then f x else x) })
def dropXfer (s : State) (core op : Nat) : State :=
  modCore s core (fun c => { c with chim := c.chim.filter (fun x => x.op != op) })

/-- A dword as a Chimney read of a slice finds it: the data, or the value of its ATTIC_DATA. -/
def sliceDword (s : State) (core off : Nat) : W64 × Bool :=
  let pa := slicePa core off
  match wordErr s pa with
  | .attic k => (atticVal k core off, true)
  | _ => (dwordAt s pa, false)

/-- Lands one dword of an `ald` line, unless it is uncorrectable (R278). -/
def landDword (core la : Nat) (h : Nat × W64 × Bool) (s : State) : State :=
  if h.2.2 then s else putDword s (localPa core (la + 8 * h.1)) h.2.1
def landDwords (core la : Nat) : List (Nat × W64 × Bool) → State → State
  | [], s => s
  | h :: r, s => landDwords core la r (landDword core la h s)
/-- Records the errors of a transfer's uncorrectable dwords in order, as far as the slot has room for a record (R163, R279, R283);
what finds none stays with the transfer. The errors of a slot that holds its task no more are dropped. -/
def recordBad (core : Nat) (x : Xfer) : List (Nat × W64 × Bool) → State → State
  | [], s => s
  | h :: r, s =>
    let gone := x.slot = 5 ∨ (getSlot s core x.slot).st = .free
    if !gone && !recRoom s core x.slot then s
    else
      let s := modXfer s core x.op (fun x => { x with halves := x.halves.erase h })
      let s := if gone then s else addRec s core x.slot {
        obj := .issue, order := x.op, cause := if x.load then 0x07 else 0x06, unit := 0,
        value := if x.load then h.2.1 else BitVec.ofNat 64 (x.la + 8 * h.1), alt := none }
      recordBad core x r s
/-- A transfer whose last line has moved is performed once its errors are recorded (R163); till then `ev` comes again. -/
def endXfer (s : State) (core op : Nat) (ev : Instr) (args : List Nat) : State :=
  match findXfer s core op with
  | none => s
  | some x =>
    let s := recordBad core x (x.halves.filter (fun h => h.2.2 && decide (h.1 / 16 < x.n - x.left))) s
    match findXfer s core op with
    | none => s
    | some x =>
      if x.left ≠ 0 then s
      else if x.halves.any (fun h => h.2.2) then schedule s (s.now + 1) ev args
      else pushAccesses (dropXfer s core op) core x.slot

/-- `aldLineLanding` [core, op, line, phase]: phase 0 reads the line at the slice, phase 1 checks it and writes it through
port B, phase 2 goes on recording its errors (R163, R278). -/
def execAldLineLanding (s : State) : Host.Outcome State Fault Refusal :=
  let core := arg s 0
  let op := arg s 1
  let j := arg s 2
  match findXfer s core op with
  | none => .next s
  | some x =>
    if arg s 3 = 0 then
      let ds := (List.range 16).map (fun i => (16 * j + i, sliceDword s core (x.so + 128 * j + 8 * i)))
      .next (modXfer s core op (fun x => { x with halves := x.halves ++ ds }))
    else if arg s 3 = 1 then
      let (mine, rest) := x.halves.partition (fun h => h.1 / 16 == j)
      let s := (List.range 16).foldl (fun s i => noteRead s (slicePa core (x.so + 128 * j + 8 * i))) s
      let s := landDwords core x.la mine s
      let bad (l : List (Nat × W64 × Bool)) := l.filter (fun h => h.2.2)
      let keep := (bad rest).filter (fun h => decide (h.1 / 16 < j)) ++ bad mine ++ rest.filter (fun h => decide (j < h.1 / 16))
      let s := modXfer s core op (fun x => { x with halves := keep, left := x.left - 1 })
      .next (endXfer s core op .aldLineLanding [core, op, j, 2])
    else .next (endXfer s core op .aldLineLanding s.args)

/-- `astLineWrite` [core, op, line, phase]: phases 0 and 1 read the halves of the line through port B, phase 2 writes it at
the slice with new check bits, a bad source dword poisoned (R279). -/
def execAstLineWrite (s : State) : Host.Outcome State Fault Refusal :=
  let core := arg s 0
  let op := arg s 1
  let j := arg s 2
  match findXfer s core op with
  | none => .next s
  | some x =>
    if arg s 3 < 2 then
      let idx := (List.range 8).map (fun i => 16 * j + 8 * arg s 3 + i)
      let ds := idx.map (fun i => (i, rd64 s (localPa core (x.la + 8 * i)), decide (wordErr s (localPa core (x.la + 8 * i)) = .ecc)))
      let s := idx.foldl (fun s i => noteRead s (localPa core (x.la + 8 * i))) s
      .next (modXfer s core op (fun x => { x with halves := x.halves ++ ds }))
    else
      let mine := x.halves.filter (fun h => h.1 / 16 == j)
      let s := mine.foldl (fun s h =>
        let pa := slicePa core (x.so + 8 * h.1)
        if h.2.2 then putPoison s pa h.2.1 else putDword s pa h.2.1) s
      .next (modXfer s core op (fun x => { x with halves := x.halves.filter (fun h => h.1 / 16 != j || h.2.2), left := x.left - 1 }))

/-- `astAcknowledgement` [core, op]: the `ast` is performed; ECC_LOCAL waits for the task's next instruction (R163, R279). -/
def execAstAcknowledgement (s : State) : Host.Outcome State Fault Refusal :=
  let core := arg s 0
  let op := arg s 1
  .next (endXfer (modXfer s core op (fun x => { x with left := 0 })) core op .astAcknowledgement [core, op])

/-- `atticScrub` [core, offset]: the base die's scrub of one dword (R284): corrected in the array and counted, or poisoned
and logged. -/
def execAtticScrub (s : State) : Host.Outcome State Fault Refusal :=
  let core := arg s 0 % 2048
  let off := arg s 1 % 0x1800000 / 8 * 8
  let pa := slicePa core off
  match wordErr s pa with
  | .corrected => .next (putDword (reportAttic s pa) pa (dwordAt s pa))
  | .attic _ => .next (reportAttic s pa)
  | _ => .next s

/-- `localMemoryScrub` [core, address]: the background scrub of one dword of local memory: a correctable one is corrected
and counted in ECCCNT (R94, R153). -/
def execLocalMemoryScrub (s : State) : Host.Outcome State Fault Refusal :=
  .next (countCorrected s (localPa (arg s 0 % 2048) (arg s 1 % 0x40000 / 8 * 8)))

end Sys2Proof.Machine
end

