-- ==== Sys2Proof/Machine/VectorFormats.lean ====
section
/-! DEFINITION. Conversions between the wide formats, and the block-scaled narrow formats of major 0x2A (R139 to R143,
R192 to R197). -/
namespace Sys2Proof.Machine
open Sys2Proof

/-- Whether a conversion rounds stochastically while MODE is 4: float to float, to fewer mantissa bits or a narrower
exponent (R132). -/
def drawsSr (src dst : Nat) : Bool :=
  match fpFmt src, fpFmt dst with
  | some a, some b => decide (b.mb < a.mb) || decide (b.eb < a.eb)
  | _, _ => false
/-- Whether the issuing slot rounds stochastically. -/
def srMode (s : State) : Bool := bits (me s).rndmode 0 3 == 4
/-- The words an instruction draws for `n` elements, if it draws any, and the state after the draw (R133). -/
def drawIf (s : State) (draws : Bool) (n : Nat) : List Nat × State :=
  if draws && srMode s then drawWords s s.curCore n else ([], s)
/-- The rounding of element `i` of an instruction that drew `ws`. -/
def rndOf (s : State) (draws : Bool) (ws : List Nat) (i : Nat) : Rnd :=
  if draws then rndDraw (me s).rndmode (ws.getD i 0) else vecRnd s

/-- `vcvt` (R192): lanes by the wider format; a narrower destination's upper bits are 0. -/
def execVcvt (w : BitVec 3) (d a sc : BitVec 5) (k : BitVec 3) (c : BitVec 5) (s : State) : Host.Outcome State Fault Refusal :=
  let src := sc.toNat
  let dst := c.toNat
  let n := 256 / max (fmtBits src) (fmtBits dst)
  let wd := fmtBits dst
  let draws := drawsSr src dst
  let (ws, s') := drawIf s draws n
  let rs := laneResults s d k wd n (fun i => roundTo dst (rndOf s draws ws i) (decodeNum src (lane (vr s a) (fmtBits src) i)))
  finishVec s s' w d 3 rs (BitVec.ofNat 256 (ofLanes wd (rs.map (·.1))))

/-- emax of a narrow format (Table 7-3). -/
def emax (f : Nat) : Int := if f = 0x06 then 8 else if f = 0x07 then 15 else if f = 0x08 then 4 else 2
/-- Whether a narrow format has no NaN to go to (R141). -/
def nanless (f : Nat) : Bool := f == 0x08 || f == 0x09 || f == 0x0A
def f32Of (v : W256) (i : Nat) : Num := decodeNum 0x0D (lane v 32 i)

/-- The E8M0 scale that `vbhdr` chooses from the greatest magnitude, as FP32 bits (R194). -/
def scaleFor (f am : Nat) : Nat :=
  match decodeNum 0x0D am with
  | .fin _ m e => if m = 0 then 127 else (max 0 (min 254 (expOf m e - emax f + 127))).toNat
  | _ => 254

/-- `vbhdr` (R194): block state and header from one part; parts 1 to 3 continue the state in the destination. -/
def execVbhdr (w : BitVec 3) (d a f : BitVec 5) (k : BitVec 3) (p : BitVec 2) (s : State) : Host.Outcome State Fault Refusal :=
  let old := lane (vr s d) 64 1
  let step (st : Nat × Bool) (i : Nat) : Nat × Bool :=
    if (kr s k).getLsbD i then
      if (f32Of (vr s a) i).isNan then (st.1, true) else (max st.1 (lane (vr s a) 32 i % 2 ^ 31), st.2)
    else st
  let (am, nan) := (List.range 8).foldl step (if p = 0 then (0, false) else (old / 2 ^ 32, old.testBit 8))
  let ef := scaleFor f.toNat am
  let sc := if nan && nanless f.toNat then 0xFF else ef
  let d0 := f.toNat * 2 ^ 25 + 8 * (p.toNat + 1) * 2 ^ 8 + sc
  let d1 := am * 2 ^ 32 + b2n nan * 2 ^ 8 + ef
  .next (retire (wv s d 3 (BitVec.ofNat 256 (ofLanes 64 [d0, d1, 0, 0]))) w)

/-- `vbscale` (R195): part 0 scales into the element range by EF, part 1 back out by the header's scale. -/
def execVbscale (w : BitVec 3) (d a _f : BitVec 5) (k : BitVec 3) (p : BitVec 2) (s : State) : Host.Outcome State Fault Refusal :=
  let ef := lane (vr s a) 64 1 % 256
  let e := lane (vr s a) 64 0 % 256
  vecFlags s w d k 32 8 3 (fun i =>
    let x := f32Of (vr s d) i
    if p = 0 then roundTo 0x0D (vecRnd s) (x.scale (127 - ef))
    else if e = 0xFF then (withSign 0x0D 0x7FC00000 ((lane (vr s d) 32 i).testBit 31), 0)
    else roundTo 0x0D (vecRnd s) (x.scale (e - 127)))

/-- `vpack` (R196): narrows a part of eight into the packed block, and sets its flag for a NaN that has no code. -/
def execVpack (w : BitVec 3) (d a f : BitVec 5) (k : BitVec 3) (p : BitVec 2) (s : State) : Host.Outcome State Fault Refusal :=
  let wd := fmtBits f.toNat
  let draws := drawsSr 0x0D f.toNat
  let (ws, s') := drawIf s draws 8
  let rs := (List.range 8).map (fun i =>
    if (kr s k).getLsbD i then roundTo f.toNat (rndOf s draws ws i) (f32Of (vr s a) i)
    else (packed (vr s d).toNat wd (8 * p.toNat + i), 0))
  let flag := nanless f.toNat && (List.range 8).any (fun i => (kr s k).getLsbD i && (f32Of (vr s a) i).isNan)
  let o := wd * 8 * p.toNat
  let old := (vr s d).toNat
  let v := old - old / 2 ^ o % 2 ^ (8 * wd) * 2 ^ o + ofLanes wd (rs.map (·.1)) * 2 ^ o
  finishVec s s' w d 3 rs (BitVec.ofNat 256 v ||| (if flag then BitVec.ofNat 256 (2 ^ 255) else 0))

/-- `vunpack` (R197): widens a part of eight, with no scale. -/
def execVunpack (w : BitVec 3) (d a f : BitVec 5) (k : BitVec 3) (p : BitVec 2) (s : State) : Host.Outcome State Fault Refusal :=
  let wd := fmtBits f.toNat
  vecPlain s w d k 32 8 3 (fun i =>
    (roundTo 0x0D (vecRnd s) (decodeNum f.toNat (packed (vr s a).toNat wd (8 * p.toNat + i)))).1)

end Sys2Proof.Machine
end

