-- ==== Sys2Proof/Machine/Matrix.lean ====
section
/-! DEFINITION. The matrix unit: operands and their checks, exact sums and promotion, the queue and its order, gangs,
cancellation, and the instructions of major 0x30 with `mrd` (R126, R144, R206 to R232, R248). -/
namespace Sys2Proof.Machine
open Sys2Proof

/-! ### Shape records and elements (R209, R210, R212) -/

/-- The B or A operand of a tile operation: its shape record, format, level and origin. -/
structure Tile where
  sh : List W64
  fmt : W64
  lvl : Bool
  row0 : Nat
  col0 : Nat
  deriving DecidableEq, Repr

def Tile.dw (t : Tile) (i : Nat) : W64 := t.sh.getD i 0
def Tile.space (t : Tile) : Nat := bits (t.dw 0) 62 2
def Tile.base (t : Tile) : Int := bits (t.dw 0) 0 25
def Tile.rstride (t : Tile) : Int := (BitVec.ofNat 32 (bits (t.dw 1) 32 32)).toInt
def Tile.code (t : Tile) : Nat := bits t.fmt 0 4
def Tile.blk (t : Tile) : Bool := bitOf t.fmt 8
def Tile.w (t : Tile) : Nat := fmtBits t.code
def Tile.estride (t : Tile) : Nat := if bits (t.dw 1) 16 16 = 0 then t.w else bits (t.dw 1) 16 16
def Tile.extr (t : Tile) : Nat := bits (t.dw 2) 32 32
def Tile.extc (t : Tile) : Nat := bits (t.dw 2) 0 32
def Tile.rows (t : Tile) : Nat := bits (t.dw 3) 57 7 + 1
def Tile.cols (t : Tile) : Nat := bits (t.dw 3) 50 7 + 1
def Tile.fill (t : Tile) : Nat := bits (t.dw 3) 0 32 % 2 ^ t.w
/-- Whether element (r, c) of the tile lies inside the tensor. -/
def Tile.inside (t : Tile) (r c : Nat) : Bool := decide (t.row0 + r < t.extr) && decide (t.col0 + c < t.extc)
/-- Bits of a block of 32 elements with its header (R212). -/
def Tile.blockBits (t : Tile) : Nat := 64 * (1 + (32 * t.w + 63) / 64)
/-- The bit address of a tile row's start. -/
def Tile.rowBit (t : Tile) (r : Nat) : Int := 8 * t.base + 8 * t.rstride * (t.row0 + r : Nat)
/-- The bit address of an element (R210, R212). -/
def Tile.elemBit (t : Tile) (r c : Nat) : Int :=
  let cc := t.col0 + c
  if t.blk then t.rowBit r + (cc / 32 * t.blockBits + 64 + cc % 32 * t.w : Nat) else t.rowBit r + (t.estride * cc : Nat)
/-- The bit address of an element's block header. -/
def Tile.hdrBit (t : Tile) (r c : Nat) : Int := t.rowBit r + ((t.col0 + c) / 32 * t.blockBits : Nat)
/-- The alignment unit of an element (R210). -/
def alignUnit (w : Nat) : Nat := if w = 4 then 4 else if w = 6 then 2 else w
/-- The places of a tile that lie inside its tensor, in row order. -/
def Tile.places (t : Tile) : List (Nat × Nat) :=
  (List.range t.rows).flatMap (fun r => ((List.range t.cols).filter (t.inside r)).map (fun c => (r, c)))

/-- Whether the matrix unit accepts a format (R207). -/
def mFormat (code : Nat) : Bool := code == 0 || code == 3 || (decide (6 ≤ code) && decide (code ≤ 0x0C)) || code == 0x0E
/-- Whether a format is one of the integer formats (R207). -/
def mInteger (code : Nat) : Bool := code == 0 || code == 3 || code == 0x0E
/-- K-elements per row per cycle (R207). -/
def mRate (a b : Nat) : Nat :=
  let w := max (fmtBits a) (fmtBits b)
  if w = 4 then 64 else if w ≤ 8 then 32 else 16

/-- Whether an engine may read `n` bytes of local memory at a level: below 0x4_0000, and at task level outside the system-only ranges
(R154, R210). -/
def engineLocal (s : State) (core : Nat) (lvl : Bool) (a : Int) (n : Nat) : Bool :=
  decide (0 ≤ a) && decide (a + n ≤ 0x40000) && (lvl || !sysOnlyRange s core a.toNat n)
/-- Whether an engine may read `n` bytes of the core's slice at a level (R210, R274). -/
def engineSlice (s : State) (core : Nat) (lvl : Bool) (a : Int) (n : Nat) : Bool :=
  decide (0 ≤ a) && decide (a + n ≤ 0x1800000) && decide (a + n ≤ attcap s core) && (lvl || decide (a + n ≤ pantry s core))

/-- The checks of a tile before any read, other than format and geometry: reserved fields, SPACE, ESTRIDE with blocks
(ILL); alignment; bounds (R210, R212, R228). The result is a cause and its value. -/
def Tile.check (s : State) (core : Nat) (t : Tile) (word : W32) : Option (Nat × W64) :=
  if 2 ≤ t.space ∨ bits (t.dw 0) 25 37 ≠ 0 ∨ bits (t.dw 1) 0 16 ≠ 0 ∨ bits (t.dw 3) 32 11 ≠ 0 ∨
      (t.blk ∧ bits (t.dw 1) 16 16 ≠ 0) then some (0x01, word.setWidth 64)
  else
    let ps := t.places
    let bad (p : Nat × Nat) : Option (Nat × W64) :=
      if t.blk ∧ t.rowBit p.1 % 64 ≠ 0 then some (0x03, BitVec.ofInt 64 (t.rowBit p.1 / 8))
      else if t.elemBit p.1 p.2 % (alignUnit t.w : Nat) ≠ 0 then some (0x03, BitVec.ofInt 64 (t.elemBit p.1 p.2 / 8)) else none
    let okAt (bit : Int) (w : Nat) : Bool :=
      let n := ((bit % 8).toNat + w + 7) / 8
      if t.space = 0 then engineLocal s core t.lvl (bit / 8) n else engineSlice s core t.lvl (bit / 8) n
    let out (p : Nat × Nat) : Option (Nat × W64) :=
      if t.blk ∧ !okAt (t.hdrBit p.1 p.2) 64 then some (0x05, BitVec.ofInt 64 (t.hdrBit p.1 p.2 / 8))
      else if !okAt (t.elemBit p.1 p.2) t.w then some (0x05, BitVec.ofInt 64 (t.elemBit p.1 p.2 / 8)) else none
    match ps.findSome? bad with
    | some e => some e
    | none => ps.findSome? out

/-- The number of bytes from the lowest byte a tile reads to the highest (R208). -/
def Tile.bytes (t : Tile) : Nat :=
  let spans := t.places.map (fun p =>
    let b := t.elemBit p.1 p.2
    let lo := if t.blk then min b (t.hdrBit p.1 p.2) else b
    (lo / 8, (b + t.w - 1) / 8))
  match spans with
  | [] => 0
  | p :: r => (r.foldl (fun a q => max a q.2) p.2 - r.foldl (fun a q => min a q.1) p.1 + 1).toNat

/-! ### Reading operands -/

/-- What an engine's reads leave: the state after checkers have reported, and the dwords already noted. -/
structure Reading where
  s : State
  seen : List Nat

/-- Reads a dword of local memory (space 0) or of the core's slice (space 1) for an engine, with the cause and value of an
uncorrectable one (R228). -/
def engDword (core space off : Nat) (r : Reading) : Except (Nat × W64) W64 × Reading :=
  let pa := if space = 0 then localPa core off else slicePa core off
  match wordErr r.s pa with
  | .good => (.ok (dwordAt r.s pa), r)
  | e =>
    let d := dwordAt r.s pa
    let r' := if r.seen.contains pa then r else { s := noteRead r.s pa, seen := pa :: r.seen }
    match e with
    | .ecc => (.error (0x06, BitVec.ofNat 64 off), r')
    | .attic k => (.error (0x07, atticVal k core off), r')
    | _ => (.ok d, r')
/-- Reads `w` bits at a bit address. -/
def engBits (core space bit w : Nat) (r : Reading) : Except (Nat × W64) Nat × Reading :=
  match engDword core space (bit / 64 * 8) r with
  | (.error e, r) => (.error e, r)
  | (.ok d, r) =>
    if bit % 64 + w ≤ 64 then (.ok (bits d (bit % 64) w), r)
    else match engDword core space (bit / 64 * 8 + 8) r with
      | (.error e, r) => (.error e, r)
      | (.ok d2, r) => (.ok ((d.toNat + 2 ^ 64 * d2.toNat) / 2 ^ (bit % 64) % 2 ^ w), r)

/-- A burst header that does not fit its block is a read fault (R129, R212). -/
def hdrOk (t : Tile) (c hdr : Nat) : Bool :=
  hdr / 2 ^ 25 == t.code && hdr / 2 ^ 8 % 2 ^ 16 == min 32 (t.extc - (t.col0 + c) / 32 * 32)
/-- Reads element (r, c) of a tile as an exact value with its block scale applied (R142, R210, R212). -/
def Tile.elem (core : Nat) (t : Tile) (word : W32) (r c : Nat) (g : Reading) : Except (Nat × W64) Num × Reading :=
  if !t.inside r c then (.ok (decodeNum t.code t.fill), g)
  else if !t.blk then
    match engBits core t.space (t.elemBit r c).toNat t.w g with
    | (.error e, g) => (.error e, g)
    | (.ok v, g) => (.ok (decodeNum t.code v), g)
  else
    match engBits core t.space (t.hdrBit r c).toNat 64 g with
    | (.error e, g) => (.error e, g)
    | (.ok h, g) =>
      if !hdrOk t c h then (.error (0x01, word.setWidth 64), g)
      else match engBits core t.space (t.elemBit r c).toNat t.w g with
        | (.error e, g) => (.error e, g)
        | (.ok v, g) =>
          let x := decodeNum t.code v
          (.ok (if h % 256 = 0xFF then .nan x.isNeg else x.scale ((h % 256 : Nat) - 127)), g)
/-- Reads the elements of one row from column `c` on. -/
def Tile.rowGo (core : Nat) (t : Tile) (word : W32) (r : Nat) : Nat → Nat → Reading → Except (Nat × W64) (List Num) × Reading
  | 0, _, g => (.ok [], g)
  | n + 1, c, g =>
    match t.elem core word r c g with
    | (.error e, g) => (.error e, g)
    | (.ok x, g) =>
      match t.rowGo core word r n (c + 1) g with
      | (.error e, g) => (.error e, g)
      | (.ok l, g) => (.ok (x :: l), g)
/-- Reads rows from `r` on, up to the one that faults. -/
def Tile.rowsGo (core : Nat) (t : Tile) (word : W32) : Nat → Nat → Reading → List (List Num) × Option (Nat × W64) × Reading
  | 0, _, g => ([], none, g)
  | n + 1, r, g =>
    match t.rowGo core word r t.cols 0 g with
    | (.error e, g) => ([], some e, g)
    | (.ok l, g) =>
      let (ls, e, g) := t.rowsGo core word n (r + 1) g
      (l :: ls, e, g)

/-- The address of tile scale `i` of SCALE_A or SCALE_B, if scales are read (Table 5-5, R126). -/
def scaleAddr (sc : W64) (i : Nat) : Option Nat := if bitOf sc 32 then some (bits sc 2 16 * 4 + 4 * i) else none
/-- The check of a tile scale's address before any read (R219). -/
def scaleBad (s : State) (core : Nat) (lvl : Bool) (a : Nat) : Bool :=
  decide (0x40000 ≤ a) || (!lvl && sysOnlyRange s core a 4)
/-- Reads a tile scale; 1.0 where none is read. -/
def readScale (core : Nat) (sc : W64) (i : Nat) (g : Reading) : Except (Nat × W64) Num × Reading :=
  match scaleAddr sc i with
  | none => (.ok (.fin false 1 0), g)
  | some a =>
    match engBits core 0 (8 * a) 32 g with
    | (.error e, g) => (.error e, g)
    | (.ok v, g) => (.ok (decodeNum 0x0D v), g)
/-- Reads the scales numbered in a list. -/
def readScales (core : Nat) (sc : W64) : List Nat → Reading → Except (Nat × W64) (List Num) × Reading
  | [], g => (.ok [], g)
  | i :: r, g =>
    match readScale core sc i g with
    | (.error e, g) => (.error e, g)
    | (.ok x, g) =>
      match readScales core sc r g with
      | (.error e, g) => (.error e, g)
      | (.ok l, g) => (.ok (x :: l), g)

/-- Loads the granules of local memory that a partition has in its frame and an engine is about to touch (R179). -/
def touchLocal (s : State) (core part a n : Nat) : State :=
  if n = 0 then s else
  (List.range ((a + n - 1) / 4096 + 1 - a / 4096)).foldl (fun s i =>
    if touch s core part (a / 4096 + i) = .restore then loadGranule s core (a / 4096 + i) part else s) s
/-- Loads the groups of accumulator entries, as `touchLocal`. -/
def touchAcc (s : State) (core part e n : Nat) : State :=
  if n = 0 then s else
  (List.range ((e + n - 1) / 256 + 1 - e / 256)).foldl (fun s i =>
    if touch s core part (64 + e / 256 + i) = .restore then loadGranule s core (64 + e / 256 + i) part else s) s

/-! ### The exact sum and its promotion (R144) -/

/-- The sum of products of an entry: whether an operand is a NaN, whether it is invalid, and its exact value. -/
def kSum : List (Num × Num) → Bool × Bool × Num
  | [] => (false, false, .fin false 0 0)
  | (a, b) :: r =>
    let (nan, inv, acc) := kSum r
    if a.isNan || b.isNan then (true, inv, acc)
    else
      let (p, f1) := mulNum a b
      let (t, f2) := addNum 0 p acc
      if f1 + f2 ≠ 0 then (nan, true, .fin false 0 0) else (nan, inv, t)
/-- The promoted value of a sum with its scales, and its flags (R144). -/
def promote (neg : Bool) (k : Bool × Bool × Num) (sA sB : Num) : BitVec 128 × Nat :=
  let (nan, inv, p) := k
  if nan || sA.isNan || sB.isNan then (accNan, 0)
  else if inv then (accNan, fNV)
  else
    let (x, f1) := mulNum (if neg then p.neg else p) sA
    let (y, f2) := mulNum x sB
    if f1 + f2 ≠ 0 then (accNan, fNV) else toAcc y
/-- An exact value as an element times a plane column. -/
def planeCol (p : Plane) (c : Nat) : List Num := (List.range p.kdepth).map (fun k => p.w.getD (k * p.ncols + c) (.fin false 0 0))

/-! ### The queue (R218, R220, R248) -/

def findMOp (s : State) (core op : Nat) : Option MOp := (getCore s core).mq.find? (fun m => m.op == op)
def modMOp (s : State) (core op : Nat) (f : MOp → MOp) : State :=
  modCore s core (fun c => { c with mq := c.mq.map (fun m => if m.op = op then f m else m) })
/-- Lets every queued operation that has not begun try again in a cycle, and the copies that wait for operands (R220,
R230). -/
def kickMatrix (s : State) (core due : Nat) : State :=
  let c := getCore s core
  let s := (c.mq.filter (fun m => m.begun.isNone)).foldl (fun s m => scheduleOnce s due .matrixOpBegin [core, m.op]) s
  (c.cq.filter (fun e => !e.started && e.waitOps != [])).foldl (fun s e => scheduleOnce s due .copyStart [core, e.op]) s

/-- Whether the order of R220 lets an operation begin. -/
def orderFree (s : State) (core : Nat) (m : MOp) : Bool :=
  let prev := (getCore s core).mq.takeWhile (fun x => x.op != m.op)
  prev.all (fun x =>
    match m.kind with
    | .mlds => !(x.kind == .mlds || x.kind == .mswap || x.kind == .vproj)
    | .mstr => !(x.kind == .mswap || x.kind == .vproj) && (x.kind != .mstr || (x.begun.isSome && decide (x.readBy ≤ s.now)))
    | _ => false)
/-- Whether a slot's engines are held by a freeze (R232). -/
def heldByFreeze (s : State) (core slot : Nat) : Bool := (getSlot s core slot).st == .frozen

/-- The origin of an operation's tile, with chain indices added (R224, R225). -/
def originOf (m : MOp) : Nat × Nat := (bits m.origin 32 32, bits m.origin 0 32)
def MOp.tile (m : MOp) : Tile := { sh := m.sh, fmt := m.fmt, lvl := m.lvl, row0 := (originOf m).1, col0 := (originOf m).2 }
def partOfSlot (s : State) (core slot : Nat) : Nat := partOf s (getSlot s core slot).part

/-- Marks an operation begun, with the cycles in which it has read and completes. -/
def beginAs (s : State) (core : Nat) (m : MOp) (readBy completes : Nat) (f : MOp → MOp) : State :=
  let s := modMOp s core m.op (fun x => f { x with begun := some s.now, readBy := readBy, completes := completes })
  let s := schedule s completes .matrixOpComplete [core, m.op]
  kickMatrix s core readBy
/-- When the `mstr` operations issued before one complete, at the latest: they complete in issue order (R248). -/
def mstrsBefore (s : State) (core : Nat) (m : MOp) : Nat :=
  ((getCore s core).mq.takeWhile (fun x => x.op != m.op)).foldl (fun c x => if x.kind = .mstr then max c x.completes else c) 0
/-- Begins an operation that reads and writes nothing; it completes when the environment says, an `mstr` behind those before it. -/
def beginIdle (s : State) (core : Nat) (m : MOp) (f : MOp → MOp) : State :=
  let (d, s) := takeDelay s
  let due := s.now + 1 + d
  beginAs s core m s.now (if m.kind = .mstr then max due (mstrsBefore s core m) else due) f
/-- An operation that a check stops before any read (R228). -/
def beginFault (s : State) (core : Nat) (m : MOp) (e : Nat × W64) : State := beginIdle s core m (fun x => { x with fault := some e })
/-- Posts a tile's bytes to its barrier once the tile has been read (R211). -/
def postTile (s : State) (core due : Nat) (t : Tile) : State :=
  if bitOf (t.dw 3) 49 then
    let (d, s) := takeDelay s
    schedule s (due + d) .barrierDecrement [pkgOfCore core, bits (t.dw 3) 43 6, (t.rows * t.cols * t.w + 7) / 8]
  else s

/-- Begins an `mlds` (R208, R224). -/
def beginMlds (s : State) (core : Nat) (m : MOp) : State :=
  let t := m.tile
  let kb := t.row0 / 128
  let ntiles := max 1 ((t.extc + 127) / 128)
  let tilesOf := (List.range t.cols).map (fun n => kb * ntiles + (t.col0 + n) / 128)
  if 32 < t.cols ∨ 128 < t.row0 % 128 + t.rows ∨ !mFormat t.code then beginFault s core m (0x01, m.word.setWidth 64)
  else match Tile.check s core t m.word with
    | some e => beginFault s core m e
    | none =>
      match (tilesOf.filterMap (scaleAddr m.scale)).find? (scaleBad s core m.lvl) with
      | some a => beginFault s core m (0x05, BitVec.ofNat 64 a)
      | none =>
        let b := t.bytes
        let dur := if t.space = 0 then (b + 63) / 64 else (b + 127) / 128
        if t.space = 1 ∧ !runFree (posOfCore core) (getCore s core) m.op s.now (s.now + dur) then scheduleOnce s (s.now + 1) .matrixOpBegin [core, m.op]
        else
          let s := if t.space = 0 ∧ b ≠ 0 ∨ bitOf m.scale 32 then touchLocal s core (partOfSlot s core m.slot) 0 0x40000 else s
          let (rows, err, g) := Tile.rowsGo core t m.word t.rows 0 { s := s, seen := [] }
          let (sc, g) := readScales core m.scale tilesOf g
          let s := g.s
          let done := s.now + dur + (if t.space = 0 then 8 else 16)
          match err, sc with
          | none, .ok sB =>
            let p : Plane :=
              { valid := true, kdepth := t.rows, ncols := t.cols, kb := kb, col0 := t.col0, fmt := m.fmt, w := rows.flatten, sB := sB }
            beginAs (postTile s core (s.now + dur) t) core m (s.now + dur) done (fun x => { x with plane := p })
          | some e, _ => beginAs s core m (s.now + dur) done (fun x => { x with fault := some e })
          | none, .error e => beginAs s core m (s.now + dur) done (fun x => { x with fault := some e })

/-- What the leader of an `mstr` reads: the tile's geometry, its rows with their scales up to one that faults, and that
fault (R225, R226). -/
structure ABlock where
  rows : Nat
  k : Nat
  col0 : Nat
  code : Nat
  data : List (List Num × Num)
  fault : Option (Nat × W64)

/-- An `mstr`'s own checks before any read, apart from the A tile's: plane, K depth, class, view (R225, R228). -/
def mstrOwn (s : State) (core : Nat) (m : MOp) (rows k col0 code : Nat) : Option (Nat × W64) :=
  let p := (getCore s core).active
  let v := m.view
  let cls := bits v 52 4
  let int := mInteger code && mInteger (bits p.fmt 0 4)
  if !p.valid ∨ k ≠ p.kdepth ∨ 128 < col0 % 128 + k ∨ !mFormat code ∨ (cls = 1 ∧ int) ∨ (cls = 2 ∧ !int) then
    some (0x01, m.word.setWidth 64)
  else if bits v 31 13 + 1 < bits m.control 16 16 + rows ∨ bits v 44 8 + 1 < bits m.control 0 16 + p.ncols then
    some (0x05, BitVec.ofNat 64 (2 ^ 63 + m.desc))
  else none
/-- The geometry of an `mstr`'s A tile. -/
def aShape (m : MOp) : Nat × Nat × Nat × Nat := (m.tile.rows, m.tile.cols, m.tile.col0, m.tile.code)

/-- All the checks of an `mstr` that reads its own A tile, in the order ILL, ALIGN, PROT. -/
def mstrCheck (s : State) (core : Nat) (m : MOp) : Option (Nat × W64) :=
  let t := m.tile
  let own := mstrOwn s core m t.rows t.cols t.col0 t.code
  let scales := ((List.range t.rows).filterMap (fun r => scaleAddr m.scale (t.col0 / 128 * t.rows + r))).find? (scaleBad s core m.lvl)
  match own with
  | some (0x01, v) => some (0x01, v)
  | _ =>
    match Tile.check s core t m.word with
    | some e => some e
    | none => match own with
      | some e => some e
      | none => scales.map (fun a => (0x05, BitVec.ofNat 64 a))

/-- Pairs each row that was read with its scale, up to the first scale that cannot be read. -/
def withScales (core : Nat) (sc : W64) : Nat → List (List Num) → Reading → List (List Num × Num) × Option (Nat × W64) × Reading
  | _, [], g => ([], none, g)
  | i, l :: r, g =>
    match readScale core sc i g with
    | (.error e, g) => ([], some e, g)
    | (.ok x, g) =>
      let (ls, e, g) := withScales core sc (i + 1) r g
      ((l, x) :: ls, e, g)
/-- Reads the A tile of an `mstr` with its row scales. -/
def readA (s : State) (core : Nat) (m : MOp) : ABlock × State :=
  let t := m.tile
  let s := if t.space = 0 ∧ t.places ≠ [] ∨ bitOf m.scale 32 then touchLocal s core (partOfSlot s core m.slot) 0 0x40000 else s
  let (rows, err, g) := Tile.rowsGo core t m.word t.rows 0 { s := s, seen := [] }
  let (data, err2, g) := withScales core m.scale (t.col0 / 128 * t.rows) rows g
  let fault := match err2 with
    | some e => some e
    | none => err
  ({ rows := t.rows, k := t.cols, col0 := t.col0, code := t.code, data := data, fault := fault }, g.s)

/-- Places the cycles in which the rows of an operation are written: no earlier than the row has been read, no later than
completion, in order, and behind the rows of earlier operations; where the manual leaves the cycle open the environment
chooses. Log entry 8. -/
def rowCycles (per begin_ last : Nat) : Nat → Nat → Nat → State → List Nat × State
  | 0, _, _, s => ([], s)
  | n + 1, r, low, s =>
    let (d, s) := takeDelay s
    let c := min last (max low (begin_ + (r + 1) * per + d))
    let (l, s) := rowCycles per begin_ last n (r + 1) c s
    (c :: l, s)

/-- Streams an A block through the active plane of a core for one operation (R225). -/
def streamRows (s : State) (core : Nat) (m : MOp) (a : ABlock) : State :=
  let p := (getCore s core).active
  let per := (a.k + mRate a.code (bits p.fmt 0 4) - 1) / mRate a.code (bits p.fmt 0 4)
  let readBy := s.now + a.rows * per
  let done := readBy + 16
  let (cyc, s) := rowCycles per s.now done a.data.length 0 (mstrsBefore s core m) s
  let cols := (List.range p.ncols).map (planeCol p)
  let entry (r c : Nat) : Nat := bits m.view 0 13 + (bits m.control 16 16 + r) * (bits m.view 44 8 + 1) + bits m.control 0 16 + c
  let row (r : Nat) (d : List Num × Num) : List ((Nat × BitVec 128) × Nat) :=
    (List.range p.ncols).map (fun c =>
      let q := promote m.neg (kSum (d.1.zip (cols.getD c []))) d.2 (p.sB.getD c (.fin false 1 0))
      ((entry r c, q.1), q.2))
  let rows := a.data.zipIdx.map (fun x => row x.2 x.1)
  let due := (rows.zip cyc).map (fun x => (x.2, x.1.length, x.1.foldl (fun f q => Nat.lor f q.2) 0))
  let s := cyc.foldl (fun s c => if c < done then scheduleOnce s c .matrixOpComplete [core, m.op] else s) s
  beginAs s core m readBy done (fun x => { x with writes := rows.flatten.map (·.1), rowsDue := due, fault := a.fault })

/-- A tile operation's A block as a gang's member takes it from its leader. -/
def takeBlock (s : State) (core : Nat) (m : MOp) (a : ABlock) : State :=
  match mstrOwn s core m a.rows a.k a.col0 a.code with
  | some e => beginFault s core m e
  | none => streamRows s core m { a with fault := none }

/-- The cycles for which an `mstr` reads its rows from its begin on (R248). -/
def mstrRun (s : State) (core : Nat) (m : MOp) : Nat :=
  let rate := mRate m.tile.code (bits (getCore s core).active.fmt 0 4)
  m.tile.rows * ((m.tile.cols + rate - 1) / rate)
/-- Whether the array of an `mstr`'s slice is free for its run, where it reads SPACE 1 (R276). -/
def mstrArray (s : State) (core : Nat) (m : MOp) : Bool :=
  m.tile.space != 1 || runFree (posOfCore core) (getCore s core) m.op s.now (s.now + mstrRun s core m)

/-- Whether a gang configuration is that of another's gang. -/
def sameGang (g h : Gang) : Bool := h.mask == g.mask && h.leader == g.leader
/-- The queued ganged operation of a gang's member at a position that pairs with one (R226). -/
def partnerAt (s : State) (col pos : Nat) (g : Gang) (no : Nat) : Option MOp :=
  (getCore s (coreAt col pos)).mq.find? (fun x => x.kind == .mstr && bitOf x.control 55 && x.slot == g.slot && x.gangNo == no &&
    !x.cancelled && x.gang.any (sameGang g))
/-- Whether the ganged operation of a member at a position was cancelled before it began, so that its partners go on without it
(R223). -/
def goneAt (s : State) (col pos : Nat) (g : Gang) (no : Nat) : Bool :=
  (getSlot s (coreAt col pos) g.slot).gang.any (fun h => sameGang g h && h.gone.contains no)
/-- The members of a gang by position. -/
def gangPositions (g : Gang) : List Nat := (List.range 16).filter (fun p => g.mask.getLsbD p)
/-- The queued partners of a ganged operation on the members other than the leader, with their cores. -/
def gangMembers (s : State) (col : Nat) (g : Gang) (no : Nat) : List (Nat × MOp) :=
  (gangPositions g).filterMap (fun p => if p = g.leader then none else (partnerAt s col p g no).map (fun x => (coreAt col p, x)))

/-- Whether every partner of a ganged operation can begin (R226). -/
def gangReady (s : State) (col : Nat) (g : Gang) (no : Nat) : Bool :=
  (gangPositions g).all (fun p => goneAt s col p g no || (match partnerAt s col p g no with
    | some x => x.begun.isNone && orderFree s (coreAt col p) x && !heldByFreeze s (coreAt col p) x.slot
    | none => false))
/-- A gang on the same lane, with a leader of a lower POS, that could begin now: its leader's core and operation (R251). -/
def laneRival (s : State) (col : Nat) (g : Gang) : Option (Nat × Nat) :=
  (List.range g.leader).findSome? (fun p =>
    ((getCore s (coreAt col p)).mq.find? (fun x => x.kind == .mstr && x.begun.isNone && !x.cancelled && bitOf x.control 55 &&
      x.gang.any (fun h => h.leader == p && h.slot == g.slot && gangReady s col h x.gangNo && mstrArray s (coreAt col p) x))).map
        (fun x => (coreAt col p, x.op)))

/-- Begins a ganged operation when every partner can begin too and its lane is free (R226, R251). The members of a leader that was
cancelled, or that a check stops, complete without writing (R223, R228). -/
def beginGang (s : State) (core : Nat) (m : MOp) (g : Gang) : State :=
  let col := colOfCore core
  let free := vget 0 (getCol s col).lanes g.slot
  let lc := coreAt col g.leader
  let drop (s : State) : State := (gangMembers s col g m.gangNo).foldl (fun s x =>
    beginIdle s x.1 x.2 (fun x => { x with cancelled := true })) s
  if goneAt s col g.leader g m.gangNo then beginIdle s core m (fun x => { x with cancelled := true })
  else match gangReady s col g m.gangNo, partnerAt s col g.leader g m.gangNo with
  | true, some l =>
    if s.now < free then scheduleOnce s free .matrixOpBegin [lc, l.op]
    else match laneRival s col g with
      | some (rc, rop) => scheduleOnce (scheduleOnce s s.now .matrixOpBegin [rc, rop]) (s.now + 1) .matrixOpBegin [lc, l.op]
      | none =>
        match mstrCheck s lc l with
        | some e => drop (beginFault s lc l e)
        | none =>
          if !mstrArray s lc l then scheduleOnce s (s.now + 1) .matrixOpBegin [lc, l.op]
          else
            let run := mstrRun s lc l
            let (a, s) := readA s lc l
            let s := if a.fault.isNone then postTile s lc (s.now + run) l.tile else s
            let s := modCol s col (fun c => { c with lanes := vset c.lanes g.slot (s.now + run + 1) })
            let s := streamRows s lc l a
            (gangMembers s col g m.gangNo).foldl (fun s x => takeBlock s x.1 x.2 a) s
  | _, _ => s

/-- Begins an `mstr` (R225, R226). -/
def beginMstr (s : State) (core : Nat) (m : MOp) : State :=
  if bitOf m.control 55 then
    match m.gang with
    | none => beginFault s core m (0x01, m.word.setWidth 64)
    | some g => beginGang s core m g
  else match mstrCheck s core m with
    | some e => beginFault s core m e
    | none =>
      if !mstrArray s core m then scheduleOnce s (s.now + 1) .matrixOpBegin [core, m.op]
      else
        let (a, s) := readA s core m
        let s := if a.fault.isNone then postTile s core (s.now + mstrRun s core m) m.tile else s
        streamRows s core m a

/-- Begins an operation other than `vproj` if its order lets it. -/
def beginMatrix (s : State) (core : Nat) (m : MOp) : State :=
  if m.begun.isSome || !orderFree s core m || heldByFreeze s core m.slot then s
  else match m.kind with
    | .mlds => beginMlds s core m
    | .mstr => beginMstr s core m
    | _ => beginAs s core m s.now (s.now + 1) id

/-! ### Writing rows and completing (R208, R225, R228) -/

/-- Writes the entries of one row; a parity error in an old entry is the operation's fault (R155, R228). -/
def writeEntries (core : Nat) (nacc : Bool) : List (Nat × BitVec 128) → State → State × Nat
  | [], s => (s, 0)
  | (e, p) :: r, s =>
    let old := if nacc then 0 else getAcc s core (e % 8192)
    let (v, fl) := if old = accNan ∨ p = accNan then (accNan, 0) else accAdd old p
    let (s, fl2) := writeEntries core nacc r (putAcc s core (e % 8192) v)
    (s, Nat.lor fl fl2)

/-- Writes the rows of an operation that are due (R225): an abandoned operation's rows may land or not (R23). An invalid promotion
is met with STATUS.FIE as it stands when its row is written (R137, R228). -/
def writeDue (core op : Nat) : Nat → State → State
  | 0, s => s
  | n + 1, s =>
    match findMOp s core op with
    | none => s
    | some m =>
      match m.rowsDue with
      | [] => s
      | (c, k, fl) :: rest =>
        if s.now < c then s
        else
          let mine := m.writes.take k
          let later := m.writes.drop k
          let drop (s : State) : State := modMOp s core op (fun x => { x with writes := [], rowsDue := [] })
          if m.cancelled then drop s
          else
            let (land, s) := if m.abandoned then takeFreeBit s else (true, s)
            if !land then drop s
            else
              let part := partOfSlot s core m.slot
              let s := mine.foldl (fun s w => touchAcc s core part w.1 1) s
              match (if m.nacc then none else mine.find? (fun w => decide (wordErr s (accPa core (w.1 % 8192)) = .ecc))) with
              | some w =>
                let s := noteRead s (accPa core (w.1 % 8192))
                drop (modMOp s core op (fun x => { x with
                  fault := some (0x06, BitVec.ofNat 64 (2 ^ 62 + 16 * w.1)) }))
              | none =>
                let (s, fl2) := writeEntries core m.nacc mine s
                let inv := fl % 2 == 1
                let fie := fieNow s core m.slot
                let fl := Nat.lor (if fie then fl - fl % 2 else fl) fl2
                let s := modMOp s core op (fun x => { x with
                  writes := later, rowsDue := rest, flags := Nat.lor x.flags fl,
                  fault := if x.fault.isNone && inv && fie then some (0x0E, 0) else x.fault })
                writeDue core op n s

/-- Raises an operation's counter, frees its queue entry, and lets the others go on (R218, R248). -/
def freeMOp (s : State) (core : Nat) (m : MOp) (raise : Bool) : State :=
  let s := if raise then raiseCc s core (bits m.control 56 4) 1 else s
  let s := modCore s core (fun c => { c with
    mq := c.mq.filter (fun x => x.op != m.op),
    mqFreed := (s.now, (if c.mqFreed.1 = s.now then c.mqFreed.2 else 0) + 1) })
  let col := colOfCore core
  (List.range 16).foldl (fun s p => kickMatrix s (coreAt col p) s.now) s

/-- Whether an `mstr` must wait for an earlier one of its core that holds its completion (R163, R248). -/
def behindMstr (s : State) (core : Nat) (m : MOp) : Bool :=
  m.kind == .mstr && ((getCore s core).mq.takeWhile (fun x => x.op != m.op)).any (fun x => x.kind == .mstr && x.begun.isSome)
/-- Completes an operation: planes, flags, its fault record, its counter (R208, R224, R228). A faulting `mlds` writes nothing into the
shadow plane and leaves it invalid. -/
def completeMatrix (s : State) (core : Nat) (m : MOp) : State :=
  let live := sameTask s core m.slot m.inc && !m.abandoned
  if (live && m.fault.isSome && !m.cancelled && !recRoom s core m.slot) || behindMstr s core m then
    schedule s (s.now + 1) .matrixOpComplete [core, m.op]
  else
    let (land, s) := if m.abandoned then takeFreeBit s else (true, s)
    let s := match m.kind with
      | .mlds => if land then modCore s core (fun c => { c with
          shadow := if m.fault.isSome then { c.shadow with valid := false } else m.plane }) else s
      | .mswap => modCore s core (fun c => { c with active := c.shadow, shadow := c.active })
      | _ => s
    let s := if live then orFlags s core m.slot m.flags else s
    let s := match m.fault with
      | some (cause, v) =>
        if live && !m.cancelled then addRec s core m.slot
          { obj := if m.raise then .cc (bits m.control 56 4) else .matrix, order := m.op, cause := cause, unit := 1, value := v, alt := none }
        else s
      | none => s
    freeMOp s core m (m.raise && !m.abandoned)

/-! ### The instructions (R216 to R227) -/

/-- Whether the matrix queue is full as an instruction of this cycle finds it (R218, R248). -/
def queueFull (s : State) : Bool :=
  let c := myCore s
  decide (8 ≤ c.mq.length + (if c.mqFreed.1 = s.now then c.mqFreed.2 else 0))

/-- `mwr` (R221). -/
def execMwr (w : BitVec 3) (a : BitVec 5) (n : BitVec 3) (d : BitVec 2) (s : State) : Host.Outcome State Fault Refusal :=
  .next (retire (modMe s (fun t => { t with sh := vset t.sh (4 * n.toNat + d.toNat) (xr s a) })) w)

/-- A queued operation of the issuing slot with what it captures at issue (R218). -/
def capture (s : State) (kind : MKind) (word : W32) (n : Nat) (fmt scale origin control : W64) : MOp :=
  let t := me s
  { op := 0, kind := kind, slot := s.curSlot, inc := t.incarn, word := word, lvl := lvlOf t,
    sh := (List.range 4).map (fun i => vget 0 t.sh (4 * n + i)), fmt := fmt, scale := scale, origin := origin, control := control,
    raise := bitOf control 60 && (!bitOf control 63 || chainLast t (bits control 61 2)), desc := 0, view := 0, neg := false,
    nacc := false, gang := none, gangNo := 0, begun := none, readBy := 0, completes := 0, plane := Plane.empty, writes := [],
    rowsDue := [], fault := none, flags := 0, cancelled := false, abandoned := false }
/-- Puts an operation into the queue; it begins in this cycle if it can, else in one in which an operation before it has read its
rows or completed (R220, R248). -/
def enqueue (s : State) (m : MOp) : State :=
  let (op, s) := takeId s
  let reads := ((myCore s).mq.filter (fun x => x.begun.isSome && decide (s.now < x.readBy))).map (fun x => x.readBy)
  let s := modMyCore s (fun c => { c with mq := c.mq ++ [{ m with op := op }] })
  (s.now :: reads).foldl (fun s due => scheduleOnce s due .matrixOpBegin [s.curCore, op]) s
/-- The index of a level of a chain, 0 where the level is inactive. -/
def activeIndex (t : Slot) (c l : Nat) : Nat := if l < activeDepth t c then (levelIndex (chainLevel t c l)).toNat else 0
/-- An origin word with a chain's indices added: `first` to the row or column that level 0 steps, the other two levels to
the other (R224, R225). -/
def chainOrigin (s : State) (origin control : W64) (level0Row : Bool) : W64 :=
  if bitOf control 63 then
    let t := me s
    let c := bits control 61 2
    let a := activeIndex t c 0
    let b := activeIndex t c 1 + activeIndex t c 2
    let row := (bits origin 32 32 + (if level0Row then a else b)) % 2 ^ 32
    let col := (bits origin 0 32 + (if level0Row then b else a)) % 2 ^ 32
    BitVec.ofNat 64 (row * 2 ^ 32 + col)
  else origin

/-- `mlds` (R218, R224). -/
def execMlds (w : BitVec 3) (a b : BitVec 5) (n : BitVec 3) (s : State) : Host.Outcome State Fault Refusal :=
  if queueFull s then .next (stallTo s (s.now + 1))
  else
    let m := capture s .mlds (encode (.mlds w a b n)) n.toNat (me s).fmtB (me s).scaleB (chainOrigin s (xr s a) (xr s b) true) (xr s b)
    .next (retire (enqueue s m) w)
/-- `mswap` (R218, R224). -/
def execMswap (w : BitVec 3) (s : State) : Host.Outcome State Fault Refusal :=
  if queueFull s then .next (stallTo s (s.now + 1))
  else .next (retire (enqueue s (capture s .mswap (encode (.mswap w)) 0 0 0 0 0)) w)
/-- `mstr` (R218, R219, R225). -/
def execMstr (w : BitVec 3) (a b : BitVec 5) (n d : BitVec 3) (g c : BitVec 1) (s : State) : Host.Outcome State Fault Refusal :=
  match vget none (me s).ac d.toNat with
  | none => .next (trapHere s 0x05 0 (d.setWidth 64))
  | some v =>
    if queueFull s then .next (stallTo s (s.now + 1))
    else
      let t := me s
      let ganged := bitOf (xr s b) 55
      let m := capture s .mstr (encode (.mstr w a b n d g c)) n.toNat t.fmtA t.scaleA (chainOrigin s (xr s a) (xr s b) false) (xr s b)
      let m := { m with
        desc := d.toNat, view := v, neg := g == 1, nacc := c == 1, gang := t.gang,
        gangNo := match t.gang with | some q => q.count | none => 0 }
      let s := enqueue s m
      let s := if ganged then modMe s (fun t => { t with gang := t.gang.map (fun q => { q with count := q.count + 1 }) }) else s
      .next (retire s w)

/-- Whether a descriptor of a slot is in use (R215). -/
def inUse (s : State) (core slot d : Nat) : Bool :=
  (getCore s core).mq.any (fun m => m.kind == .mstr && m.slot == slot && m.desc == d && !m.abandoned)

/-- Ends one cancelled operation: it counts as completed without fault. The partners of a cancelled leader complete without writing,
those it has begun with and those that come to their turn later; a cancelled member's partners go on without it (R223). -/
def cancelOne (s : State) (core : Nat) (m : MOp) : State :=
  let s := match m.gang, bitOf m.control 55 with
    | some g, true =>
      let s := if m.begun.isNone then modSlot s core m.slot (fun t => { t with
          gang := t.gang.map (fun h => if sameGang g h then { h with gone := m.gangNo :: h.gone } else h) }) else s
      if coreAt (colOfCore core) g.leader = core then
        (gangMembers s (colOfCore core) g m.gangNo).foldl (fun s x =>
          if x.2.begun.isSome then modMOp s x.1 x.2.op (fun x => { x with cancelled := true }) else s) s
      else s
    | _, _ => s
  freeMOp s core m (m.raise && !m.abandoned)
/-- Cancel(D): queued and running operations go, every entry of the view is zeroed, the mark is cleared (R223). -/
def cancelDesc (s : State) (core slot d : Nat) (view : W64) : State :=
  let mine := (getCore s core).mq.filter (fun m => m.kind == .mstr && m.slot == slot && m.desc == d && !m.abandoned)
  let s := mine.foldl (fun s m => cancelOne s core m) s
  let (e, n) := viewRange view
  (List.range n).foldl (fun s i => putAcc s core ((e + i) % 8192) 0) s

/-- Saves the granules of halted partitions that a range of entries claims (R179). -/
def claimGranules (s : State) (core part e n : Nat) : State :=
  (List.range ((e + n - 1) / 256 + 1 - e / 256)).foldl (fun s i =>
    let g := 64 + e / 256 + i
    let s := claimGranule s core part g
    modCore s core (fun c => { c with owner := c.owner.ins g part })) s

/-- `macfg` (R222): claims the entries, moving spilled groups and granules of halted partitions out of the way; where a move finds
no room it traps and changes nothing (R84), and the value of that PROT is not stated. Log entry 2. -/
def execMacfg (w : BitVec 3) (a : BitVec 5) (f : BitVec 1) (d : BitVec 3) (s : State) : Host.Outcome State Fault Refusal :=
  let c := xr s a
  let (e, n) := viewRange c
  if inUse s s.curCore s.curSlot d.toNat ∧ f = 0 then .next (trapHere s 0x08 0 (d.setWidth 64))
  else if 2 < bits c 52 4 ∨ 8192 < e + n then .next (trapHere s 0x05 0 c)
  else
    let s' := match vget none (me s).ac d.toNat with
      | some v => if f = 1 then cancelDesc s s.curCore s.curSlot d.toNat v else s
      | none => s
    match claimEntries s' s.curCore e n with
    | none =>
      let (v, s) := takeFree s
      .next (trapHere s 0x05 0 v)
    | some s =>
      let s := claimGranules s s.curCore (partOf s (me s).part) e n
      .next (retire (modMe s (fun t => { t with ac := vset t.ac d.toNat (some c) })) w)
/-- `marel` (R222). -/
def execMarel (w : BitVec 3) (f : BitVec 1) (d : BitVec 3) (s : State) : Host.Outcome State Fault Refusal :=
  if inUse s s.curCore s.curSlot d.toNat ∧ f = 0 then .next (trapHere s 0x08 0 (d.setWidth 64))
  else
    let s := match vget none (me s).ac d.toNat with
      | some v => if f = 1 then cancelDesc s s.curCore s.curSlot d.toNat v else s
      | none => s
    .next (retire (modMe s (fun t => { t with ac := vset t.ac d.toNat none })) w)

/-- `mgang` (R226): waits for the slot's queued ganged operations. -/
def execMgang (w : BitVec 3) (a b : BitVec 5) (s : State) : Host.Outcome State Fault Refusal :=
  let mask := (xr s a).setWidth 16
  let leader := bits (xr s b) 0 4
  if mask ≠ (0 : BitVec 16) ∧ !(mask.getLsbD (posOfCore s.curCore) ∧ mask.getLsbD leader) then .next (trapHere s 0x05 0 (xr s a))
  else if (myCore s).mq.any (fun m => m.slot == s.curSlot && m.kind == .mstr && bitOf m.control 55 && !m.abandoned) then .next (stallMe s)
  else
    let g : Option Gang := if mask = 0 then none else some { mask := mask, leader := leader, slot := bits (xr s b) 4 2, count := 0, gone := [] }
    .next (retire (modMe s (fun t => { t with gang := g })) w)

/-- `mwait` (R227): the join of every matrix operation of the slot. -/
def execMwait (w : BitVec 3) (s : State) : Host.Outcome State Fault Refusal :=
  if (myCore s).mq.any (fun m => m.slot == s.curSlot && m.kind != .vproj && !m.abandoned) then .next (stallMe s)
  else match deliverRec s (fun r => r.unit == 1) with
    | some s => .next s
    | none => .next (retire s w)

/-- The first active lane of an `mrd` whose entry lies outside the view. -/
def mrdOutside (s : State) (k : BitVec 3) (e0 n count : Nat) : Bool :=
  (List.range n).any (fun i => (kr s k).getLsbD i && decide (count ≤ e0 + i))
/-- `mrd` (R146, R229). -/
def execMrd (w : BitVec 3) (v m : BitVec 5) (d k : BitVec 3) (f : BitVec 5) (s : State) : Host.Outcome State Fault Refusal :=
  match vget none (me s).ac d.toNat with
  | none => .next (trapHere s 0x05 0 (d.setWidth 64))
  | some view =>
    let wd := fmtBits f.toNat
    let n := 256 / wd
    let (base, count) := viewRange view
    let e0 := (xr s m).toNat
    if mrdOutside s k e0 n count then .next (trapHere s 0x0F 0 (xr s m))
    else
      let act := (List.range n).filter (fun i => (kr s k).getLsbD i)
      let part := partOf s (me s).part
      match act.find? (fun i => touch s s.curCore part (accGran (base + e0 + i)) == .restore) with
      | some i => .next (soon (stallMe s) .granuleRestore [s.curCore, accGran (base + e0 + i)])
      | none =>
        match act.find? (fun i => decide (wordErr s (accPa s.curCore (base + e0 + i)) = .ecc)) with
        | some i => .next (trapHere (noteRead s (accPa s.curCore (base + e0 + i))) 0x06 0 (BitVec.ofNat 64 (2 ^ 62 + 16 * (base + e0 + i))))
        | none =>
          let draws := (fpFmt f.toNat).isSome
          let (ws, s') := drawIf s draws n
          let rs := laneResults s v k wd n (fun i => accTo f.toNat (rndOf s draws ws i) (getAcc s s.curCore (base + e0 + i)))
          finishVec s s' w v 6 rs (BitVec.ofNat 256 (ofLanes wd (rs.map (·.1))))

end Sys2Proof.Machine
end

