-- ==== Sys2Proof/Machine/Sinter.lean ====
section
/-! DEFINITION. The Sinter: laps over a vocabulary shard, labels, merging, drawing and reading (R354 to R373); and the
begin and completion of the matrix queue's operations, `vproj` among them. -/
namespace Sys2Proof.Machine
open Sys2Proof

/-! ### FP32 arithmetic of the Sinter (R355) -/

def sR : Rnd := { mode := 0, satf := false, draw := 0 }
def f32v (b : W32) : Num := decodeNum 0x0D b.toNat
def f32r (x : Num) : W32 := BitVec.ofNat 32 (roundTo 0x0D sR x).1
def fAdd (a b : W32) : W32 := f32r (addNum 0 (f32v a) (f32v b)).1
def fSub (a b : W32) : W32 := f32r (addNum 0 (f32v a) (f32v b).neg).1
def fMul (a b : W32) : W32 := f32r (mulNum (f32v a) (f32v b)).1
def fDiv (a b : W32) : W32 := f32r (divNum (f32v a) (f32v b)).1
/-- The function `vexp2.f32` computes (R201, R355). -/
def fExp2 (d : W32) : W32 := BitVec.ofNat 32 (approxLane 0x0D 0 sR d.toNat).1
/-- The function `vlog2.f32` computes (R201, R371). -/
def fLog2 (d : W32) : W32 := BitVec.ofNat 32 (approxLane 0x0D 1 sR d.toNat).1
/-- Whether a number is greater than another; false where either is a NaN. -/
def fGt (a b : W32) : Bool := !(f32v a).isNan && !(f32v b).isNan && cmpNum (f32v a) (f32v b) == 1
def fGe (a b : W32) : Bool := !(f32v a).isNan && !(f32v b).isNan && decide (0 ≤ cmpNum (f32v a) (f32v b))
def fNegInf : W32 := 0xFF800000
def fNan (a : W32) : Bool := (f32v a).isNan

/-- Whether a candidate is better than another (R355). -/
def better (a b : W32 × Nat) : Bool := fGt a.1 b.1 || (cmpNum (f32v a.1) (f32v b.1) == 0 && decide (a.2 < b.2))
def heapIns (a : W32 × Nat) : List (W32 × Nat) → List (W32 × Nat)
  | [] => [a]
  | b :: r => if better a b then a :: b :: r else b :: heapIns a r
/-- Adds a finite logit to a normaliser (R359). -/
def normStep (m s x : W32) : W32 × W32 :=
  if fGt x m then (x, fAdd (fMul s (fExp2 (fSub m x))) 0x3F800000) else (m, fAdd s (fExp2 (fSub x m)))
/-- Prefix masses of a list of masses, from none to all (R365). -/
def prefixMass (acc : W32) : List W32 → List W32
  | [] => [acc]
  | e :: r => acc :: prefixMass (fAdd acc e) r
/-- The prefix masses of a state's heap, the first 0, the last its whole mass. -/
def heapMass (t : Sinter) : List W32 := prefixMass 0 (t.heap.map (fun p => fExp2 (fSub p.1 t.m)))
def heapTotal (t : Sinter) : W32 := (heapMass t).getLast?.getD 0

/-- TRAPVAL after HEAP_SPILL (Table 16-8). -/
def spillVal (reason : Nat) (t : Sinter) (mass : W32) : W64 :=
  BitVec.ofNat 64 (reason * 2 ^ 56 + t.heap.length * 2 ^ 48 + mass.toNat)
/-- The status word (Table 16-4). -/
def sinterStatus (t : Sinter) : W64 :=
  BitVec.ofNat 64 (t.nshard * 2 ^ 32 + t.spanC * 2 ^ 24 + t.spanA * 2 ^ 16 + t.heap.length * 2 ^ 8 + b2n t.rpl * 16
    + b2n t.broken * 8 + b2n t.nanseen * 4 + b2n t.complete * 2 + b2n t.valid)

/-! ### The projection descriptor (Table 16-2) -/

/-- The fields of a projection descriptor. -/
structure Proj where
  haddr : Nat
  hfmt : Nat
  wfmt : Nat
  wblk : Bool
  scen : Bool
  invt : W32
  woff : Nat
  wstride : Nat
  saddr : Nat
  h : Nat
  tok0 : Nat
  n : Nat
  shard : Nat
  nshard : Nat
  reserved : Bool
  deriving DecidableEq, Repr

def projOf (d : List W64) : Proj :=
  let d0 := d.getD 0 0
  let d1 := d.getD 1 0
  let d2 := d.getD 2 0
  let d3 := d.getD 3 0
  { haddr := bits d0 46 18, hfmt := bits d0 42 4, wfmt := bits d0 38 4, wblk := bitOf d0 37, scen := bitOf d0 36,
    invt := BitVec.ofNat 32 (bits d0 0 32), woff := bits d1 32 25, wstride := bits d1 0 25, saddr := bits d2 46 18,
    h := bits d2 32 14 + 1, tok0 := bits d2 0 18, n := bits d3 50 14 + 1, shard := bits d3 44 6, nshard := bits d3 38 6,
    reserved := bits d0 32 4 != 0 || bits d1 57 7 != 0 || bits d1 25 7 != 0 || bits d2 18 14 != 0 || bits d3 0 38 != 0 }

/-- Bytes of one weight row (R127, R212). -/
def rowBytes (p : Proj) : Nat :=
  let w := fmtBits p.wfmt
  if p.wblk then p.h / 32 * (8 * (1 + (32 * w + 63) / 64)) + (if p.h % 32 = 0 then 0 else 8 + (p.h % 32 * w + 63) / 64 * 8)
  else (p.h * w + 7) / 8
/-- The cycles of a projection's stream (R359). -/
def projCycles (p : Proj) : Nat :=
  max ((p.n + 31) / 32 * ((p.h + mRate p.hfmt p.wfmt - 1) / mRate p.hfmt p.wfmt)) ((p.n * p.wstride + 127) / 128)
def projNkb (p : Proj) : Nat := (p.h + 127) / 128
def projTiles (p : Proj) : Nat := (p.n + 127) / 128
/-- The weight rows as a tile of the core's slice (R356). -/
def projTile (p : Proj) (lvl : Bool) : Tile :=
  { sh := [BitVec.ofNat 64 (2 ^ 62 + p.woff), BitVec.ofNat 64 (p.wstride * 2 ^ 32), BitVec.ofNat 64 (p.n * 2 ^ 32 + p.h), 0],
    fmt := BitVec.ofNat 64 (p.wfmt + (if p.wblk then 256 else 0)), lvl := lvl, row0 := 0, col0 := 0 }

/-- The checks of a projection before its first row (R363): ILL, then ALIGN, then PROT. -/
def projCheck (s : State) (core : Nat) (lvl readsHidden : Bool) (addr : W64) (p : Proj) : Option (Nat × W64) :=
  let w := fmtBits p.wfmt
  let badInvt := match f32v p.invt with
    | .fin n m e => n || m == 0 || magLt 1 16 m e
    | _ => true
  if p.reserved || !(p.hfmt == 6 || p.hfmt == 7 || p.hfmt == 0x0B || p.hfmt == 0x0C) || !mFormat p.wfmt || badInvt ||
      decide (262144 < p.tok0 + p.n) || decide (p.nshard < p.shard) || p.wstride % 8 != 0 || decide (p.wstride < rowBytes p) then
    some (0x01, addr)
  else if readsHidden ∧ 8 * p.haddr % fmtBits p.hfmt ≠ 0 then some (0x03, BitVec.ofNat 64 p.haddr)
  else if (p.wblk ∧ p.woff % 8 ≠ 0) ∨ 8 * p.woff % alignUnit w ≠ 0 then some (0x03, BitVec.ofNat 64 p.woff)
  else if p.scen ∧ p.saddr % 4 ≠ 0 then some (0x03, BitVec.ofNat 64 p.saddr)
  else
    let hw := fmtBits p.hfmt / 8
    match (if readsHidden then (List.range p.h).find? (fun i => !engineLocal s core lvl (p.haddr + hw * i : Nat) hw) else none) with
    | some i => some (0x05, BitVec.ofNat 64 (p.haddr + hw * i))
    | none =>
      match (List.range p.n).find? (fun t => !engineSlice s core lvl (p.woff + t * p.wstride : Nat) (rowBytes p)) with
      | some t =>
        let a := p.woff + t * p.wstride
        let lim := if lvl then attcap s core else min (attcap s core) (pantry s core)
        some (0x05, BitVec.ofNat 64 (max a lim))
      | none =>
        if p.scen then
          ((List.range (projNkb p + projNkb p * projTiles p)).find? (fun i => scaleBad s core lvl (p.saddr + 4 * i))).map
            (fun i => (0x05, BitVec.ofNat 64 (p.saddr + 4 * i)))
        else none

/-- Reads the hidden vector from local memory. -/
def readHidden (core : Nat) (p : Proj) : Nat → Nat → Reading → Except (Nat × W64) (List Num) × Reading
  | 0, _, g => (.ok [], g)
  | n + 1, i, g =>
    match engBits core 0 (8 * p.haddr + fmtBits p.hfmt * i) (fmtBits p.hfmt) g with
    | (.error e, g) => (.error e, g)
    | (.ok v, g) =>
      match readHidden core p n (i + 1) g with
      | (.error e, g) => (.error e, g)
      | (.ok l, g) => (.ok (decodeNum p.hfmt v :: l), g)

/-- The scales of a projection: hidden by K-block, then weight by K-block and tile; 1.0 where none are read. -/
def projScales (core : Nat) (p : Proj) (g : Reading) : Except (Nat × W64) (List Num) × Reading :=
  let sc : W64 := if p.scen then BitVec.ofNat 64 (2 ^ 32 + p.saddr) else 0
  readScales core sc (List.range (projNkb p + projNkb p * projTiles p)) g

/-- The accumulator value of one row: K-blocks promoted and added in order (R359). -/
def rowAcc (p : Proj) (scales hid row : List Num) (t : Nat) : Nat → Nat → BitVec 128 × Nat → BitVec 128 × Nat
  | 0, _, a => a
  | n + 1, kb, (acc, fl) =>
    let one : Num := .fin false 1 0
    let q := promote false (kSum (((hid.drop (128 * kb)).take 128).zip ((row.drop (128 * kb)).take 128)))
      (scales.getD kb one) (scales.getD (projNkb p + kb * projTiles p + t / 128) one)
    let r := accAdd acc q.1
    rowAcc p scales hid row t n (kb + 1) (r.1, Nat.lor fl (Nat.lor q.2 r.2))
/-- The logit of an accumulator value (R359). -/
def logitOf (p : Proj) (acc : BitVec 128) : W32 :=
  if acc = accNan then 0x7FC00000 else f32r (mulNum (accNum acc) (f32v p.invt)).1
/-- A logit with the biases of every label set on its token, and whether one is. -/
def biased (tok : Nat) : List Label → W32 → W32 × Bool
  | [], x => (x, false)
  | l :: r, x => if l.lv && l.tok == tok then ((biased tok r (fAdd x l.bias)).1, true) else biased tok r x

/-- The logits of a projection in token order, up to a row that faults: each with whether a label captures it; the
flags; and the fault. -/
def logitsGo (core : Nat) (p : Proj) (t : Tile) (addr : W64) (scales hid : List Num) (labels : List Label) :
    Nat → Nat → Reading → List (W32 × Bool) × Nat × Option (Nat × W64) × Reading
  | 0, _, g => ([], 0, none, g)
  | n + 1, r, g =>
    match t.rowGo core (addr.setWidth 32) r p.h 0 g with
    | (.error e, g) => ([], 0, some (if e.1 = 0x01 then (0x01, addr) else e), g)
    | (.ok row, g) =>
      let (acc, fl) := rowAcc p scales hid row r (projNkb p) 0 (0, 0)
      let x := biased (p.tok0 + r) labels (logitOf p acc)
      let (xs, f2, e, g) := logitsGo core p t addr scales hid labels n (r + 1) g
      (x :: xs, Nat.lor fl f2, e, g)
/-- The flags of a lap: those of its promotions, and NV where a logit is a NaN (R144, R359). -/
def lapFlags (xs : List (W32 × Bool)) (fl : Nat) : Nat := Nat.lor fl (if xs.any (fun x => fNan x.1) then fNV else 0)

/-! ### Laps (R359, R368, R369) -/

/-- A state with the logits of a lap 1 applied from token `tok` on, and whether the heap still holds every finite logit
(R359). -/
def applyLogits : List (W32 × Bool) → Nat → Bool → Sinter → Sinter × Bool
  | [], _, all, t => (t, all)
  | (x, captured) :: r, tok, all, t =>
    let t := if captured then { t with labels := t.labels.map (fun l => if l.lv && l.tok == tok then { l with logit := x, v := true } else l) }
      else t
    if fNan x then applyLogits r (tok + 1) all { t with nanseen := true }
    else if x = fNegInf then applyLogits r (tok + 1) all t
    else
      let h := heapIns (x, tok) t.heap
      let (m, s) := normStep t.m t.s x
      applyLogits r (tok + 1) (all && decide (h.length ≤ 64)) { t with heap := h.take 64, m := m, s := s }
/-- The cleared start of a lap 1 without KEEP (R359). -/
def lapStart (p : Proj) (t : Sinter) : Sinter :=
  { t with heap := [], m := fNegInf, s := 0, valid := false, complete := false, nanseen := false, broken := false, rpl := false,
           drawnV := false, spanA := p.shard, spanC := 1, nshard := p.nshard, shards := [],
           labels := t.labels.map (fun l => { l with v := false }) }
/-- The end of a lap 1: the shard table and the status (R359). -/
def lapEnd (p : Proj) (keep rq all : Bool) (t : Sinter) : Sinter :=
  let i := p.shard - t.spanA
  let sh := if i < t.shards.length then t.shards.set i (t.m, t.s) else t.shards ++ [(t.m, t.s)]
  { t with shards := sh, valid := true, rpl := !keep && rq, complete := all }

/-- The normaliser of a list of logits. -/
def normOf : List (W32 × Bool) → W32 × W32 → W32 × W32
  | [], a => a
  | (x, _) :: r, (m, s) => normOf r (if fNan x || x == fNegInf then (m, s) else normStep m s x)
/-- The token the loop of a lap 2 draws, and else the last token of a finite logit (R368). -/
def drawLap2 (m limit : W32) : List (W32 × Bool) → Nat → W32 → Option Nat → Option Nat × Option Nat
  | [], _, _, last => (none, last)
  | (x, _) :: r, tok, cum, last =>
    if fNan x || x == fNegInf || (f32v x).isInf then drawLap2 m limit r (tok + 1) cum last
    else
      let cum := fAdd cum (fExp2 (fSub x m))
      if fGt cum limit then (some tok, none) else drawLap2 m limit r (tok + 1) cum (some tok)
/-- DRAWN after a lap 2 of KIND 0: the loop's token stands under every fault, the last finite one under reason 2, and
0x3_FFFF is set only where nothing faulted (R368). -/
def drawnAfter (t : Sinter) (d : Option Nat × Option Nat) (streamed same : Bool) : Sinter :=
  match d with
  | (some v, _) => { t with drawn := v, drawnV := true }
  | (none, some v) => if streamed then { t with drawn := v, drawnV := true } else { t with drawnV := false }
  | (none, none) => if streamed && same then { t with drawn := 0x3FFFF, drawnV := true } else { t with drawnV := false }
/-- The gradient of a logit (R369). -/
def gradOf (lse x : W32) (hit : Bool) : W32 :=
  if fNan x then 0x7FC00000
  else
    let g := if x = fNegInf then (0 : W32) else fExp2 (fSub x lse)
    if hit then fSub g 0x3F800000 else g

def findSOp (s : State) (core op : Nat) : Option SOp := (getCore s core).sq.find? (fun o => o.op == op)
def modSOp (s : State) (core op : Nat) (f : SOp → SOp) : State :=
  modCore s core (fun c => { c with sq := c.sq.map (fun o => if o.op = op then f o else o) })

/-- Marks a `vproj` begun, in the Sinter's queue and in the matrix queue, with its results and its completion. -/
def vprojBegun (s : State) (core : Nat) (o : SOp) (readBy done : Nat) (f : SOp → SOp) : State :=
  let s := modSOp s core o.op (fun x => f { x with begun := true })
  let s := modMOp s core o.op (fun m => { m with begun := some s.now, readBy := readBy, completes := done })
  schedule s done .vprojComplete [core, o.op]
/-- The cycles in which the gradients of a projection are written, 32 at a time as they are generated (R369). How the stream's
cycles divide over them is the model's: DESIGN CHOICE, log entry 73. -/
def gradCycles (p : Proj) (now : Nat) : List Nat :=
  let n := (p.n + 31) / 32
  (List.range (n - 1)).map (fun i => now + 24 + (i + 1) * projCycles p / n)

/-- Begins a lap over the rows of `p`: reads everything, and keeps what the operation leaves for its completion. -/
def beginLap (s : State) (core : Nat) (o : SOp) (p : Proj) (hidden : Option (List Num)) (labels : List Label) : State :=
  let fault24 (s : State) (e : Nat × W64) : State := vprojBegun s core o s.now (s.now + 24) (fun x => { x with failed := some e })
  let part := partOfSlot s core o.slot
  let kind1 := o.lap2 && bitOf o.arg 31
  let ga := bits o.arg 14 16 * 4
  match projCheck s core o.lvl (hidden.isNone || !o.lap2) o.addr p with
  | some e => fault24 s e
  | none =>
    if kind1 ∧ !engineLocal s core o.lvl ga (4 * p.n) then fault24 s (0x05, BitVec.ofNat 64 ga)
    else if !runFree (posOfCore core) (getCore s core) o.op s.now (s.now + projCycles p) then scheduleOnce s (s.now + 1) .matrixOpBegin [core, o.op]
    else
      let s := touchLocal s core part 0 0x40000
      let g0 : Reading := { s := s, seen := [] }
      let hg : Except (Nat × W64) (List Num) × Reading := match o.failed, hidden with
        | some e, _ => (.error e, g0)
        | none, some h => (.ok h, g0)
        | none, none => readHidden core p p.h 0 g0
      let (hid, g) := hg
      let (sc, g) := projScales core p g
      let early : Option (Nat × W64) := match hid, sc with
        | .error e, _ => some e
        | _, .error e => some e
        | _, _ => none
      match early with
      | some e => fault24 g.s e
      | none =>
        let (xs, fl, err, g) := logitsGo core p (projTile p o.lvl) o.addr (sc.toOption.getD []) (hid.toOption.getD []) labels p.n 0 g
        let s := g.s
        let t := (getCore s core).sint
        let stop := fieNow s core o.slot && fl % 2 == 1
        let fl := if stop then fl - 1 else lapFlags xs fl
        let invalid : Option (Nat × W64) := if stop then some (0x0E, 0) else none
        let readBy := s.now + projCycles p
        let (done, s) := match err with
          | none => (readBy + 24, s)
          | some _ =>
            let (d, s) := takeDelay s
            (s.now + 1 + d, s)
        if !o.lap2 then
          let (t1, all) := applyLogits xs p.tok0 (!o.keep || t.complete) (if o.keep then t else lapStart p t)
          let t2 := if err.isNone then lapEnd p o.keep o.rq all t1 else t1
          vprojBegun s core o readBy done (fun x => { x with answer := some t2, flags := fl, failed := err.orElse (fun _ => invalid) })
        else
          let same := normOf xs (fNegInf, 0) = t.shards.getD 0 (fNegInf, 0)
          let grads := if kind1 then xs.zipIdx.map (fun q => (ga + 4 * q.2, gradOf (BitVec.ofNat 32 (bits o.arg 32 32)) q.1.1
            (bitOf o.arg 30 && q.2 == bits o.arg 0 14))) else []
          let fault := err.orElse (fun _ => invalid.orElse (fun _ => if same then none else some (0x0A, spillVal 2 t (heapTotal t))))
          let draws := drawLap2 t.m (fMul (BitVec.ofNat 32 (bits o.arg 32 32)) t.s) xs p.tok0 0 none
          let t2 := if kind1 then t else drawnAfter t draws err.isNone same
          let s := if kind1 then
              ((gradCycles p s.now).filter (fun c => decide (c < done))).foldl (fun s c => schedule s c .vprojComplete [core, o.op, 1]) s
            else s
          vprojBegun s core o readBy done (fun x => { x with answer := some t2, flags := fl, failed := fault, grads := grads })

/-- Begins a `vproj` at the head of the Sinter's queue once every earlier matrix operation has completed (R358, R368). -/
def beginVproj (s : State) (core : Nat) (o : SOp) : State :=
  let t := (getCore s core).sint
  if !o.lap2 then
    beginLap s core o (projOf o.desc) (if o.rq then o.rep.map (fun r => r.2.1) else none) t.labels.toList
  else
    match o.rep with
    | some (d, hid, labels) =>
      if !t.rpl ∨ t.spanC ≠ 1 ∨ (!bitOf o.arg 31 ∧ t.spanA ≠ bits o.arg 18 6) then
        vprojBegun s core o s.now (s.now + 24) (fun x => { x with failed := some (0x0A, spillVal 3 t 0) })
      else beginLap s core o (projOf d) (some hid) labels
    | none => vprojBegun s core o s.now (s.now + 24) (fun x => { x with failed := some (0x0A, spillVal 3 t 0) })

/-- Lets the head of a Sinter's queue begin: a merge sends its request, a `vproj` waits for the matrix queue (R358, R362).
A merge takes at least 40 cycles. -/
def kickSinter (s : State) (core : Nat) : State :=
  match (getCore s core).sq with
  | [] => s
  | o :: _ =>
    if o.begun || heldByFreeze s core o.slot then s
    else if o.merge then
      let s := modSOp s core o.op (fun x => { x with begun := true })
      let src := bits o.arg 0 11
      if pkgOfCore src = pkgOfCore core then
        let (d, s) := takeDelay s
        schedule s (s.now + 20 + d) .hmergeSourceAnswer [core, src, o.op, 0]
      else send s (pkgOfCore core) (pkgOfCore src) core src 6 0 8 (core * 8192 + src + 134217728) .hmergeSourceAnswer [core, src, o.op, 0]
    else scheduleOnce s s.now .matrixOpBegin [core, o.op]

/-- Ends a Sinter operation: BROKEN and the record of a fault, its counter, its place in the queues (R358, R363). -/
def endSOp (s : State) (core : Nat) (o : SOp) (live : Bool) : State :=
  let s := if o.failed.isSome then modCore s core (fun c => { c with sint := { c.sint with broken := true } }) else s
  let s := if live then orFlags s core o.slot o.flags else s
  let s := match o.failed with
    | some (cause, v) =>
      if live then addRec s core o.slot
        { obj := match o.cc with | some n => .cc n | none => .sinter, order := o.op, cause := cause, unit := 5, value := v, alt := none }
      else s
    | none => s
  let s := match o.cc with
    | some n => if o.abandoned then s else raiseCc s core n 1
    | none => s
  let s := modCore s core (fun c => { c with sq := c.sq.filter (fun x => x.op != o.op) })
  let s := match findMOp s core o.op with
    | some m => freeMOp s core m false
    | none => s
  kickSinter s core

/-- Writes the gradients of a lap 2 in order, up to a dword that cannot take one (R369). -/
def writeGrads (core : Nat) : List (Nat × W32) → State → State × Option (Nat × W64)
  | [], s => (s, none)
  | (a, g) :: r, s =>
    match writeWord s (localPa core a) 4 g.toNat with
    | (s, true) => writeGrads core r s
    | (s, false) => (s, some (0x06, BitVec.ofNat 64 (a / 8 * 8)))

/-- The gradients written of an operation, and the fault of a dword that cannot take one: no later gradient is written, and
the operation completes in the next cycle (R363, R369). -/
def landGrads (s : State) (core : Nat) (o : SOp) (n : Nat) : State :=
  let (s, e) := writeGrads core (o.grads.take n) s
  match e with
  | none => modSOp s core o.op (fun x => { x with grads := o.grads.drop n })
  | some e => schedule (modSOp s core o.op (fun x => { x with grads := [], failed := some e })) (s.now + 1) .vprojComplete [core, o.op]

/-- `vprojComplete` [core, op, part]: with `part` 1 the next 32 gradients are written, else the operation completes (R359, R363,
R368, R369). -/
def execVprojComplete (s : State) : Host.Outcome State Fault Refusal :=
  let core := arg s 0
  match findSOp s core (arg s 1) with
  | none => .next s
  | some o =>
    if arg s 2 = 1 then .next (if o.abandoned then s else landGrads s core o 32) else
    let live := sameTask s core o.slot o.inc && !o.abandoned
    if live && o.failed.isSome && !recRoom s core o.slot then .next (schedule s (s.now + 1) .vprojComplete [core, o.op])
    else
      let (land, s) := if o.abandoned then takeFreeBit s else (true, s)
      if !land then .next (endSOp s core { o with failed := none, flags := 0 } false)
      else
        let s := match o.answer with
          | some t => modCore s core (fun c => { c with sint := { t with replay := c.sint.replay, last := c.sint.last } })
          | none => s
        let (s, e) := writeGrads core o.grads s
        .next (endSOp s core { o with failed := match e with | some e => some e | none => o.failed } live)

/-- `matrixOpBegin` [core, op]: a queued operation begins if its order lets it (R220, R248, R358). -/
def execMatrixOpBegin (s : State) : Host.Outcome State Fault Refusal :=
  let core := arg s 0
  match findMOp s core (arg s 1) with
  | none => .next s
  | some m =>
    if m.kind = .vproj then
      match (getCore s core).sq.head?, (getCore s core).mq.head? with
      | some o, some h =>
        if o.op = m.op ∧ h.op = m.op ∧ !o.begun ∧ !heldByFreeze s core o.slot then .next (beginVproj s core o) else .next s
      | _, _ => .next s
    else .next (beginMatrix s core m)
/-- `matrixOpComplete` [core, op]: rows that are due are written; in its last cycle the operation completes (R208, R225). -/
def execMatrixOpComplete (s : State) : Host.Outcome State Fault Refusal :=
  let core := arg s 0
  match findMOp s core (arg s 1) with
  | none => .next s
  | some m =>
    if m.begun.isNone then .next s
    else
      let s := writeDue core m.op 128 s
      match findMOp s core m.op with
      | none => .next s
      | some m => if s.now < m.completes then .next s else .next (kickSinter (completeMatrix s core m) core)

/-! ### Merging (R362) -/

/-- Whether a merge of source state `b` into `a` meets the span conditions. -/
def mergeOk (a b : Sinter) : Bool :=
  let c := a.spanC
  let m := b.spanC
  a.valid && b.valid && a.nshard == b.nshard && b.spanA == a.spanA + c && isPow2 c && a.spanA % (2 * c) == 0 && decide (m ≤ c) &&
    (m == c || b.spanA + m == a.nshard + 1)
/-- The merge of two states (R362). -/
def mergeSinter (a b : Sinter) : Sinter :=
  let heap := b.heap.foldl (fun h x => heapIns x h) a.heap
  let m := if fGt b.m a.m then b.m else a.m
  let t1 := if a.m = fNegInf then 0 else fMul a.s (fExp2 (fSub a.m m))
  let t2 := if b.m = fNegInf then 0 else fMul b.s (fExp2 (fSub b.m m))
  let lab (x y : Label) : Label := if !x.v && y.v && y.tok == x.tok then { x with logit := y.logit, v := true } else x
  { a with heap := heap.take 64, m := m, s := fAdd t1 t2, shards := a.shards ++ b.shards, spanC := a.spanC + b.spanC, rpl := false,
           labels := Vector.ofFn (fun i => lab (a.labels.get i) (b.labels.get i)), nanseen := a.nanseen || b.nanseen,
           broken := a.broken || b.broken, complete := a.complete && b.complete && decide (heap.length ≤ 64) }

/-- `hmergeSourceAnswer` [core, source, op, mark]: the source answers once the operations it held when the request arrived
have completed; it answers while frozen (R362). `mark` bounds their numbers, 0 on arrival. -/
def execHmergeSourceAnswer (s : State) : Host.Outcome State Fault Refusal :=
  let core := arg s 0
  let src := arg s 1
  match findSOp s core (arg s 2) with
  | none => .next s
  | some o =>
    let mark := if arg s 3 = 0 then s.nextId else arg s 3
    if (getCore s src).sq.any (fun x => decide (x.op < mark) && x.op != o.op) ∧ src ≠ core then
      .next (schedule s (s.now + 1) .hmergeSourceAnswer [core, src, o.op, mark])
    else
      let bad := partOfCore s src ≠ partOfCore s core ∨ !inSvc s src
      let s := if bad then modSOp s core o.op (fun x => { x with failed := some (0x05, x.arg) })
        else modSOp s core o.op (fun x => { x with answer := some (getCore s src).sint })
      if pkgOfCore src = pkgOfCore core then
        let (d, s) := takeDelay s
        .next (schedule s (s.now + 20 + d) .hmergeApply [core, o.op])
      else .next (send s (pkgOfCore src) (pkgOfCore core) src core 6 1 1344 (src * 8192 + core + 134217728) .hmergeApply [core, o.op])
/-- `hmergeApply` [core, op]: the answer arrives and the merge is made, or faults (R362, R363). -/
def execHmergeApply (s : State) : Host.Outcome State Fault Refusal :=
  let core := arg s 0
  match findSOp s core (arg s 1) with
  | none => .next s
  | some o =>
    let t := (getCore s core).sint
    let failed := match o.failed, o.answer with
      | some e, _ => some e
      | none, some b => if mergeOk t b then none else some (0x05, BitVec.ofNat 64 (2 ^ 63 + b.spanA * 256 + t.spanA))
      | none, none => none
    let live := sameTask s core o.slot o.inc && !o.abandoned
    if live && failed.isSome && !recRoom s core o.slot then .next (schedule s (s.now + 1) .hmergeApply [core, o.op])
    else
      let (land, s) := if o.abandoned then takeFreeBit s else (true, s)
      let s := match failed, o.answer with
        | none, some b => if land then modCore s core (fun c => { c with sint := mergeSinter t b }) else s
        | _, _ => s
      .next (endSOp s core { o with failed := if land then failed else none } live)

/-! ### The instructions (R357 to R361, R365, R370, R371) -/

/-- Whether the system-only ranges leave a record to the issuing slot: R165, R288 and R359 bar them at task level only. -/
def recordAllowed (s : State) (k n : Nat) : Bool := lvlOf (me s) || !sysOnlyRange s s.curCore k n
/-- The checks of a record of `n` bytes in local memory read at issue: STALL_SHORT, ALIGN, PROT, waits, ECC_LOCAL (R89, R165,
R288, R359). -/
def recordGate (s : State) (p : W64) (n : Nat) : Option State :=
  let k := p.toNat
  match localGateIf s p n n true (recordAllowed s k n) with
  | some s => some s
  | none => ((List.range (n / 8)).findSome? (fun i =>
      if wordErr s (localPa s.curCore (k + 8 * i)) = .ecc then some (k + 8 * i) else none)).map (fun a => eccTrap s a)
/-- The dwords of a record, with what reading them does. -/
def readRecord (s : State) (k n : Nat) : List W64 × State :=
  (rd64s s (localPa s.curCore k) n,
    (List.range n).foldl (fun s i => noteRead s (localPa s.curCore (k + 8 * i))) (countAldShort s k (8 * n)))

/-- Forks an operation into the Sinter's queue (R358). -/
def forkSinter (s : State) (o : SOp) : State :=
  let (op, s) := takeId s
  let s := modMyCore s (fun c => { c with sq := c.sq ++ [{ o with op := op }] })
  let s := if o.merge then s else
    modMyCore s (fun c => { c with mq := c.mq ++ [{ capture s .vproj 0 0 0 0 0 0 with op := op, raise := false }] })
  kickSinter s s.curCore
/-- A Sinter operation of the issuing slot. -/
def newSOp (s : State) (merge lap2 keep rq : Bool) (addr arg : W64) (m : BitVec 4) (c : BitVec 1) : SOp :=
  { op := 0, slot := s.curSlot, inc := (me s).incarn, lvl := lvlOf (me s), merge := merge, lap2 := lap2, keep := keep, rq := rq,
    addr := addr, arg := arg, desc := [], rep := none, cc := if c = 1 then some m.toNat else none, begun := false, failed := none,
    answer := none, flags := 0, grads := [], abandoned := false }

/-- The hidden vector as `vproj` with RQ captures it at issue, with the error its reading met: the operation faults for it
when it begins. A vector that is misaligned or leaves local memory is not captured; the operation faults for that too. -/
def captureHidden (s : State) (p : Proj) : List Num × Option (Nat × W64) × State :=
  let w := fmtBits p.hfmt
  if 8 * p.haddr % w ≠ 0 ∨ 8 * 0x40000 < 8 * p.haddr + w * p.h then (List.replicate p.h (.fin false 0 0), none, s)
  else
    let s := touchLocal s s.curCore (partOf s (me s).part) p.haddr ((w * p.h + 7) / 8)
    match readHidden s.curCore p p.h 0 { s := s, seen := [] } with
    | (.ok l, g) => (l, none, g.s)
    | (.error e, g) => (List.replicate p.h (.fin false 0 0), some e, g.s)

/-- `vproj` (R358, R359). -/
def execVproj (w : BitVec 3) (a : BitVec 5) (m : BitVec 4) (c k q : BitVec 1) (s : State) : Host.Outcome State Fault Refusal :=
  let p := xr s a
  match recordGate s p 32 with
  | some s => .next s
  | none =>
    if 4 ≤ (myCore s).sq.length ∨ queueFull s then .next (stallTo s (s.now + 1))
    else
      let (d, s) := readRecord s p.toNat 4
      let pr := projOf d
      if k = 1 ∧ (myCore s).sint.last ≠ some (pr.shard, pr.tok0) then .next (trapHere s 0x05 0 p)
      else
        let (hid, bad, s) := if q = 1 then captureHidden s pr else ([], none, s)
        let rep : Option (List W64 × List Num × List Label) :=
          if q = 1 then some (d, hid, (myCore s).sint.labels.toList) else none
        let s := modMyCore s (fun co => { co with sint := { co.sint with
          last := some (pr.shard, pr.tok0 + pr.n), replay := if q = 1 then rep else co.sint.replay } })
        .next (retire (forkSinter s { newSOp s false false (k == 1) (q == 1) p 0 m c with desc := d, rep := rep, failed := bad }) w)
/-- `vproj` with LAP2 (R368): its descriptor address is checked and otherwise ignored, so nothing is read there. -/
def execVprojLap2 (w : BitVec 3) (a b : BitVec 5) (m : BitVec 4) (c : BitVec 1) (s : State) : Host.Outcome State Fault Refusal :=
  let p := xr s a
  match addrGate s p 32 32 (recordAllowed s p.toNat 32) with
  | some s => .next s
  | none =>
    if 4 ≤ (myCore s).sq.length ∨ queueFull s then .next (stallTo s (s.now + 1))
    else .next (retire (forkSinter s { newSOp s false true false false p (xr s b) m c with rep := (myCore s).sint.replay }) w)
/-- `hmerge` (R358, R362). -/
def execHmerge (w : BitVec 3) (a : BitVec 5) (m : BitVec 4) (c : BitVec 1) (s : State) : Host.Outcome State Fault Refusal :=
  if 4 ≤ (myCore s).sq.length then .next (stallMe s)
  else .next (retire (forkSinter s (newSOp s true false false false 0 (xr s a) m c)) w)

/-- The join of the Sinter: waits for every operation of the core, then delivers the slot's recorded faults (R358). -/
def sinterJoin (s : State) : Option State :=
  if (myCore s).sq ≠ [] then some (stallMe s) else deliverRec s (fun r => r.unit == 5)

/-- The item that a selector of `hread` names (Table 16-7). -/
def hreadItem (t : Sinter) (sel : Nat) : Option W64 :=
  if sel < 64 then
    match t.heap[sel]? with
    | some (x, v) => some (BitVec.ofNat 64 (x.toNat * 2 ^ 32 + 2 ^ 31 + v))
    | none => some 0
  else if sel < 72 then
    let l := vget ⟨false, 0, 0, 0, false⟩ t.labels (sel - 64)
    some (BitVec.ofNat 64 (l.logit.toNat * 2 ^ 32 + b2n l.v * 2 ^ 31 + b2n l.lv * 2 ^ 30 + l.tok))
  else if sel = 72 then some (BitVec.ofNat 64 (t.m.toNat * 2 ^ 32 + t.s.toNat))
  else if sel = 73 then some (sinterStatus t)
  else if sel = 74 then some (BitVec.ofNat 64 (b2n t.drawnV * 2 ^ 63 + t.drawn))
  else if 128 ≤ sel ∧ sel < 192 then
    match t.shards[sel - 128]? with
    | some (m, x) => some (BitVec.ofNat 64 (m.toNat * 2 ^ 32 + x.toNat))
    | none => some 0
  else none
/-- `hread` (R370). -/
def execHread (w : BitVec 3) (a d : BitVec 5) (s : State) : Host.Outcome State Fault Refusal :=
  let sel := (xr s a).toNat
  match (if sel < 256 then hreadItem (myCore s).sint sel else none) with
  | none => .next (trapHere s 0x0F 0 (xr s a))
  | some _ =>
    match sinterJoin s with
    | some s => .next s
    | none => scalarResult s w d 2 ((hreadItem (myCore s).sint sel).getD 0)

/-- A dword stored to local memory as by `st.d`. -/
def storeLocal (s : State) (a : Nat) (v : W64) : State :=
  if 0x3FE00 ≤ a ∧ a < 0x3FE80 then lbFree s s.curCore ((a - 0x3FE00) / 8) else putDword s (localPa s.curCore a) v
def packIds : List Nat → Nat
  | [] => 0
  | v :: r => v + 2 ^ 18 * packIds r
/-- `snorm` (R89, R358, R371): it waits and delivers the slot's faults, then checks its address. -/
def execSnorm (w : BitVec 3) (a : BitVec 5) (s : State) : Host.Outcome State Fault Refusal :=
  let p := xr s a
  let k := p.toNat
  match sinterJoin s with
    | some s => .next s
    | none =>
      match localGateIf s p 64 64 false (recordAllowed s k 64) with
      | some s => .next s
      | none =>
        let t := (myCore s).sint
        let ids := packIds ((List.range 8).map (fun i => match t.heap[i]? with | some (_, v) => v | none => 0x3FFFF))
        let ds : List Nat := [t.m.toNat * 2 ^ 32 + t.s.toNat, (fAdd t.m (fLog2 t.s)).toNat * 2 ^ 32 + (heapTotal t).toNat,
          (sinterStatus t).toNat, ids % 2 ^ 64, ids / 2 ^ 64 % 2 ^ 64, ids / 2 ^ 128, 0, 0]
        .next (retire (ds.zipIdx.foldl (fun s q => storeLocal s (k + 8 * q.2) (BitVec.ofNat 64 q.1)) s) w)

/-- Whether a sampling record's combination is illegal (R365, step 3). -/
def recordIllegal (t : Sinter) (d3 : W64) : Bool :=
  let pv := BitVec.ofNat 32 (bits d3 32 32)
  let pin := fGt pv 0 && fGe 0x3F800000 pv
  let k := bits d3 24 7
  let mode := bits d3 0 2
  let lbl := vget ⟨false, 0, 0, 0, false⟩ t.labels (bits d3 18 3)
  bitOf d3 31 || bits d3 21 3 != 0 || bits d3 4 14 != 0 || (mode == 1 && !(decide (1 ≤ k) && decide (k ≤ 64))) ||
    (mode == 2 && !pin) || (bitOf d3 3 && (!lbl.v || !pin))

/-- How many candidates a draw takes, where the heap settles it (R365). -/
def drawCount (t : Sinter) (d3 : W64) : Option Nat :=
  let mode := bits d3 0 2
  let hc := t.heap.length
  if mode = 0 then some 1
  else if mode = 1 then some (min (bits d3 24 7) hc)
  else if mode = 2 then
    let pm := fMul (BitVec.ofNat 32 (bits d3 32 32)) t.s
    match (List.range hc).find? (fun i => fGe ((heapMass t).getD (i + 1) 0) pm) with
    | some i => some (i + 1)
    | none => if t.complete then some hc else none
  else if t.complete then some hc else none

/-- The uniform value of a block's first word (R365). -/
def uniform (d : List W64) : W32 :=
  let w := (philox (d.getD 0 0).toNat ((d.getD 1 0).toNat + 2 ^ 64 * (d.getD 2 0).toNat)).headD 0
  f32r (.fin false (w / 256) (-24))
/-- The token that the first `n` candidates give (R365). -/
def heapDraw (t : Sinter) (u : W32) (n : Nat) : Nat :=
  let ms := heapMass t
  let lim := fMul u (ms.getD n 0)
  match (List.range n).find? (fun i => fGt (ms.getD (i + 1) 0) lim) with
  | some i => (t.heap.getD i (0, 0)).2
  | none => (t.heap.getD (n - 1) (0, 0)).2
/-- The request that passes a draw to lap 2 (R365, Table 16-6). -/
def lap2Request (t : Sinter) (u : W32) (wide : Bool) : W64 :=
  let ms := t.shards.map (fun p => fMul p.2 (fExp2 (fSub p.1 t.m)))
  let cs := prefixMass 0 ms
  let lim := fMul u (cs.getLast?.getD 0)
  let j := match (List.range ms.length).find? (fun i => fGt (cs.getD (i + 1) 0) lim) with
    | some i => i
    | none => ((List.range ms.length).filter (fun i => fGt (ms.getD i 0) 0)).getLast?.getD 0
  let q := fDiv (fSub lim (cs.getD j 0)) (ms.getD j 0)
  let q := if fGt q 0x3F7FFFFF then 0x3F7FFFFF else q
  BitVec.ofNat 64 (q.toNat * 2 ^ 32 + 2 ^ 30 + b2n wide * 2 ^ 29 + (t.spanA + j) * 2 ^ 18)

/-- The result of a draw and whether it takes a block, or the mass of the HEAP_SPILL that it traps (R365, R367). -/
def drawResult (t : Sinter) (d : List W64) : Except W32 (W64 × Bool) :=
  let d3 := d.getD 3 0
  let u := uniform d
  if t.heap = [] then .ok (BitVec.ofNat 64 (2 ^ 28 + 0x3FFFF), false)
  else if bitOf d3 3 then
    let l := vget ⟨false, 0, 0, 0, false⟩ t.labels (bits d3 18 3)
    let p := f32r (divNum (f32v (fExp2 (fSub l.logit t.m))) (f32v t.s)).1
    let accept := fGt p (fMul u (BitVec.ofNat 32 (bits d3 32 32)))
    .ok (BitVec.ofNat 64 ((if accept then 0 else 2 ^ 27) + l.tok), true)
  else match drawCount t d3 with
    | some n => .ok (BitVec.ofNat 64 (if bits d3 0 2 = 0 then (t.heap.getD 0 (0, 0)).2 else heapDraw t u n), bits d3 0 2 != 0)
    | none => if bitOf d3 2 then .ok (lap2Request t u (bits d3 0 2 == 2), true) else .error (heapTotal t)

/-- `sdraw` (R364, R365, R367): its address is checked before the join. -/
def execSdraw (w : BitVec 3) (a d : BitVec 5) (s : State) : Host.Outcome State Fault Refusal :=
  let p := xr s a
  let k := p.toNat
  match addrGate s p 32 32 (recordAllowed s k 32) with
  | some t => .next ((shortGate s p 32).getD t)
  | none =>
    match (if (myCore s).sq ≠ [] then some (stallMe s) else shortGate s p 32).orElse (fun _ => sinterJoin s) with
    | some s => .next s
    | none =>
      match recordGate s p 32 with
      | some s => .next s
      | none =>
        let (r, s) := readRecord s k 4
        let t := (myCore s).sint
        if recordIllegal t (r.getD 3 0) then .next (trapHere s 0x05 0 p)
        else if !t.valid ∨ t.broken then .next (trapHere s 0x0A 0 (spillVal 4 t 0))
        else match drawResult t r with
          | .error mass => .next (trapHere s 0x0A 0 (spillVal 1 t mass))
          | .ok (v, block) => scalarResult (if block then storeLocal s (k + 8) (r.getD 1 0 + 1) else s) w d 2 v

/-- `slabel` (R361). -/
def execSlabel (w : BitVec 3) (a b : BitVec 5) (s : State) : Host.Outcome State Fault Refusal :=
  let v := xr s a
  let bias : W32 := (xr s b).setWidth 32
  match sinterJoin s with
  | some s => .next s
  | none =>
    if bits v 50 14 ≠ 0 ∨ fNan bias ∨ bias = 0x7F800000 then .next (trapHere s 0x05 0 v)
    else
      let set (l : Label) : Label :=
        if bitOf v 8 then { l with lv := true, tok := bits v 32 18, bias := bias, v := false } else ⟨false, 0, 0, 0, false⟩
      .next (retire (modMyCore s (fun c => { c with sint := { c.sint with
        labels := vset c.sint.labels (bits v 0 3) (set (vget ⟨false, 0, 0, 0, false⟩ c.sint.labels (bits v 0 3))) } })) w)

end Sys2Proof.Machine
end

