-- ==== Sys2Proof/Machine/AtticOps.lean ====
section
/-! DEFINITION. Watermarks, and the attic operation units: the commands of major 0x3C eop 12 to 15 and the column's command
pipeline (R164, R166, R287 to R295, R298 to R300). -/
namespace Sys2Proof.Machine
open Sys2Proof

/-! ### Watermarks (R164) -/

/-- The next push of an operation on a watermark channel. -/
def pushWm (s : State) (core n op bytes : Nat) : State :=
  modCore s core (fun c => { c with wmq := vset c.wmq n (vget [] c.wmq n ++ [{ op := op, bytes := bytes, done := false }]) })
/-- Counts the completed pushes at the head of a channel's list: what stays, and the bytes counted. -/
def countPushes : List WmPush → List WmPush × Nat
  | [] => ([], 0)
  | e :: r => if e.done then ((countPushes r).1, e.bytes + (countPushes r).2) else (e :: r, 0)
/-- A push has completed: DONE advances in push order. -/
def finishWm (s : State) (core n op : Nat) : State :=
  modCore s core (fun c =>
    let l := (vget [] c.wmq n).map (fun e => if e.op = op then { e with done := true } else e)
    let (l, k) := countPushes l
    { c with wmq := vset c.wmq n l, wm := vset c.wm n (vget 0 c.wm n + BitVec.ofNat 64 k) })
/-- A push whose operation was abandoned leaves its channel without a count (R23). -/
def skipWm (s : State) (core : Nat) (chan : Option Nat) (op : Nat) : State :=
  match chan with
  | none => s
  | some n => finishWm (modCore s core (fun c => { c with
      wmq := vset c.wmq n ((vget [] c.wmq n).map (fun e => if e.op = op then { e with bytes := 0 } else e)) })) core n op
/-- Whether an operation's push is counted in a channel. -/
def counted (s : State) (core n op : Nat) : Bool := !(vget [] (getCore s core).wmq n).any (fun e => e.op == op)
/-- Completes an engine operation that reports through a watermark or, with no channel, through `done`: its flags, its fault
record, its count (R138, R164, R167, R293). -/
def completeWm (s : State) (core slot op : Nat) (live : Bool) (chan : Option Nat) (fl : Nat) (fault : Option (Nat × Nat × W64)) : State :=
  let s := if live then orFlags s core slot fl else s
  let s := match fault with
    | some (cause, unit, v) => if live then addRec s core slot {
        obj := match chan with | some n => .wm n | none => .done,
        order := op, cause := cause, unit := unit, value := v, alt := none } else s
    | none => s
  match chan with
  | some n => finishWm s core n op
  | none => s

/-- `wmwait`: waits until DONE reaches the operand, then delivers the faults of operations it counts (R166). -/
def execWmwait (w : BitVec 3) (a : BitVec 5) (n : BitVec 3) (s : State) : Host.Outcome State Fault Refusal :=
  if sgn (vget 0 (myCore s).wm n.toNat - xr s a) < 0 then .next (stallMe s)
  else match deliverRec s (fun r => r.obj == .wm n.toNat && counted s s.curCore n.toNat r.order) with
    | some s => .next s
    | none => .next (retire s w)

/-! ### Command records (Table 12-7) -/

def AopEnt.dw (e : AopEnt) (i : Nat) : W64 := e.d.getD i 0
def AopEnt.src (e : AopEnt) : Nat := bits (e.dw 0) 0 29
def AopEnt.dst (e : AopEnt) : Nat := bits (e.dw 1) 0 29
def AopEnt.ilist (e : AopEnt) : Nat := bits (e.dw 2) 46 18
def AopEnt.argw (e : AopEnt) : Nat := bits (e.dw 2) 0 32
def AopEnt.rows (e : AopEnt) : Nat := bits (e.dw 3) 52 12 + 1
def AopEnt.len (e : AopEnt) : Nat := bits (e.dw 3) 40 12 + 1
def AopEnt.fmt (e : AopEnt) : Nat := bits (e.dw 3) 36 4
def AopEnt.wen (e : AopEnt) : Bool := bitOf (e.dw 3) 35
def AopEnt.max (e : AopEnt) : Bool := bitOf (e.dw 3) 34
def AopEnt.idx (e : AopEnt) : Bool := bitOf (e.dw 3) 33
def AopEnt.stride (e : AopEnt) : Nat := bits (e.dw 3) 0 32
/-- Whether the format is one the command allows: kinds 0 red, 1 cmpx, 2 sacc, 3 dot. -/
def AopEnt.fmtOk (e : AopEnt) : Bool :=
  let f := e.fmt
  let fl := f == 0x0B || f == 0x0C || f == 0x0D
  if e.kind = 0 then fl || f == 0 || f == 2 else if e.kind = 3 then fl || f == 0 else fl
/-- Bytes of an element; of one not allowed, 4 (R298). -/
def AopEnt.eb (e : AopEnt) : Nat := if e.fmtOk then fmtBits e.fmt / 8 else 4
/-- A row's bytes, whole dwords. -/
def AopEnt.rb (e : AopEnt) : Nat := (e.len * e.eb + 7) / 8 * 8
/-- The bytes a command adds to its watermark (Table 13-1). -/
def AopEnt.bytes (e : AopEnt) : Nat :=
  if e.kind = 0 then 4 * e.len else if e.kind = 3 then 4 * e.rows else if e.kind = 2 then e.rows * e.rb else 8
/-- The cycles a command takes (Table 12-6). -/
def AopEnt.cycles (e : AopEnt) : Nat :=
  let k := e.rows * ((e.rb + 255) / 256)
  if e.kind = 1 then 20 else if e.kind = 2 then 24 + 2 * k else 24 + k

/-- The checks of a record's fields (R288, R289, Table 12-8). -/
def AopEnt.illegal (e : AopEnt) : Bool :=
  bits (e.dw 0) 29 35 != 0 || bits (e.dw 1) 29 35 != 0 ||
  (e.kind != 1 && (bits (e.dw 2) 32 14 != 0 || bitOf (e.dw 3) 32 || !e.fmtOk
    || (e.kind == 0 && e.wen && (e.max || e.fmt == 0 || e.fmt == 2))
    || (e.kind != 0 && (e.wen || e.max))
    || (e.kind == 2 && (e.idx || e.ilist != 0))))

/-! ### Rows -/

/-- The core and slice offset of a column address. -/
def colPlace (col cl : Nat) : Nat × Nat := (coreAt col (cl / 0x1800000), cl % 0x1800000)
/-- Whether a range of a column's Attic may be touched at a level (R299, Table 12-8). -/
def colRangeBad (s : State) (col : Nat) (lvl : Bool) (cl n : Nat) : Bool :=
  let (core, off) := colPlace col cl
  decide (0x18000000 ≤ cl) || decide (0x1800000 < off + n) || decide (attcap s core < off + n) ||
    (!lvl && decide (pantry s core < off + n))
/-- The first fault among rows: misaligned, then out of bounds. -/
def rowsBad (s : State) (col : Nat) (e : AopEnt) (rows : List Nat) (n : Nat) : Option (Nat × W64) :=
  match rows.find? (fun a => a % 8 != 0) with
  | some a => some (0x03, BitVec.ofNat 64 a)
  | none => (rows.find? (fun a => colRangeBad s col e.lvl a n)).map (fun a => (0x05, BitVec.ofNat 64 a))
/-- The physical address of a column address. -/
def colPa (col cl : Nat) : Nat := slicePa (colPlace col cl).1 (colPlace col cl).2
/-- Reads a row's bytes as a number, with the fault of the first word that cannot be read (R289). -/
def readRow (col : Nat) (cl : Nat) : Nat → State → Except (Nat × W64) Nat × State
  | 0, s => (.ok 0, s)
  | n + 1, s =>
    let pa := colPa col cl
    match wordErr s pa with
    | .attic k => (.error (0x07, atticVal k (colPlace col cl).1 (colPlace col cl).2), noteRead s pa)
    | _ =>
      let d := (dwordAt s pa).toNat
      match readRow col (cl + 8) n (noteRead s pa) with
      | (.ok v, s) => (.ok (d + 2 ^ 64 * v), s)
      | (.error x, s) => (.error x, s)
/-- Addresses up to and with the first that holds an uncorrectable word. -/
def upToBad (s : State) : List Nat → List Nat
  | [] => []
  | a :: r => if (wordErr s a).isAttic then [a] else a :: upToBad s r
/-- Reads rows in order up to one that faults. -/
def readRows (col nd : Nat) : List Nat → State → List Nat × Option (Nat × W64) × State
  | [], s => ([], none, s)
  | a :: r, s =>
    match readRow col a nd s with
    | (.error x, s) => ([], some x, s)
    | (.ok v, s) =>
      let (l, x, s) := readRows col nd r s
      (v :: l, x, s)
/-- Reads a list of words of local memory; an error's value is the byte address of the failing dword (R88, R293, R300). -/
def readList (core a : Nat) : Nat → State → Except (Nat × W64) (List Nat) × State
  | 0, s => (.ok [], s)
  | n + 1, s =>
    let pa := localPa core a
    if wordErr s pa = .ecc then (.error (0x06, BitVec.ofNat 64 (a / 8 * 8)), s)
    else
      let v := wordAt s pa 4
      match readList core (a + 4) n (noteRead s pa) with
      | (.ok l, s) => (.ok (v :: l), s)
      | (.error x, s) => (.error x, s)

/-! ### Exact sums (R289, R290) -/

/-- The running state of an exact sum: the sign of the first NaN, whether anything was invalid, and the sum so far. -/
def sumTerm (mode : Nat) (q : Option Bool × Bool × Option Num) (t : Num × Num) : Option Bool × Bool × Option Num :=
  let (nan, inv, acc) := q
  let (p, f) := mulNum t.1 t.2
  if p.isNan ∧ f = 0 then ((match nan with | some b => some b | none => some p.isNeg), inv, acc)
  else if f ≠ 0 then (nan, true, acc)
  else match acc with
    | none => (nan, inv, some p)
    | some a =>
      let (v, f2) := addNum mode a p
      if f2 = 0 then (nan, inv, some v) else (nan, true, acc)
/-- The exact sum of products with its special cases: a NaN takes the sign of the first NaN met; infinities of both signs and
0 times infinity are invalid. -/
def exactSum (mode : Nat) (l : List (Num × Num)) : Num × Nat :=
  let (nan, inv, acc) := l.foldl (sumTerm mode) (none, false, none)
  let fl := if inv then fNV else 0
  match nan with
  | some b => (.nan b, fl)
  | none => if inv then (.nan false, fl) else (acc.getD (.fin false 0 0), 0)
/-- A sum written as a word: s32 with saturation for a whole-number format, else FP32 rounded once. -/
def sumWord (fmt : Nat) (r : Rnd) (x : Num × Nat) : W32 × Nat :=
  let (v, f) := roundTo (if fmt = 0 ∨ fmt = 2 then 0x02 else 0x0D) r x.1
  (BitVec.ofNat 32 v, Nat.lor f x.2)
/-- Element `i` of a row. -/
def AopEnt.el (e : AopEnt) (row i : Nat) : Num := decodeNum e.fmt (packed row (8 * e.eb) i)
/-- Merges flags; with FIE an invalid result sets no NV and faults (R137, Table 12-8). -/
def aopFlags (e : AopEnt) (fl : Nat) : AopEnt :=
  if e.fie ∧ fl % 2 = 1 then { e with flags := fl - 1, fault := some (0x0E, 0) } else { e with flags := fl }

/-! ### What the commands compute -/

/-- Results of a list of words with their flags, to be written from DST on. -/
def AopEnt.give (e : AopEnt) (l : List (W32 × Nat)) : AopEnt :=
  aopFlags { e with results := l.zipIdx.map (fun p => (e.dst + 4 * p.2, p.1.1)) } (l.foldl (fun f p => Nat.lor f p.2) 0)
/-- `aop.red` on its rows (R289). -/
def AopEnt.red (e : AopEnt) (ws : List Nat) (rows : List Nat) : AopEnt :=
  let r := rndPlain e.rnd
  e.give ((List.range e.len).map (fun i =>
    let els := rows.map (fun row => e.el row i)
    if e.max then
      match els with
      | [] => (0, 0)
      | x :: l => sumWord e.fmt r (l.foldl (minmaxNum true) x, 0)
    else
      let w (j : Nat) : Num := if e.wen then decodeNum 0x0D (ws.getD j 0) else .fin false 1 0
      sumWord e.fmt r (exactSum r.mode (els.zipIdx.map (fun p => (w p.2, p.1))))))
/-- `aop.dot` on its rows (R290). -/
def AopEnt.dot (e : AopEnt) (q : Nat) (rows : List Nat) : AopEnt :=
  let r := rndPlain e.rnd
  e.give (rows.map (fun row =>
    sumWord e.fmt r (exactSum r.mode ((List.range e.len).map (fun i => (e.el q i, e.el row i))))))
/-- One element of `aop.sacc` (R291). -/
def AopEnt.saccEl (e : AopEnt) (d x : Num) : Nat × Nat :=
  let r := rndPlain e.rnd
  let sc := decodeNum 0x0D e.argw
  let v := if d.isNan then (d, (mulNum sc x).2) else fmaNum r.mode false sc x d
  let (b, f) := roundTo e.fmt r v.1
  (b, Nat.lor f v.2)
/-- The rows of `aop.sacc` in order, on a copy of the state in which earlier rows are already written: the dwords written,
the flags, and the fault that stopped it (R291). -/
def AopEnt.saccRows (col : Nat) (e : AopEnt) : List Nat → State → List (Nat × W64) × Nat × Option (Nat × W64) × State
  | [], s => ([], 0, none, s)
  | j :: r, s =>
    let da := e.dst + j * e.stride
    match readRow col da (e.rb / 8) s with
    | (.error x, s) => ([], 0, some x, s)
    | (.ok d, s) =>
      match readRow col (e.src + j * e.stride) (e.rb / 8) s with
      | (.error x, s) => ([], 0, some x, s)
      | (.ok x, s) =>
        let wd := 8 * e.eb
        let rs := (List.range e.len).map (fun i => e.saccEl (e.el d i) (e.el x i))
        let v := d / 2 ^ (wd * e.len) * 2 ^ (wd * e.len) + ofLanes wd (rs.map (·.1))
        let ws := (List.range (e.rb / 8)).map (fun i => (colPa col (da + 8 * i), BitVec.ofNat 64 (v / 2 ^ (64 * i))))
        let s := ws.foldl (fun s w => putDword s w.1 w.2) s
        let (l, f, er, s) := e.saccRows col r s
        (ws ++ l, rs.foldl (fun f p => Nat.lor f p.2) f, er, s)

/-- The rows' column addresses, with the fault of a row list that cannot be read (R299, R300). -/
def AopEnt.rowAddrs (s : State) (e : AopEnt) : Except (Nat × W64) (List Nat) × State :=
  if e.idx then
    match readList e.core e.ilist e.rows s with
    | (.ok l, s) => (.ok (l.map (fun i => e.src + i * e.stride)), s)
    | (.error x, s) => (.error x, s)
  else (.ok ((List.range e.rows).map (fun j => e.src + j * e.stride)), s)
/-- The checks of a command's local ranges: destination and lists (Table 12-8). -/
def AopEnt.localBad (s : State) (e : AopEnt) : Option (Nat × W64) :=
  let lists := (if e.kind = 0 ∨ e.kind = 3 then [(e.dst, if e.kind = 0 then 4 * e.len else 4 * e.rows)] else if e.kind = 1 then [(e.dst, 8)] else [])
    ++ (if (e.kind = 0 ∨ e.kind = 3) ∧ e.idx then [(e.ilist, 4 * e.rows)] else [])
    ++ (if e.kind = 0 ∧ e.wen then [(e.argw % 2 ^ 18, 4 * e.rows)] else [])
  match lists.find? (fun p => p.1 % (if e.kind = 1 then 8 else 4) != 0) with
  | some p => some (0x03, BitVec.ofNat 64 p.1)
  | none => (lists.find? (fun p => !engineLocal s e.core e.lvl p.1 p.2)).map (fun p => (0x05, BitVec.ofNat 64 p.1))

/-- A command as it begins: checked, its operands read, its results computed (R288 to R293). -/
def AopEnt.run (s : State) (col : Nat) (e : AopEnt) : AopEnt × State :=
  let bad (x : Nat × W64) : AopEnt := { e with fault := some x }
  if e.illegal then (bad (0x01, BitVec.ofNat 64 e.recAddr), s)
  else match e.localBad s with
    | some x => (bad x, s)
    | none =>
      if e.kind = 1 then
        match rowsBad s col e [e.src] 8 with
        | some x => (bad x, s)
        | none => (e, s)
      else if e.kind = 2 then
        let js := List.range e.rows
        let addrs := js.flatMap (fun j => [e.src + j * e.stride, e.dst + j * e.stride])
        match rowsBad s col e addrs e.rb with
        | some x => (bad x, s)
        | none =>
          let (ws, fl, er, _) := e.saccRows col js s
          let e := aopFlags { e with attic := ws } fl
          let nd := e.rb / 8
          let read := (List.range (min e.rows (ws.length / nd + 1))).flatMap (fun j => (List.range (2 * nd)).map (fun i =>
            colPa col (if i < nd then e.dst + j * e.stride + 8 * i else e.src + j * e.stride + 8 * (i - nd))))
          let s := (upToBad s read).foldl noteRead s
          (match er with
            | some x => { e with fault := some x }
            | none => e, s)
      else
        let pre := touchLocal s e.core (partOfSlot s e.core e.slot) 0 0x40000
        match e.rowAddrs pre with
        | (.error x, s) => (bad x, s)
        | (.ok rows, s) =>
          let q := if e.kind = 3 then [e.argw % 2 ^ 29] else []
          match rowsBad s col e (q ++ rows) e.rb with
          | some x => (bad x, s)
          | none =>
            match (if e.kind = 0 ∧ e.wen then readList e.core (e.argw % 2 ^ 18) e.rows s else (.ok [], s)) with
            | (.error x, s) => (bad x, s)
            | (.ok ws, s) =>
              match readRows col (e.rb / 8) (q ++ rows) s with
              | (_, some x, s) => (bad x, s)
              | (vs, none, s) => (if e.kind = 0 then e.red ws vs else e.dot (vs.headD 0) vs.tail, s)

/-- The read and the compare of `aop.cmpx`: made in its last cycle, in which it also writes, so that nothing stands between them
(R292). -/
def AopEnt.compare (s : State) (col : Nat) (e : AopEnt) : AopEnt × State :=
  if e.kind ≠ 1 ∨ e.fault.isSome then (e, s)
  else match readRow col e.src 1 s with
    | (.error x, s) => ({ e with fault := some x }, s)
    | (.ok v, s) =>
      ({ e with
        results := [(e.dst, BitVec.ofNat 32 v), (e.dst + 4, BitVec.ofNat 32 (v / 2 ^ 32))],
        attic := if v = (e.dw 2).toNat then [(colPa col e.src, e.dw 3)] else [] }, s)

/-! ### The pipeline (R287) -/

def modAop (s : State) (col op : Nat) (f : AopEnt → AopEnt) : State :=
  modCol s col (fun c => { c with aops := c.aops.map (fun e => if e.op = op then f e else e) })
/-- Puts an accepted command behind those accepted earlier, and in its cycle behind those of a lower POS. -/
def insertAccepted (e : AopEnt) (now : Nat) : List AopEnt → List AopEnt
  | [] => [e]
  | x :: r =>
    if x.accepted.isNone ∨ (x.accepted = some now ∧ x.begun.isNone ∧ e.core < x.core) then e :: x :: r
    else x :: insertAccepted e now r

/-- Issues an attic command (R287, R288). STATUS.FIE is sampled here: DEDUCED, log entry 70. -/
def aopIssue (s : State) (w : BitVec 3) (a : BitVec 5) (n : BitVec 3) (wmen : BitVec 1) (kind : Nat) : Host.Outcome State Fault Refusal :=
  let p := xr s a
  match recordGate s p 32 with
  | some s => .next s
  | none =>
    let col := colOfCore s.curCore
    if 4 ≤ ((getCol s col).aops.filter (fun e => e.core == s.curCore)).length then .next (stallMe s)
    else
      let (d, s) := readRecord s p.toNat 4
      let (op, s) := takeId s
      let e : AopEnt := {
        op := op, core := s.curCore, slot := s.curSlot, inc := (me s).incarn, lvl := lvlOf (me s), fie := fieOf (me s),
        rnd := (me s).rndmode, kind := kind, recAddr := p.toNat, d := d, chan := if wmen = 1 then some n.toNat else none,
        accepted := none, begun := none, results := [], attic := [], fault := none, flags := 0, abandoned := false }
      let s := modCol s col (fun c => { c with aops := c.aops ++ [e] })
      let s := if wmen = 1 then pushWm s s.curCore n.toNat op e.bytes else s
      .next (retire (schedule s (s.now + 4) .aopAccept [s.curCore, op]) w)
/-- `aop.red` (R288, R289). -/
def execAopRed (w : BitVec 3) (a : BitVec 5) (n : BitVec 3) (e : BitVec 1) (s : State) := aopIssue s w a n e 0
/-- `aop.cmpx` (R288, R292). -/
def execAopCmpx (w : BitVec 3) (a : BitVec 5) (n : BitVec 3) (e : BitVec 1) (s : State) := aopIssue s w a n e 1
/-- `aop.sacc` (R288, R291). -/
def execAopSacc (w : BitVec 3) (a : BitVec 5) (n : BitVec 3) (e : BitVec 1) (s : State) := aopIssue s w a n e 2
/-- `aop.dot` (R288, R290). -/
def execAopDot (w : BitVec 3) (a : BitVec 5) (n : BitVec 3) (e : BitVec 1) (s : State) := aopIssue s w a n e 3

/-- `aopAccept` [core, op] (R287). -/
def execAopAccept (s : State) : Host.Outcome State Fault Refusal :=
  let col := colOfCore (arg s 0)
  match (getCol s col).aops.find? (fun e => e.op == arg s 1 && e.accepted.isNone) with
  | none => .next s
  | some e =>
    let rest := (getCol s col).aops.filter (fun x => x.op != e.op)
    let s := modCol s col (fun c => { c with aops := insertAccepted { e with accepted := some s.now } s.now rest })
    .next (scheduleOnce s s.now .aopBegin [col])
/-- `aopBegin` [column]: the next accepted command begins once none runs and every earlier `ast` of its core has been
acknowledged (R280, R287). -/
def execAopBegin (s : State) : Host.Outcome State Fault Refusal :=
  let col := arg s 0
  let l := (getCol s col).aops
  if l.any (fun e => e.begun.isSome) then .next s
  else match l.find? (fun e => e.accepted.isSome) with
    | none => .next s
    | some e =>
      if (getCore s e.core).chim.any (fun x => !x.load && decide (x.op < e.op)) then
        .next (scheduleOnce s (s.now + 1) .aopBegin [col])
      else
        let (e', s) := e.run s col
        let s := modAop s col e.op (fun _ => { e' with begun := some s.now })
        .next (schedule s (s.now + e.cycles) .aopComplete [col])
/-- `aopComplete` [column]: the running command's results land and its watermark advances; those of an abandoned command may
land or not, and its watermark is left as it stands (R23, R287, R293). -/
def execAopComplete (s : State) : Host.Outcome State Fault Refusal :=
  let col := arg s 0
  match (getCol s col).aops.find? (fun e => e.begun.isSome) with
  | none => .next s
  | some e =>
    let live := sameTask s e.core e.slot e.inc && !e.abandoned
    let (land, s) := if e.abandoned then takeFreeBit s else (true, s)
    let (e, s) := if land then e.compare s col else (e, s)
    if live && e.fault.isSome && !recRoom s e.core e.slot then
      .next (schedule (modAop s col e.op (fun _ => e)) (s.now + 1) .aopComplete [col])
    else
      let s := if land then
          let s := e.attic.foldl (fun s w => putDword s w.1 w.2) s
          let whole := e.results.filter (fun p => p.1 % 8 == 0 && e.results.any (fun q => q.1 == p.1 + 4))
          let s := whole.foldl (fun s p => freshDword s (localPa e.core p.1)) s
          e.results.foldl (fun s p => (writeWord s (localPa e.core p.1) 4 p.2.toNat).1) s
        else s
      let s := modCol s col (fun c => { c with aops := c.aops.filter (fun x => x.op != e.op) })
      let s := if e.abandoned then skipWm s e.core e.chan e.op
        else completeWm s e.core e.slot e.op live e.chan e.flags (e.fault.map (fun p => (p.1, 4, p.2)))
      .next (scheduleOnce s s.now .aopBegin [col])

end Sys2Proof.Machine
end

