-- ==== Sys2Proof/Machine/Barrier.lean ====
section
/-! DEFINITION. Stair barriers and their trees: the instructions of major 0x3E eop 8 to 11, changes at the barrier, phases and
releases, breaks (R347 to R352, R429 to R432). -/
namespace Sys2Proof.Machine
open Sys2Proof

/-! ### Registers (Tables 15-11, 20-4) -/

def getBar (s : State) (pkg m : Nat) : Bar := (getPkg s pkg).bars.get Bar.reset m
def modBar (s : State) (pkg m : Nat) (f : Bar → Bar) : State :=
  modPkg s pkg (fun p => { p with bars := p.bars.ins m (f (p.bars.get Bar.reset m)) })
/-- The home number of a package's barrier unit. -/
def barHome (pkg : Nat) : Nat := homeNo (.unit pkg uBar 0)
/-- BSTATE (Table 15-11). -/
def Bar.bstate (b : Bar) : W64 :=
  BitVec.ofNat 64 ((BitVec.ofInt 32 b.pending).toNat * 2 ^ 32 + b.arrivals % 65536 * 65536 + b2n b.broken * 8 + b2n b.releasing * 4
    + b2n b.phase)
/-- BCFG as it reads: 0 until it is first written (Table 15-11). -/
def Bar.bcfg (b : Bar) : W64 := if b.set then BitVec.ofNat 64 (b.exp * 2 ^ 48 + b.s * 65536 + (b.ngrp - 1) * 256) else 0
/-- The parent of a barrier, and its valid children (Table 20-4). -/
def Bar.parent (b : Bar) : Option (Nat × Nat) := if bitOf b.link 63 then some (bits b.link 61 2, bits b.link 55 6) else none
def Bar.children (b : Bar) : List (Nat × Nat) :=
  (List.range 4).filterMap (fun c => if bitOf b.link (9 * c + 8) then some (bits b.link (9 * c + 6) 2, bits b.link (9 * c) 6) else none)
/-- The partition that owns a barrier, or 0. -/
def Bar.ownerRcb (b : Bar) : Nat := if bitOf b.owner 0 then bits b.owner 6 40 * 64 else 0

/-! ### Waiters -/

/-- What a waiting `bar.wait` finds: 0 it resumes, 1 it traps (R350). -/
def waiterDone (b : Bar) (f : Flight) : Option Nat :=
  if b.broken ∨ b.exp = 0 then some 1
  else if b.phase ≠ bitOf f.b 0 ∧ min (bits f.b 1 3) (b.ngrp - 1) < b.released then some 0 else none
/-- Answers every waiter whose wait is over; a release reaches its core within 8 cycles (R348). -/
def pokeWaiters (pkg m : Nat) : List Nat → State → State
  | [], s => s
  | id :: r, s =>
    let drop (s : State) : State := modBar s pkg m (fun b => { b with waiters := b.waiters.filter (· != id) })
    match flight? s id with
    | none => pokeWaiters pkg m r (drop s)
    | some f =>
      match waiterDone (getBar s pkg m) f with
      | none => pokeWaiters pkg m r s
      | some v =>
        let (d, s) := takeDelay (drop s)
        pokeWaiters pkg m r (schedule (perform s id (BitVec.ofNat 64 v) none) (s.now + d % 9) .accessReply [id])
def poke (s : State) (pkg m : Nat) : State := pokeWaiters pkg m (getBar s pkg m).waiters s

/-! ### Tokens and breaks (R430, R431) -/

/-- Sends a token from a barrier to one of its tree's nodes on another package, in virtual channel 2 (Table 20-2). -/
def sendToken (s : State) (pkg : Nat) (dst : Nat × Nat) (ev : Instr) (args : List Nat) : State :=
  send s pkg dst.1 (barHome pkg) (barHome dst.1) 5 2 8 (barHome pkg * 8192 + barHome dst.1) ev args
/-- Breaks a barrier: waiters trap, and a break token goes to its parent and children other than the sender. -/
def breakBar (s : State) (pkg m : Nat) (sender : Option (Nat × Nat)) : State :=
  let b := getBar s pkg m
  if b.broken then s
  else
    let s := poke (modBar s pkg m (fun b => { b with broken := true })) pkg m
    ((match b.parent with | some p => [p] | none => []) ++ b.children).foldl (fun s d =>
      if some d = sender then s else sendToken s pkg d .breakToken [d.1, d.2, pkg, m]) s
/-- The notice of a barrier's fault. -/
def barNotice (s : State) (pkg m : Nat) : State := faultLog s (getBar s pkg m).ownerRcb pkg 0x13 0 0x7FF 0 0

/-- Whether a phase's conditions hold (R348). -/
def Bar.met (b : Bar) : Bool := b.exp != 0 && !b.broken && b.arrivals == b.exp && b.pending == 0 && !b.releasing
def checkPhase (s : State) (pkg m : Nat) : State := if (getBar s pkg m).met then soon s .barrierPhaseComplete [pkg, m] else s
/-- What a change made of a barrier: whether its sender has a fault. -/
def barChange (s : State) (pkg m : Nat) (v : Int) (arrival : Bool) : Bool × State :=
  let b := getBar s pkg m
  if b.exp = 0 then (true, barNotice s pkg m)
  else if b.broken then (false, s)
  else if b.pending + v < -2 ^ 31 ∨ 2 ^ 31 - 1 < b.pending + v ∨ (arrival ∧ b.exp < b.arrivals + 1) then
    (true, barNotice (breakBar s pkg m none) pkg m)
  else (false, checkPhase (modBar s pkg m (fun b => { b with
    pending := b.pending + v, arrivals := if arrival then b.arrivals + 1 else b.arrivals })) pkg m)

/-- A change of a slot performed at the barrier, and its reply. -/
def changeAtHome (s : State) (id : Nat) (ev : Instr) (arrival : Bool) : State :=
  match flight? s id with
  | none => s
  | some f =>
    if waitsBehind s id f then holdAtHome s id ev
    else
      let (bad, s) := barChange s (pkgOfHome f.home) f.seqNo (BitVec.ofNat 32 f.b.toNat).toInt arrival
      replyTo (perform s id 0 (if bad then some (0x13, 0, BitVec.ofNat 64 f.seqNo) else none)) id f .accessReply
/-- `barrierArrival` [access] (R350). -/
def execBarrierArrival (s : State) : Host.Outcome State Fault Refusal := .next (changeAtHome s (arg s 0) .barrierArrival true)
/-- `barrierExpect` [access] (R350). -/
def execBarrierExpect (s : State) : Host.Outcome State Fault Refusal := .next (changeAtHome s (arg s 0) .barrierExpect false)
/-- `barrierDecrement` [pkg, bar, bytes]: bytes an engine has landed (R350). -/
def execBarrierDecrement (s : State) : Host.Outcome State Fault Refusal :=
  .next (barChange s (arg s 0 % 4) (arg s 1 % 64) (-(arg s 2 : Int)) false).2

/-! ### Phases (R348, R430) -/

/-- A barrier completes its phase: PHASE inverted, its groups released S cycles apart, tokens to its children. -/
def completePhase (s : State) (pkg m : Nat) (keep : Bool) : State :=
  let b := getBar s pkg m
  let s := modBar s pkg m (fun b => { b with
    phase := !b.phase, arrivals := if keep then b.arrivals else 0, releasing := true, released := 0 })
  let s := (List.range b.ngrp).foldl (fun s g => schedule s (s.now + g * b.s) .barrierGroupRelease [pkg, m, g]) s
  let s := schedule s (s.now + (b.ngrp - 1) * b.s + 9) .barrierWindowClose [pkg, m]
  b.children.foldl (fun s d => sendToken s pkg d .releaseToken [d.1, d.2]) s
/-- `barrierPhaseComplete` [pkg, bar]: a barrier with a parent sends its arrival token instead; the groups released for the phase
that still stands stay released (R348, R350, R430). -/
def execBarrierPhaseComplete (s : State) : Host.Outcome State Fault Refusal :=
  let pkg := arg s 0 % 4
  let m := arg s 1 % 64
  let b := getBar s pkg m
  if !b.met then .next s
  else match b.parent with
    | none => .next (completePhase s pkg m false)
    | some p => .next (sendToken (modBar s pkg m (fun b => { b with arrivals := 0, releasing := true })) pkg p .arrivalToken [p.1, p.2])
/-- `barrierGroupRelease` [pkg, bar, group] (R348). -/
def execBarrierGroupRelease (s : State) : Host.Outcome State Fault Refusal :=
  let pkg := arg s 0 % 4
  let m := arg s 1 % 64
  if !(getBar s pkg m).releasing then .next s
  else .next (poke (modBar s pkg m (fun b => { b with released := max b.released (arg s 2 + 1) })) pkg m)
/-- `barrierWindowClose` [pkg, bar]: RELEASING returned to 0 at the end of the cycle before (R348). -/
def execBarrierWindowClose (s : State) : Host.Outcome State Fault Refusal :=
  let pkg := arg s 0 % 4
  let m := arg s 1 % 64
  .next (checkPhase (modBar s pkg m (fun b => { b with releasing := false })) pkg m)
/-- `arrivalToken` [pkg, bar]: a child's token is one arrival with 0 bytes (R430). -/
def execArrivalToken (s : State) : Host.Outcome State Fault Refusal :=
  .next (barChange s (arg s 0 % 4) (arg s 1 % 64) 0 true).2
/-- `releaseToken` [pkg, bar]: the parent has completed, and the child completes, its ARRIVALS left as they stand (R430). -/
def execReleaseToken (s : State) : Host.Outcome State Fault Refusal :=
  let pkg := arg s 0 % 4
  let m := arg s 1 % 64
  if (getBar s pkg m).broken then .next s else .next (completePhase s pkg m true)
/-- `breakToken` [pkg, bar, from package, from bar] (R431). -/
def execBreakToken (s : State) : Host.Outcome State Fault Refusal :=
  .next (breakBar s (arg s 0 % 4) (arg s 1 % 64) (some (arg s 2, arg s 3)))

/-! ### Configuration (R347, R429) -/

/-- A barrier with its phase state cleared, and its releases and window forgotten. -/
def resetBar (s : State) (pkg m : Nat) (f : Bar → Bar) : State :=
  let s := { s with agenda := s.agenda.filter (fun p => !((p.2.1 == .barrierGroupRelease || p.2.1 == .barrierWindowClose) &&
    p.2.2.take 2 == [pkg, m])) }
  poke (modBar s pkg m (fun b => f { b with
    phase := false, arrivals := 0, pending := 0, releasing := false, broken := false, released := 0 })) pkg m
/-- A write of BCFG (R347). -/
def writeBcfg (s : State) (pkg m : Nat) (v : W64) : State :=
  resetBar s pkg m (fun b => { b with set := true, exp := bits v 48 16, s := max 4 (min 1024 (bits v 16 11)), ngrp := bits v 8 3 + 1 })
/-- A write of BLINK (R429). -/
def writeBlink (s : State) (pkg m : Nat) (v : W64) : State :=
  resetBar s pkg m (fun b => { b with link := v &&& 0xFF80000FFFFFFFFF })
/-- `bcfgWrite` [pkg, bar, value]. -/
def execBcfgWrite (s : State) : Host.Outcome State Fault Refusal := .next (writeBcfg s (arg s 0 % 4) (arg s 1 % 64) (argW s 2))
/-- `blinkWrite` [pkg, bar, value]. -/
def execBlinkWrite (s : State) : Host.Outcome State Fault Refusal := .next (writeBlink s (arg s 0 % 4) (arg s 1 % 64) (argW s 2))

/-! ### The instructions (R349 to R351) -/

/-- The checks before a barrier instruction: the core's mask, a recorded fault of the slot. -/
def barGate (s : State) (m : Nat) : Option State :=
  if !bitOf (myCore s).barmask m then some (trapHere s 0x13 0 (BitVec.ofNat 64 m))
  else match (me s).barFaults with
    | b :: r => some (trapHere (modMe s (fun t => { t with barFaults := r })) 0x13 0 (BitVec.ofNat 64 b))
    | [] => none
/-- An access of the issuing slot to a barrier. -/
def barFlight (s : State) (kind : AccKind) (m : Nat) (b : W64) : Flight :=
  { newFlight s kind (barHome (pkgOfCore s.curCore)) 0 (dieWin (pkgOfCore s.curCore) uBar (32 * m + 16)) 8 0 with seqNo := m, b := b }
/-- `bar.arrive`: sent once all earlier accesses of the task are performed; the task goes on (R350, R351). -/
def execBarArrive (w : BitVec 3) (a : BitVec 5) (m : BitVec 6) (s : State) : Host.Outcome State Fault Refusal :=
  match barGate s m.toNat with
  | some s => .next s
  | none => .next (retire (issueFlight s (barFlight s .barArrive m.toNat (xr s a))).2 w)
/-- `bar.expect` (R350). -/
def execBarExpect (w : BitVec 3) (a : BitVec 5) (m : BitVec 6) (s : State) : Host.Outcome State Fault Refusal :=
  match barGate s m.toNat with
  | some s => .next s
  | none => .next (retire (issueFlight s (barFlight s .barExpect m.toNat (xr s a))).2 w)
/-- Sends a barrier request whose answer its instruction waits for. -/
def barRequest (s : State) (f : Flight) : State :=
  let (id, s) := issueFlight s f
  stallMe (modMe s (fun t => { t with request := some id }))
def barAnswered (s : State) : State := modMe s (fun t => { t with request := none, replied := none })
/-- `bar.wait` (R350). -/
def execBarWait (w : BitVec 3) (a : BitVec 5) (m : BitVec 6) (s : State) : Host.Outcome State Fault Refusal :=
  match (me s).request, (me s).replied with
  | some _, some v => if v = 0 then .next (retire (barAnswered s) w)
    else .next (trapHere (barAnswered s) 0x13 0 (m.setWidth 64))
  | some _, none => .next (stallMe s)
  | none, _ =>
    match barGate s m.toNat with
    | some s => .next s
    | none => .next (barRequest s (barFlight s .barWait m.toNat (xr s a)))
/-- `bar.try` (R349, R350). -/
def execBarTry (w : BitVec 3) (d : BitVec 5) (m : BitVec 6) (s : State) : Host.Outcome State Fault Refusal :=
  match (me s).request, (me s).replied with
  | some _, some v =>
    let s := barAnswered s
    .next (retire (wx s d 2 v) w)
  | some _, none => .next (stallMe s)
  | none, _ =>
    match barGate s m.toNat with
    | some s => .next s
    | none => .next (barRequest s (barFlight s .barTry m.toNat 0))

/-- A `bar.wait` or `bar.try` request reaches the barrier. -/
def waitAtBarrier (s : State) (id : Nat) (f : Flight) : State :=
  let pkg := pkgOfHome f.home
  match f.kind with
  | .barTry => replyTo (perform s id (getBar s pkg f.seqNo).bstate none) id f .accessReply
  | _ => poke (modBar s pkg f.seqNo (fun b => { b with waiters := b.waiters ++ [id] })) pkg f.seqNo

end Sys2Proof.Machine
end

