-- ==== Sys2Proof/Machine/Journal.lean ====
section
/-! DEFINITION. The intake ports' journals: acceptance of seeds, their states and their reports (R306, R382 to R385, R440). -/
namespace Sys2Proof.Machine
open Sys2Proof

/-! ### Registers and places of a port (Tables 14-4, 18-1, R382) -/

def ajReg (pkg p : Nat) : Nat := ccWin pkg (0x100 + 64 * p)
def cjReg (pkg p : Nat) : Nat := ccWin pkg (0x108 + 64 * p)
def jnextReg (pkg p : Nat) : Nat := ccWin pkg (0x110 + 64 * p)
def jconsReg (pkg p : Nat) : Nat := ccWin pkg (0x118 + 64 * p)
def jstatReg (pkg p : Nat) : Nat := ccWin pkg (0x120 + 64 * p)
def portStatReg (pkg p : Nat) : Nat := dieWin pkg uFoyer (0x48 + 16 * p)
def jnext (s : State) (pkg p : Nat) : Nat := bits (getReg s (jnextReg pkg p)) 0 24
def nextrep (s : State) (pkg p : Nat) : Nat := bits (getReg s (jstatReg pkg p)) 40 24
def seedMod : Nat := 2 ^ 24
/-- The entries of a port's journals. -/
def journalN (s : State) (pkg p : Nat) : Nat := 2 ^ (10 + bits (getReg s (ajReg pkg p)) 32 4)
def ajOff (s : State) (pkg p : Nat) : Nat := bits (getReg s (ajReg pkg p)) 6 26 * 64
def cjOff (s : State) (pkg p : Nat) : Nat := bits (getReg s (cjReg pkg p)) 4 28 * 16
/-- Whether both journals of a port are in place (R440). -/
def journalsIn (s : State) (pkg p : Nat) : Bool :=
  let n := journalN s pkg p
  decide (0x1000000 ≤ ajOff s pkg p) && decide (ajOff s pkg p + 64 + 16 * n ≤ 2 ^ 32) &&
    decide (0x1000000 ≤ cjOff s pkg p) && decide (cjOff s pkg p + 16 * n ≤ 2 ^ 32)
/-- The acceptance entry and the completion entry of a sequence number. -/
def ajEntry (s : State) (pkg p q : Nat) : Nat := cohPa pkg (ajOff s pkg p + 64 + 16 * (q % journalN s pkg p))
def cjEntry (s : State) (pkg p q : Nat) : Nat := cohPa pkg (cjOff s pkg p + 16 * (q % journalN s pkg p))
/-- Whether the poison table of the channel that a GDDR-7 address lies on holds its 4,096 granules (R330, R332). -/
def poisonFull (s : State) (pkg pa : Nat) : Bool :=
  let chan (x : Nat) : Nat := x % 0xC00000000 / 256 % 48
  decide (4096 ≤ ((getPkg s pkg).poison.filter (fun g => chan (32 * g) == chan pa)).length)
/-- Whether a journal write to a word of the window's memory is performed: its granule is not uncorrectable, and its channel's
poison table is not full (R332, R383). -/
def cohWritable (s : State) (pkg pa : Nat) : Bool := !(getPkg s pkg).poison.contains (pa / 32) && !poisonFull s pkg pa

def getPort (s : State) (pkg p : Nat) : Port := vget Port.reset (getPkg s pkg).ports p
def modPort (s : State) (pkg p : Nat) (f : Port → Port) : State :=
  modPkg s pkg (fun q => { q with ports := vset q.ports p (f (vget Port.reset q.ports p)) })
def findSeed (s : State) (pkg p q : Nat) : Option SeedEnt := (getPort s pkg p).seeds.find? (fun e => e.seq == q)

/-- The state of a port, from that of the launch it is bound to (Table 14-6): 0 CLOSED, 1 BUSY_CFG, 2 OPEN, 3 HALTED. -/
def portState (s : State) (pkg p : Nat) : Nat :=
  match (getPort s pkg p).part with
  | none => 0
  | some rcb => match findPart s rcb with
    | none => 0
    | some r => if r.state ≤ 2 then 1 else if r.state = 3 then 2 else 3

/-! ### The states of seeds -/

/-- Changes a seed's record, in the port and in its acceptance entry (R382). -/
def modSeed (s : State) (pkg p q : Nat) (f : SeedEnt → SeedEnt) : State :=
  match findSeed s pkg p q with
  | none => s
  | some e =>
    let e' := f e
    let s := modPort s pkg p (fun r => { r with seeds := r.seeds.map (fun x => if x.seq = q then e' else x) })
    if journalsIn s pkg p then
      let a := ajEntry s pkg p q + 8
      wr64 s a (setBits (setBits (rd64 s a) 16 8 e'.state) 24 8 e'.attempt)
    else s
/-- Writes BINDERR of a seed's acceptance entry (R382, R386). -/
def seedBindErr (s : State) (pkg p q err : Nat) : State :=
  if journalsIn s pkg p then
    let a := ajEntry s pkg p q + 8
    wr64 s a (setBits (rd64 s a) 8 8 err)
  else s
/-- The first commit of a slot's seed task has been performed: its seed is committed (R385). -/
def commitSeed (s : State) (core slot : Nat) (inc : BitVec 8) : State :=
  if sameTask s core slot inc then
    match (getSlot s core slot).origin with
    | some (.seed pkg p q) => (match findSeed s pkg p q with
      | some e => if e.state = 2 then modSeed s pkg p q (fun e => { e with state := 3 }) else s
      | none => s)
    | _ => s
  else s

/-- How far a sequence number lies above NEXTREP, modulo 2 to the 24. -/
def seqAbove (s : State) (pkg p q : Nat) : Nat := (q + seedMod - nextrep s pkg p) % seedMod
/-- Puts a seed among those waiting to be bound, in sequence order (R17, R385). -/
def queueSeed (s : State) (pkg p q : Nat) : State :=
  modPort s pkg p (fun r => { r with
    queue := r.queue.filter (fun x => decide (seqAbove s pkg p x < seqAbove s pkg p q)) ++
      q :: r.queue.filter (fun x => decide (seqAbove s pkg p q < seqAbove s pkg p x)) })

/-- What becomes of a seed whose task is ended by a column fault or a drain (R385). -/
def seedEnded (s : State) (pkg p q cause : Nat) : State :=
  match findSeed s pkg p q with
  | none => s
  | some e =>
    if e.state = 2 then
      if 3 ≤ e.attempt then completeSeed s pkg p q 2 0x41 0 0
      else soon (queueSeed (modSeed s pkg p q (fun e => { e with attempt := e.attempt + 1 })) pkg p q) .bindSeedTask [pkg, p]
    else if e.state = 3 ∧ !portMode s pkg p then completeSeed s pkg p q 2 cause 0 0 else s

/-! ### Acceptance (R383) -/

/-- PORTSTAT after a seed has been dealt with. -/
def portResult (s : State) (pkg p q res : Nat) : State :=
  setReg s (portStatReg pkg p) (BitVec.ofNat 64 (q * 2 ^ 40 + res * 256))
/-- A refusal by the journal. -/
def refuseSeed (s : State) (pkg p q why : Nat) : State :=
  let s := portResult s pkg p q 3
  let s := setReg s (jstatReg pkg p) (setBits (getReg s (jstatReg pkg p)) 8 8 why)
  setReg s (ccWin pkg 0) (getReg s (ccWin pkg 0) ||| 8)

/-- A seed token written to a port (R306, R383). -/
def acceptSeed (s : State) (pkg p : Nat) (v : W64) : State :=
  let s := setReg s (dieWin pkg uFoyer (0x40 + 16 * p)) v
  let q := bits v 40 24
  let st := portState s pkg p
  if st = 0 then portResult s pkg p q 2
  else if st = 1 then portResult s pkg p q 1
  else
    let n := journalN s pkg p
    let nx := jnext s pkg p
    if !journalsIn s pkg p then refuseSeed s pkg p q 4
    else if q = nx then
      let a := ajEntry s pkg p q
      let h := cohPa pkg (ajOff s pkg p)
      if n ≤ (nx + seedMod - bits (getReg s (jconsReg pkg p)) 0 24) % seedMod then refuseSeed s pkg p q 3
      else if !cohWritable s pkg a || !cohWritable s pkg h then refuseSeed s pkg p q 4
      else
        let nq := (q + 1) % seedMod
        let s := wr64 (wr64 s a v) (a + 8) (BitVec.ofNat 64 (timeBase s pkg / 4 % 2 ^ 32 * 2 ^ 32 + 2 ^ 16))
        let s := wr64 s h (BitVec.ofNat 64 nq)
        let s := setReg s (jnextReg pkg p) (BitVec.ofNat 64 nq)
        let s := modPort s pkg p (fun r => { r with
          seeds := r.seeds ++ [{ seq := q, token := v, state := 1, attempt := 0, ready := s.now + 5, done := none }] })
        schedule (queueSeed (portResult s pkg p q 0) pkg p q) (s.now + 5) .bindSeedTask [pkg, p]
    else if 1 ≤ (nx + seedMod - q) % seedMod ∧ (nx + seedMod - q) % seedMod ≤ n then refuseSeed s pkg p q 1
    else refuseSeed s pkg p q 2

/-- `portseed` [pkg, port, value] (R383). -/
def execPortseed (s : State) : Host.Outcome State Fault Refusal := .next (acceptSeed s (arg s 0 % 4) (arg s 1 % 4) (argW s 2))

/-! ### Completion (R384) -/

/-- Reports seeds in sequence order from NEXTREP on, as far as they have completed. -/
def reportSeeds (pkg p : Nat) : Nat → State → State
  | 0, s => s
  | n + 1, s =>
    let q := nextrep s pkg p
    match findSeed s pkg p q with
    | none => s
    | some e =>
      match e.done with
      | none => s
      | some (su, cause, v) =>
        let nq := (q + 1) % seedMod
        let s := modSeed s pkg p q (fun e => { e with state := 4 })
        let a := cjEntry s pkg p q
        let s := wr64 s a (BitVec.ofNat 64 (q * 2 ^ 40 + cause % 256 * 2 ^ 32 + su / 16 % 4 * 2 ^ 30 + su % 16 * 2 ^ 24))
        let s := wr64 s (a + 8) v
        let s := setReg s (jstatReg pkg p) (setBits (getReg s (jstatReg pkg p)) 40 24 nq)
        let s := wr64 s (cohPa pkg (ajOff s pkg p + 8)) (BitVec.ofNat 64 nq)
        let s := setReg s (ccWin pkg 0) (getReg s (ccWin pkg 0) ||| 2)
        let s := modPort s pkg p (fun r => { r with seeds := r.seeds.filter (fun x => x.seq != q), queue := r.queue.filter (· != q) })
        reportSeeds pkg p n s
/-- `seedReport` [pkg, port] (R384). -/
def execSeedReport (s : State) : Host.Outcome State Fault Refusal :=
  let pkg := arg s 0 % 4
  let p := arg s 1 % 4
  .next (if journalsIn s pkg p then reportSeeds pkg p (getPort s pkg p).seeds.length s else s)

/-- A write of PORTDONE by a core, or by the application cores with `src` 2048 (R384). An ignored one is a notice for the
writing core's partition, or, written by the application cores, for the partition the port is bound to (R380, R441). -/
def portDone (s : State) (pkg p src : Nat) (v : W64) : State :=
  let q := bits v 40 24
  let part := (getPort s pkg p).part
  let ok := portMode s pkg p && part.isSome &&
    (decide (2048 ≤ src) || part.map (partOf s) == some (partOfCore s src)) &&
    (match findSeed s pkg p q with | some e => e.done.isNone && decide (1 ≤ e.state) && decide (e.state ≤ 3) | none => false)
  if ok then completeSeed s pkg p q (if bits v 32 8 = 0 then 1 else 2) (bits v 32 8) 0 0
  else faultLog s (if src < 2048 then partOfCore s src else part.getD 0) pkg 0x43 8 (if src < 2048 then src else 0x7FF) 0 v
/-- `portdone` [pkg, port, src, value]. -/
def execPortdone (s : State) : Host.Outcome State Fault Refusal := .next (portDone s (arg s 0 % 4) (arg s 1 % 4) (arg s 2) (argW s 3))

/-- A write of JCONS: a value above NEXTREP sets it to NEXTREP (R383). -/
def writeJcons (s : State) (pkg p : Nat) (v : W64) : State :=
  let k := bits v 0 24
  let up := seqAbove s pkg p k
  setReg s (jconsReg pkg p) (BitVec.ofNat 64 (if 1 ≤ up ∧ up < 2 ^ 23 then nextrep s pkg p else k))
/-- `jcons` [pkg, port, value]. -/
def execJcons (s : State) : Host.Outcome State Fault Refusal := .next (writeJcons s (arg s 0 % 4) (arg s 1 % 4) (argW s 2))

/-- A write of AJBASE: taken while the port is CLOSED and the fields lie in range; MODE is not written (R440). -/
def writeAjbase (s : State) (pkg p : Nat) (v : W64) : State :=
  if portState s pkg p = 0 ∧ 0x1000000 ≤ bits v 6 26 * 64 ∧ bits v 32 4 ≤ 6 then
    let r := ajReg pkg p
    setReg s r ((getReg s r &&& 0x10000000000) ||| (v &&& 0xFFFFFFFC0))
  else s
/-- `ajbase` [pkg, port, value]. -/
def execAjbase (s : State) : Host.Outcome State Fault Refusal := .next (writeAjbase s (arg s 0 % 4) (arg s 1 % 4) (argW s 2))
/-- A write of CJBASE (R440). -/
def writeCjbase (s : State) (pkg p : Nat) (v : W64) : State :=
  if portState s pkg p = 0 ∧ 0x1000000 ≤ bits v 4 28 * 16 then setReg s (cjReg pkg p) (v &&& 0xFFFFFFF0) else s
/-- `cjbase` [pkg, port, value]. -/
def execCjbase (s : State) : Host.Outcome State Fault Refusal := .next (writeCjbase s (arg s 0 % 4) (arg s 1 % 4) (argW s 2))

end Sys2Proof.Machine
end

