-- ==== Sys2Proof/Machine/Corridor.lean ====
section
/-! DEFINITION. Corridors: the slot state machine at the home, the instructions of major 0x3C eop 0 to 5, and the flush rule
(R253 to R270). -/
namespace Sys2Proof.Machine
open Sys2Proof

/-! ### The ring at its home (R255 to R257) -/

def corr? (s : State) (k : Nat) : Option Corr := s.corrs.find k
def modCorr (s : State) (k : Nat) (f : Corr → Corr) : State :=
  match s.corrs.find k with
  | some c => { s with corrs := s.corrs.ins k (f c) }
  | none => s
/-- Sequence numbers count modulo 2 to the 32 (R256). -/
def seqNext (q : Nat) : Nat := (q + 1) % 2 ^ 32
def seqDist (a b : Nat) : Nat := (b + 2 ^ 32 - a) % 2 ^ 32
def Corr.idx (c : Corr) (q : Nat) : Nat := q % 2 ^ 32 % c.slots
def Corr.slot (c : Corr) (q : Nat) : QSlot := c.ring.get ⟨.free, 0, 0⟩ (c.idx q)
def Corr.put (c : Corr) (q : Nat) (v : QSlot) : Corr := { c with ring := c.ring.ins (c.idx q) v }
def Corr.setSt (c : Corr) (q : Nat) (st : QSt) : Corr := c.put q { c.slot q with st := st }
/-- Local byte address of a sequence number's slot (R253). -/
def Corr.addr (c : Corr) (q : Nat) : Nat := c.base + c.size * c.idx q
/-- Physical address of a slot's header. -/
def Corr.hdr (c : Corr) (q : Nat) : Nat := localPa c.home (c.addr q)
/-- Whether a corridor is broken: its home core is out of service (R272). -/
def corrBroken (s : State) (c : Corr) : Bool := c.broken || !inSvc s c.home

/-- Whether sequence number `q`, at or above PP, lies below HP. -/
def Corr.belowHp (c : Corr) (q : Nat) : Bool := decide (seqDist c.pp q < seqDist c.pp c.hp)
/-- The slot that the next pop takes, from `q` on: VOID slots are passed over, and below HP slots in POP or REL (R256). -/
def Corr.firstPop (c : Corr) : Nat → Nat → Option Nat
  | 0, _ => none
  | n + 1, q =>
    if q = c.rp then none
    else match (c.slot q).st with
      | .cmt => some q
      | .void => c.firstPop n (seqNext q)
      | .pop => if c.belowHp q then c.firstPop n (seqNext q) else none
      | .rel => if c.belowHp q then c.firstPop n (seqNext q) else none
      | _ => none
/-- The filled count (R256). -/
def Corr.filledFrom (c : Corr) : Nat → Nat → Nat
  | 0, _ => 0
  | n + 1, q =>
    if q = c.rp then 0
    else match (c.slot q).st with
      | .cmt => 1 + c.filledFrom n (seqNext q)
      | .void => c.filledFrom n (seqNext q)
      | .pop => if c.belowHp q then c.filledFrom n (seqNext q) else 0
      | .rel => if c.belowHp q then c.filledFrom n (seqNext q) else 0
      | _ => 0
def Corr.filled (c : Corr) : Nat := c.filledFrom c.slots c.pp
/-- The free count (R256). -/
def Corr.freeCount (c : Corr) : Nat := c.slots - seqDist c.lf c.rp

/-- PP moved to `q`; HP follows where PP has passed it (R256, R257). -/
def Corr.moveTo (c : Corr) (q : Nat) : Corr :=
  { c with pp := q, hp := if seqDist c.pp c.hp < seqDist c.pp q then q else c.hp }
/-- VOID slots from PP up to `q` are passed and go to REL. -/
def Corr.passVoid (c : Corr) (q : Nat) : Nat → Nat → Corr
  | 0, _ => c
  | n + 1, p => if p = q then c else ((if (c.slot p).st = .void then c.setSt p .rel else c).passVoid q n (seqNext p))

/-- A slot's header as the home writes it at a commit (Table 11-2). -/
def putHeader (s : State) (c : Corr) (q marks mtag user len : Nat) (token : W64) (link : Option (Nat × Nat)) : State :=
  let a := c.hdr q
  let s := putDword s a (BitVec.ofNat 64 (q % 2 ^ 32 * 2 ^ 32 + mtag * 2 ^ 16 + marks))
  let s := putDword s (a + 8) (BitVec.ofNat 64 (user % 2 ^ 32 * 2 ^ 32 + len % 2 ^ 32))
  let s := putDword s (a + 16) token
  putDword s (a + 24) (match link with
    | some (seq, oid) => BitVec.ofNat 64 (seq % 2 ^ 32 * 2 ^ 32 + oid % 256 * 2 ^ 24 + 1)
    | none => 0)
/-- Marks written again when a flush changes them. -/
def putMarks (s : State) (c : Corr) (q bit : Nat) : State :=
  putDword s (c.hdr q) (setBits (dwordAt s (c.hdr q)) bit 1 1)

/-- The consumer endpoint of a corridor at its home core. -/
def consumerEp (s : State) (k : Nat) (c : Corr) : Option Nat :=
  (List.range 8).find? (fun n => match vget none (getCore s c.home).ep n with
    | some e => e.cons && e.corr == k
    | none => false)
/-- The drain of a corridor's home column, if one stands there for its partition. -/
def drainAt (s : State) (c : Corr) : Option Drain :=
  match (getCol s (colOfCore c.home)).drain with
  | some d => if d.rcb = partOf s c.rcb then some d else none
  | none => none
/-- Begins the drain of a column of a partition, with its allowance (R266, R322). -/
def beginDrain (s : State) (col rcb : Nat) (source : Bool) : State :=
  if (getCol s col).drain.isSome then s
  else
    let s := modCol s col (fun c => { c with
      drain := some { rcb := rcb, source := source, met := [], ended := false, forwarded := 0 } })
    let allow := match findPart s rcb with
      | some p => p.drain * 1024
      | none => 0
    soon (schedule s (s.now + allow) .drainAllowanceExpiry [col]) .drainEnd [col]
/-- Whether a partition is draining (Table 14-6). -/
def draining (s : State) (part : Nat) : Bool :=
  match findPart s part with
  | some p => p.state == 4
  | none => false
/-- The task slots of a column that hold a task of a partition, with their cores. -/
def colSlots (s : State) (col part : Nat) : List (Nat × Nat) :=
  (List.range 64).filterMap (fun i =>
    let core := coreAt col (i / 4)
    let t := getSlot s core (i % 4)
    if t.st ≠ .free ∧ partOf s t.part = part then some (core, i % 4) else none)
/-- A DRAUGHT slot at PP meets the column's drain: it goes to REL and its endpoint has met it (R257, R266). -/
def meetDraught (s : State) (k q : Nat) (c : Corr) : State :=
  let s := modCorr s k (fun c => (c.setSt q .rel).moveTo (seqNext q))
  let col := colOfCore c.home
  let s := match consumerEp s k c with
    | some n => modCol s col (fun o => { o with drain := o.drain.map (fun d =>
        { d with met := if d.met.contains (c.home, n) then d.met else (c.home, n) :: d.met }) })
    | none => s
  soon s .drainEnd [col]

/-- What follows any change of a ring: PP passes VOID slots, and below HP slots in REL, which the pops pass over anyway; DRAUGHT
slots at PP meet the column's drain, LF passes REL slots, and waiting reservations are granted (R256, R257). -/
def settlePp (k : Nat) : Nat → State → State
  | 0, s => s
  | n + 1, s =>
    match corr? s k with
    | none => s
    | some c =>
      if c.pp = c.rp then s
      else match (c.slot c.pp).st with
        | .void => settlePp k n (modCorr s k (fun c => (c.setSt c.pp .rel).moveTo (seqNext c.pp)))
        | .rel => if c.belowHp c.pp then settlePp k n (modCorr s k (fun c => c.moveTo (seqNext c.pp))) else s
        | .cmt =>
          let col := colOfCore c.home
          let part := partOf s c.rcb
          if !bitOf (dwordAt s (c.hdr c.pp)) 2 then s
          else if (drainAt s c).isSome then settlePp k n (meetDraught s k c.pp c)
          else if draining s part ∧ colSlots s col part = [] then
            settlePp k n (meetDraught (beginDrain s col part false) k c.pp c)
          else s
        | _ => s
def Corr.advanceLf (c : Corr) : Nat → Corr
  | 0 => c
  | n + 1 => if c.lf ≠ c.rp ∧ (c.slot c.lf).st = .rel then
      ({ c.put c.lf ⟨.free, 0, 0⟩ with lf := seqNext c.lf }).advanceLf n else c
def settle (s : State) (k : Nat) : State :=
  let s := settlePp k 128 s
  let s := modCorr s k (fun c => c.advanceLf c.slots)
  match corr? s k with
  | some c => if c.waiting ≠ [] ∧ (c.slot c.rp).st = .free then soon s .reservationGrant [k] else s
  | none => s

/-! ### Reservations, commits and releases as the home performs them -/

/-- Grants the reservation at the head of those waiting, if the slot at RP is FREE (R257, R260). A `qmark` or a DRAUGHT
mark is committed at once. -/
def grantOne (s : State) (k : Nat) : Option State :=
  match corr? s k with
  | none => none
  | some c =>
    match c.waiting with
    | [] => none
    | id :: rest =>
      match flight? s id with
      | none => some (modCorr s k (fun c => { c with waiting := rest }))
      | some f =>
        if (c.slot c.rp).st ≠ .free ∨ corrBroken s c ∨ (c.stopped ≠ [] ∧ f.kind ≠ .draughtMark) then none
        else
          let q := c.rp
          let take (st : QSt) (s : State) : State :=
            modCorr s k (fun c => { c.put q ⟨st, 0, 0⟩ with rp := seqNext q, waiting := rest })
          match f.kind with
          | .qrsv =>
            let s := take .rsv s
            let s := modSlot s f.core f.slot (fun t => { t with holdR := t.holdR.ins f.waitc q })
            some (replyTo (perform s id (BitVec.ofNat 64 q) none) id f .accessReply)
          | .qmark =>
            let s := putHeader (take .cmt s) c q (bits f.b 0 8) (bits f.b 8 8) 0 0 0 none
            let s := commitSeed s f.core f.slot f.inc
            some (settle (replyTo (perform s id (BitVec.ofNat 64 q) none) id f .accessReply) k)
          | _ =>
            let s := putHeader (take .cmt s) c q 4 0 0 0 0 none
            let s := { s with flights := s.flights.del id }
            some (soon (settle s k) .draughtForward [colOfCore f.core])
def grantAll (k : Nat) : Nat → State → State
  | 0, s => s
  | n + 1, s => match grantOne s k with
    | some s => grantAll k n s
    | none => s
/-- `reservationGrant [corr]`: the home grants reservations while the slot at RP is FREE (R260, R262). -/
def execReservationGrant (s : State) : Host.Outcome State Fault Refusal := .next (grantAll (arg s 0) 64 s)

/-- `reservationAtHome [access]`: a reservation reaches its home and waits its turn there (R260, R263). -/
def execReservationAtHome (s : State) : Host.Outcome State Fault Refusal :=
  let id := arg s 0
  match flight? s id with
  | none => .next s
  | some f =>
    if waitsBehind s id f then .next (holdAtHome s id .reservationAtHome)
    else
      let s := modFlight s id (fun f => { f with heldAt := 0 })
      .next (soon (modCorr s f.corr (fun c => { c with waiting := c.waiting ++ [id] })) .reservationGrant [f.corr])

/-- Commits a reserved slot with the marks attached to it (R257, R260). -/
def commitSlot (s : State) (k q user len : Nat) (token : W64) (link : Option (Nat × Nat)) : State :=
  match corr? s k with
  | none => s
  | some c =>
    if (c.slot q).st ≠ .rsv ∨ corrBroken s c then s
    else
      let s := putHeader s c q (c.slot q).marks.toNat (c.slot q).mtag.toNat user len token link
      settle (modCorr s k (fun c => c.setSt q .cmt)) k
/-- Releases a popped slot (R257). -/
def releaseSlot (s : State) (k q : Nat) : State :=
  match corr? s k with
  | none => s
  | some c => if (c.slot q).st = .pop then settle (modCorr s k (fun c => c.setSt q .rel)) k else s

/-- `commitAtHome [access]`: a commit is performed; the acknowledgement carries the release of a linked input (R257,
R267). -/
def execCommitAtHome (s : State) : Host.Outcome State Fault Refusal :=
  let id := arg s 0
  match flight? s id with
  | none => .next s
  | some f =>
    if waitsBehind s id f then .next (holdAtHome s id .commitAtHome)
    else
      let link := match f.link with
        | some (k, q) => (corr? s k).map (fun c => (q, c.id))
        | none => none
      let s := commitSlot s f.corr f.seqNo (bits f.b 32 32) (bits f.b 0 32) f.c link
      let s := commitSeed s f.core f.slot f.inc
      .next (replyTo (perform s id 0 none) id f (if f.link.isSome then .linkedRelease else .accessReply))
/-- `releaseAtHome [access]`: a `qrel` is performed (R257, R270). -/
def execReleaseAtHome (s : State) : Host.Outcome State Fault Refusal :=
  let id := arg s 0
  match flight? s id with
  | none => .next s
  | some f =>
    if waitsBehind s id f then .next (holdAtHome s id .releaseAtHome)
    else .next (replyTo (perform (releaseSlot s f.corr f.seqNo) id 0 none) id f .accessReply)
/-- `linkedRelease [access]`: the input slot of a linked `qpush` is released once its commit has been performed (R267). -/
def execLinkedRelease (s : State) : Host.Outcome State Fault Refusal :=
  let id := arg s 0
  match flight? s id with
  | none => .next s
  | some f =>
    let s := match f.link with
      | some (k, q) => releaseSlot s k q
      | none => s
    .next (takeReply s id)

/-! ### The instructions (R258 to R262) -/

/-- A CORRIDOR trap (R259). -/
def corrTrap (s : State) (n eop reason : Nat) : State :=
  trapHere s 0x0D 0 (BitVec.ofNat 64 (n + eop * 256 + reason * 65536))
/-- The check of an endpoint's binding (R259, reasons 1 and 8). -/
def epGate (s : State) (n eop : Nat) (cons : Bool) : Except State (Nat × Corr) :=
  match vget none (myCore s).ep n with
  | none => .error (corrTrap s n eop 1)
  | some e =>
    match corr? s e.corr with
    | none => .error (corrTrap s n eop 1)
    | some c => if e.cons != cons then .error (corrTrap s n eop 1)
      else if corrBroken s c then .error (corrTrap s n eop 8) else .ok (e.corr, c)
/-- A corridor access of the issuing slot. -/
def corrFlight (s : State) (kind : AccKind) (n k q : Nat) (c : Corr) (b tok : W64) (link : Option (Nat × Nat)) : Flight :=
  { newFlight s kind c.home 0 0 8 0 with corr := k, seqNo := q, b := b, c := tok, link := link, waitc := n }
/-- Sends a request whose answer the instruction waits for. -/
def sendRequest (s : State) (f : Flight) : State :=
  let (id, s) := issueFlight s f
  stallMe (modMe s (fun t => { t with request := some id }))
def endRequest (s : State) : State := modMe s (fun t => { t with request := none, replied := none })

/-- `qrsv` (R260): the answer is the slot's virtual address in the core-window range of the image. -/
def execQrsv (w : BitVec 3) (d : BitVec 5) (n : BitVec 3) (s : State) : Host.Outcome State Fault Refusal :=
  match epGate s n.toNat 0 false with
  | .error s => .next s
  | .ok (k, c) =>
    match (me s).request, (me s).replied with
    | some _, some q => scalarResult (endRequest s) w d 2 (c.cwbase + BitVec.ofNat 64 (0x80000 * c.home + c.addr q.toNat))
    | some _, none => .next (stallMe s)
    | none, _ =>
      if ((me s).holdR.find n.toNat).isSome then .next (corrTrap s n.toNat 0 2)
      else .next (sendRequest s (corrFlight s .qrsv n.toNat k 0 c 0 0 none))

/-- `qpush` (R260): the holdings on N, and on M with a link, end at issue. -/
def execQpush (w : BitVec 3) (a b : BitVec 5) (l : BitVec 1) (m n : BitVec 3) (s : State) : Host.Outcome State Fault Refusal :=
  match epGate s n.toNat 1 false with
  | .error s => .next s
  | .ok (k, c) =>
    match (me s).holdR.find n.toNat with
    | none => .next (corrTrap s n.toNat 1 3)
    | some q =>
      let inp : Option (Nat × Nat) :=
        match vget none (myCore s).ep m.toNat, (me s).holdP.find m.toNat with
        | some e, some qi => if e.cons then some (e.corr, qi) else none
        | _, _ => none
      if l = 1 ∧ inp.isNone then .next (corrTrap s n.toNat 1 6)
      else if c.size - 32 < bits (xr s a) 0 32 then .next (corrTrap s n.toNat 1 4)
      else
        let f := corrFlight s .qpush n.toNat k q c (xr s a) (xr s b) (if l = 1 then inp else none)
        let (_, s) := issueFlight s f
        .next (retire (modMe s (fun t => { t with
          holdR := t.holdR.del n.toNat, holdP := if l = 1 then t.holdP.del m.toNat else t.holdP })) w)

/-- `qrel` (R260). -/
def execQrel (w : BitVec 3) (n : BitVec 3) (s : State) : Host.Outcome State Fault Refusal :=
  match epGate s n.toNat 3 true with
  | .error s => .next s
  | .ok (k, c) =>
    match (me s).holdP.find n.toNat with
    | none => .next (corrTrap s n.toNat 3 3)
    | some q =>
      let (_, s) := issueFlight s (corrFlight s .qrel n.toNat k q c 0 0 none)
      .next (retire (modMe s (fun t => { t with holdP := t.holdP.del n.toNat })) w)

/-- Whether a mark word is one `qmark` takes (R259, reason 5). -/
def markOk (v : W64) : Bool := bits v 16 48 == 0 && bits v 2 6 == 0 && bits v 0 2 != 0 && (bits v 8 8 == 0 || bitOf v 0)
/-- `qmark` (R260). -/
def execQmark (w : BitVec 3) (a : BitVec 5) (n : BitVec 3) (s : State) : Host.Outcome State Fault Refusal :=
  match epGate s n.toNat 5 false with
  | .error s => .next s
  | .ok (k, c) =>
    match (me s).request, (me s).replied with
    | some _, some _ => .next (retire (endRequest s) w)
    | some _, none => .next (stallMe s)
    | none, _ =>
      if ((me s).holdR.find n.toNat).isSome then .next (corrTrap s n.toNat 5 2)
      else if !markOk (xr s a) then .next (corrTrap s n.toNat 5 5)
      else .next (sendRequest s (corrFlight s .qmark n.toNat k 0 c (xr s a) 0 none))
/-- `qmark.h` (R260): the marks stand with the reservation at the home. -/
def execQmarkH (w : BitVec 3) (a : BitVec 5) (n : BitVec 3) (s : State) : Host.Outcome State Fault Refusal :=
  match epGate s n.toNat 5 false with
  | .error s => .next s
  | .ok (k, _) =>
    match (me s).holdR.find n.toNat with
    | none => .next (corrTrap s n.toNat 5 3)
    | some q =>
      if !markOk (xr s a) then .next (corrTrap s n.toNat 5 5)
      else
        let v := xr s a
        .next (retire (modCorr s k (fun c =>
          let o := c.slot q
          c.put q { o with marks := o.marks ||| BitVec.ofNat 8 (bits v 0 8), mtag := o.mtag ||| BitVec.ofNat 8 (bits v 8 8) })) w)

/-! ### Pops, switch points and draughts (R260, R262, R265, R266) -/

/-- The tag on which a join group of the core waits, or the tag of a single endpoint at its switch point. -/
def joinTag (s : State) (core g : Nat) : Option Nat :=
  (List.range 8).findSome? (fun n => match vget none (getCore s core).ep n with
    | some e => if e.cons ∧ ((corr? s e.corr).map (fun c => c.joinG)) = some g then e.switched else none
    | none => none)
/-- Whether every consumer endpoint of a join group of the core has returned its SWITCH slot. -/
def joinMet (s : State) (core g : Nat) : Bool :=
  (List.range 8).all (fun n => match vget none (getCore s core).ep n with
    | some e => !(e.cons && ((corr? s e.corr).map (fun c => c.joinG)) == some g) || e.switched.isSome
    | none => true)
def modEp (s : State) (core n : Nat) (f : Endpoint → Endpoint) : State :=
  modCore s core (fun c => { c with ep := vset c.ep n ((vget none c.ep n).map f) })

/-- The stalled pops of an endpoint with one more: in the order their stalls began, ties going to the lower slot (R262). -/
def popIns (now slot : Nat) (l : List (Nat × Nat)) : List (Nat × Nat) :=
  if l.any (fun p => p.2 == slot) then l
  else
    let before (p : Nat × Nat) : Bool := decide (p.1 < now) || decide (p.2 < slot)
    l.filter before ++ (now, slot) :: l.filter (fun p => !before p)
/-- A `qpop` stalls; its place among the endpoint's stalled pops is kept (R262). -/
def stallPop (s : State) (n : Nat) : State :=
  stallMe (modEp s s.curCore n (fun e => { e with pops := popIns s.now s.curSlot e.pops }))
/-- Whether an endpoint that has returned its SWITCH slot is at its switch point: alone, or with its whole join group (R265). -/
def atSwitch (s : State) (core : Nat) (c : Corr) : Bool := c.joinG == 0 || joinMet s core c.joinG

/-- `qpop` (R260, R262, R265, R266). -/
def execQpop (w : BitVec 3) (d : BitVec 5) (n : BitVec 3) (s : State) : Host.Outcome State Fault Refusal :=
  match epGate s n.toNat 2 true with
  | .error s => .next s
  | .ok (k, c) =>
    match vget none (myCore s).ep n.toNat with
    | none => .next s
    | some e =>
      let core := s.curCore
      if ((me s).holdP.find n.toNat).isSome then .next (corrTrap s n.toNat 2 2)
      else if c.stopped ≠ [] then .next (stallPop s n.toNat)
      else if e.switched.isSome then
        .next (if e.pops.any (fun p => p.2 == s.curSlot) ∨ !atSwitch s core c then stallPop s n.toNat
          else soon (stallPop s n.toNat) .modelSwitch [colOfCore core, e.switched.getD 0])
      else if (match e.pops with | h :: _ => h.2 != s.curSlot | [] => false) then .next (stallPop s n.toNat)
      else match c.firstPop c.slots c.pp with
        | none => .next (stallPop s n.toNat)
        | some q =>
          if wordErr s (c.hdr q) = .ecc then .next (soon (stallPop s n.toNat) .columnFault [colOfCore core])
          else
            let h := dwordAt s (c.hdr q)
            let rcb := partOf s c.rcb
            let taken (st : QSt) (s : State) : State :=
              modCorr s k (fun c => ((c.passVoid q c.slots c.pp).setSt q st).moveTo (seqNext q))
            if bitOf h 2 then
              if draining s rcb then
                let s := beginDrain (stallPop s n.toNat) (colOfCore core) rcb false
                .next (settle (meetDraught (modCorr s k (fun c => (c.passVoid q c.slots c.pp).moveTo q)) k q c) k)
              else .next (settle (taken .rel (stallMe s)) k)
            else
              let tag := bits h 16 8
              let sw := bitOf h 0
              if sw && c.joinG != 0 && (match joinTag s core c.joinG with | some t => t != tag | none => false) then
                .next (corrTrap s n.toNat 2 7)
              else
                let s := modEp (taken .pop s) core n.toNat (fun e => { e with
                  pops := e.pops.filter (fun p => p.2 != s.curSlot), switched := if sw then some tag else none })
                let s := modMe s (fun t => { t with holdP := t.holdP.ins n.toNat q })
                let s := if sw ∧ atSwitch s core c then soon s .modelSwitch [colOfCore core, tag] else s
                scalarResult (settle s k) w d 2 (BitVec.ofNat 64 (bits h 0 8 * 2 ^ 56 + tag * 2 ^ 48 + c.addr q))

/-! ### The flush rule (R261, R268) -/

/-- Applies Table 11-8 to a task's reservation. -/
def flushRsv (s : State) (k q : Nat) : State :=
  match corr? s k with
  | none => s
  | some c =>
    let o := c.slot q
    if o.st ≠ .rsv then s
    else if o.marks = 0 then modCorr (putMarks s c q 3) k (fun c => c.setSt q .void)
    else modCorr (putHeader s c q o.marks.toNat o.mtag.toNat 0 0 0 none) k (fun c => c.setSt q .cmt)
/-- Applies Table 11-8 to a task's popped slot: CMT with REPLAY, PP lowered to the lowest such slot. -/
def flushPop (s : State) (k q : Nat) : State :=
  match corr? s k with
  | none => s
  | some c =>
    if (c.slot q).st ≠ .pop then s
    else modCorr (putMarks s c q 4) k (fun c =>
      { c.setSt q .cmt with pp := if seqDist c.lf q < seqDist c.lf c.pp then q else c.pp })
/-- Flushes the holdings of a task: all of them, or with `only` those on one corridor; they end. -/
def flushTask (s : State) (core slot : Nat) (only : Option Nat) : State :=
  let t := getSlot s core slot
  let key (n : Nat) : Option Nat := (vget none (getCore s core).ep n).map (fun e => e.corr)
  let mine (p : Nat × Nat) : Bool := match only with
    | none => true
    | some k => key p.1 == some k
  let rs := t.holdR.filter mine
  let ps := t.holdP.filter mine
  let s := rs.foldl (fun s p => match key p.1 with | some k => flushRsv s k p.2 | none => s) s
  let s := ps.foldl (fun s p => match key p.1 with | some k => flushPop s k p.2 | none => s) s
  let s := modSlot s core slot (fun t => { t with holdR := t.holdR.filter (fun p => !mine p), holdP := t.holdP.filter (fun p => !mine p) })
  (rs ++ ps).foldl (fun s p => match key p.1 with | some k => settle s k | none => s) s

/-- `qflush` (R261): the list is read as local loads, and the rule is applied in the issue cycle. Log entry 20. -/
def execQflush (w : BitVec 3) (a : BitVec 5) (n : BitVec 3) (s : State) : Host.Outcome State Fault Refusal :=
  let v := xr s a
  let l := bits v 32 32
  let la := BitVec.ofNat 64 l
  let pa := localPa s.curCore l
  let wait (s : State) (bytes : Nat) : Option State := (shortGate s la bytes).orElse (fun _ => granGate s la bytes)
  if l % 8 ≠ 0 then .next ((shortGate s la 8).getD (trapHere s 0x03 0 la))
  else if !lvlOf (me s) then .next (trapHere s 0x05 0 (n.setWidth 64))
  else if 0x3FE80 < l + 8 then .next (trapHere s 0x05 0 la)
  else match wait s 8 with
  | some s => .next s
  | none =>
    let d0 := dwordAt s pa
    let cnt := bits d0 0 6
    if 0x3FE80 < l + 8 + 8 * cnt then .next (trapHere s 0x05 0 la)
    else match wait s (8 + 8 * cnt) with
    | some s => .next s
    | none =>
      let s := countAldShort s l (8 + 8 * cnt)
      let es := (List.range cnt).map (fun i => dwordAt s (pa + 8 + 8 * i))
      if cnt = 0 ∨ bits d0 6 58 ≠ 0 ∨ es.any (fun e => bits e 21 43 != 0) then .next (trapHere s 0x05 0 (BitVec.ofNat 64 l))
      else match (List.range (cnt + 1)).find? (fun i => decide (wordErr s (pa + 8 * i) = .ecc)) with
        | some i => .next (trapHere s 0x06 0 (BitVec.ofNat 64 (l + 8 * i)))
        | none =>
          match vget none (myCore s).ep n.toNat with
          | none => .next (corrTrap s n.toNat 4 1)
          | some e =>
            match corr? s e.corr with
            | none => .next (corrTrap s n.toNat 4 1)
            | some c =>
              if corrBroken s c then .next (corrTrap s n.toNat 4 8)
              else
                let s := (List.range (cnt + 1)).foldl (fun s i => noteRead s (pa + 8 * i)) s
                let s := es.foldl (fun s x =>
                  let core := bits x 2 11
                  let slot := bits x 0 2
                  let t := getSlot s core slot
                  if t.st ≠ .free ∧ t.incarn.toNat = bits x 13 8 then flushTask s core slot (some e.corr) else s) s
                let s := faultLog s (partOf s c.rcb) (pkgOfCore c.home) 0x0D 0 s.curCore (me s).pc v
                .next (retire s w)

end Sys2Proof.Machine
end

