-- ==== Sys2Proof/Machine/Copy.lean ====
section
/-! DEFINITION. The copy queue: the push instructions of major 0x3E, the starting of copies, and what a copy does (R164 to
R168, R230). -/
namespace Sys2Proof.Machine
open Sys2Proof

/-! ### Descriptors (Table 6-5) -/

def CopyEnt.rows (e : CopyEnt) : Nat := bits e.d3 48 16 + 1
def CopyEnt.rowBytes (e : CopyEnt) : Nat := bits e.d3 28 20 + 1
def CopyEnt.bytes (e : CopyEnt) : Nat := e.rows * e.rowBytes
def CopyEnt.skind (e : CopyEnt) : Nat := bits e.d3 26 2
def CopyEnt.dkind (e : CopyEnt) : Nat := bits e.d3 24 2
def CopyEnt.startOn (e : CopyEnt) : Nat := bits e.d3 22 2
def CopyEnt.fmt (e : CopyEnt) : Nat := bits e.d3 4 5
def CopyEnt.hdrchk (e : CopyEnt) : Bool := bitOf e.d3 3
def CopyEnt.sstride (e : CopyEnt) : Int := (BitVec.ofNat 32 (bits e.d2 32 32)).toInt
def CopyEnt.dstride (e : CopyEnt) : Int := (BitVec.ofNat 32 (bits e.d2 0 32)).toInt
/-- Bytes of a converted element. -/
def CopyEnt.eb (e : CopyEnt) : Nat := fmtBits e.fmt / 8
/-- Whether a format code is a wide one (R139). -/
def wideFmt (c : Nat) : Bool := decide (c ≤ 5) || (decide (0x0B ≤ c) && decide (c ≤ 0x0D))
/-- The fields that make a descriptor illegal (R165, R167 cause 0x01). That a SKIND 3 row which is no whole number of FMT elements
gives this cause too is the model's: DEDUCED, log entry 73. -/
def CopyEnt.illegal (e : CopyEnt) : Bool :=
  bits e.d3 0 3 != 0 || e.dkind == 3 || e.startOn == 3 ||
  (if e.skind = 3 then !wideFmt e.fmt || e.rowBytes % e.eb != 0 else e.fmt != 0) ||
  (e.hdrchk && e.skind != 2 && e.dkind != 2)
/-- Offset of a row's first byte from SRC or DST. -/
def rowStart (first : W64) (stride : Int) (row : Nat) : W64 := first + BitVec.ofInt 64 (stride * row)
/-- The entry index of element `k` of a row (SKIND 3). -/
def CopyEnt.entryIdx (e : CopyEnt) (row k : Nat) : Int := (e.d0.toNat : Int) + e.sstride * row + k
/-- The elements of a row. -/
def CopyEnt.perRow (e : CopyEnt) : Nat := e.rowBytes / e.eb
/-- TRAPVAL after COPY_FAULT (R167). -/
def copyVal (cause entry : Nat) (a : W64) : W64 := BitVec.ofNat 64 (cause * 2 ^ 56 + entry % 8 * 2 ^ 53 + a.toNat % 2 ^ 52)
/-- A COPY_FAULT of an entry. -/
def CopyEnt.bad (e : CopyEnt) (cause : Nat) (a : W64) : Nat × Nat × W64 := (0x12, 2, copyVal cause e.entry a)

/-! ### Starting (R164, R165, R230) -/

def findCopy (s : State) (core op : Nat) : Option CopyEnt := (getCore s core).cq.find? (fun e => e.op == op)
def modCopy (s : State) (core op : Nat) (f : CopyEnt → CopyEnt) : State :=
  modCore s core (fun c => { c with cq := c.cq.map (fun e => if e.op = op then f e else e) })
/-- The corridor slot that the pushing task holds on an endpoint, as consumer or producer. -/
def heldSlot (s : State) (core slot n : Nat) (cons : Bool) : Option (Nat × Nat) :=
  match vget none (getCore s core).ep n with
  | some e => if e.cons != cons then none
    else ((if cons then (getSlot s core slot).holdP else (getSlot s core slot).holdR).find n).map (fun q => (e.corr, q))
  | none => none
/-- The first row of a range that leaves its corridor slot, by its offset. -/
def rangeOut (s : State) (k : Nat) (first : W64) (stride : Int) (rows len : Nat) : Option W64 :=
  match corr? s k with
  | none => some first
  | some c => ((List.range rows).find? (fun j => decide (c.size < (rowStart first stride j).toNat + len))).map (rowStart first stride)
/-- The entry indexes of a SKIND 3 copy, in row order. -/
def CopyEnt.idxs (e : CopyEnt) : List Int := (List.range e.rows).flatMap (fun j => (List.range e.perRow).map (fun k => e.entryIdx j k))
/-- Whether a copy rounds stochastically (R133, R146). -/
def CopyEnt.draws (e : CopyEnt) : Bool := e.skind == 3 && bits e.rnd 0 3 == 4 && (fpFmt e.fmt).isSome
/-- The checks made when a copy starts: descriptor, corridor slots, entry indexes. -/
def CopyEnt.startFault (s : State) (e : CopyEnt) (sh dh : Option (Nat × Nat)) : Option (Nat × W64) :=
  let side (on : Bool) (h : Option (Nat × Nat)) (first : W64) (stride : Int) : Option (Nat × W64) :=
    if !on then none
    else match h with
      | none => some (5, 0)
      | some (k, _) => (rangeOut s k first stride e.rows e.rowBytes).map (fun a => (5, a))
  if e.illegal then some (1, 0)
  else match side (e.skind == 2) sh e.d0 e.sstride with
    | some x => some x
    | none => match side (e.dkind == 2) dh e.d1 e.dstride with
      | some x => some x
      | none =>
        if e.skind ≠ 3 then none
        else
          (e.idxs.find? (fun i => decide (i < 0) || decide (8192 ≤ i))).map (fun i => (3, BitVec.ofInt 64 (16 * i)))
/-- Whether the operations a copy waits for have read their operands (R230). -/
def CopyEnt.mayStart (s : State) (core : Nat) (e : CopyEnt) : Bool :=
  !e.started && (e.abandoned || !heldByFreeze s core e.slot) &&
  e.waitOps.all (fun o => match findMOp s core o with
    | some m => m.begun.isSome && decide (m.readBy ≤ s.now)
    | none => true)
/-- Starts copies in push order while fewer than two transfer; the environment says how long each takes. -/
def startCopies (core : Nat) : Nat → State → State
  | 0, s => s
  | n + 1, s =>
    let l := (getCore s core).cq
    if 2 ≤ (l.filter (fun e => e.started)).length then s
    else match l.find? (fun e => e.mayStart s core) with
      | none => s
      | some e =>
        let sh := heldSlot s core e.slot (bits e.d3 12 3) true
        let dh := heldSlot s core e.slot (bits e.d3 9 3) false
        let early := e.startFault s sh dh
        let (d, s) := takeDelay s
        let s := modCopy s core e.op (fun e => { e with started := true, shold := sh, dhold := dh, early := early })
        startCopies core n (schedule s (s.now + 1 + d) .copyComplete [core, e.op])
/-- `copyStart` [core, op]: entries that can start do (R164, R165). -/
def execCopyStart (s : State) : Host.Outcome State Fault Refusal := .next (startCopies (arg s 0) 2 s)

/-! ### The instructions (R166) -/

/-- The blocks that a copy rounding stochastically draws are its own from its push on, so that draws follow the issue order (R133). -/
def reserveDraws (s : State) (x : CopyEnt) : State :=
  if x.draws && !x.illegal && x.idxs.all (fun i => decide (0 ≤ i) && decide (i < 8192)) then (drawWords s s.curCore (x.rows * x.perRow)).2
  else s
/-- Enqueues the entry that a push makes; its number is the lowest free one. -/
def pushCopy (s : State) (p : Nat) (n : BitVec 3) (e : BitVec 1) (c : BitVec 2) (h : BitVec 1) : Nat × State :=
  let t := me s
  let (d, s) := readRecord s p 4
  let (op, s) := takeId s
  let used := (myCore s).cq.map (fun x => x.entry)
  let entry := ((List.range 8).find? (fun i => !used.contains i)).getD 0
  let o := if h = 1 then chainOffset t c.toNat else 0
  let d3 := d.getD 3 0
  let x : CopyEnt := {
    op := op, entry := entry, slot := s.curSlot, inc := t.incarn, part := t.part, lvl := lvlOf t, rnd := t.rndmode,
    key := (getReg s (coreWin s.curCore 0)).toNat,
    ctr := (getReg s (coreWin s.curCore 8)).toNat + 2 ^ 64 * (getReg s (coreWin s.curCore 0x10)).toNat,
    fie := fieOf t, d0 := if bits d3 26 2 < 3 then d.getD 0 0 + o else d.getD 0 0, d1 := d.getD 1 0 + o, d2 := d.getD 2 0, d3 := d3,
    chan := if e = 1 then some n.toNat else none, commit := h == 1 && chainLast t c.toNat && bits d3 24 2 == 2,
    waitOps := [], started := false, shold := none, dhold := none, early := none, fin := false, fault := none, flags := 0,
    abandoned := false }
  let waits (m : MOp) : Bool :=
    (if x.startOn = 1 then m.kind == .mstr else if x.startOn = 2 then m.kind == .mlds else false) &&
      !(m.begun.isSome && decide (m.readBy ≤ s.now))
  let x := { x with waitOps := ((myCore s).mq.filter waits).map (fun m => m.op) }
  let s := modMyCore (reserveDraws s x) (fun co => { co with cq := co.cq ++ [x] })
  let s := if e = 1 then pushWm s s.curCore n.toNat op x.bytes else s
  (entry, soon s .copyStart [s.curCore, op])
/-- `cqpush` (R166). -/
def execCqpush (w : BitVec 3) (a : BitVec 5) (n : BitVec 3) (e : BitVec 1) (c : BitVec 2) (h : BitVec 1) (s : State) :
    Host.Outcome State Fault Refusal :=
  if 8 ≤ (myCore s).cq.length then
    match recordGate { s with localBad := [] } (xr s a) 32 with
    | some t => .next { t with localBad := s.localBad }
    | none => .next (stallMe s)
  else match recordGate s (xr s a) 32 with
    | some s => .next s
    | none => .next (retire (pushCopy s (xr s a).toNat n e c h).2 w)
/-- `cqpush.nb` (R166): with the queue full the result is 1 and nothing is read. -/
def execCqpushNb (w : BitVec 3) (a d : BitVec 5) (n : BitVec 3) (e : BitVec 1) (c : BitVec 2) (h : BitVec 1) (s : State) :
    Host.Outcome State Fault Refusal :=
  if 8 ≤ (myCore s).cq.length then
    match recordGate { s with localBad := [] } (xr s a) 32 with
    | some t => .next { t with localBad := s.localBad }
    | none => scalarResult s w d 2 1
  else match recordGate s (xr s a) 32 with
    | some s => .next s
    | none =>
      let (entry, s) := pushCopy s (xr s a).toNat n e c h
      scalarResult s w d 2 (BitVec.ofNat 64 (entry * 16))

/-! ### What a copy does -/

/-- A copy on its way: the state, the dwords whose reading has been noted, the bytes landed, the fault that stopped it. -/
structure CopyRun where
  s : State
  seen : List Nat
  landed : Nat
  fault : Option (Nat × Nat × W64)

/-- Whether an address names a register, or a place that refuses the copy. -/
def copyRefused (s : State) (core : Nat) (e : CopyEnt) (pa : Nat) : Bool :=
  placeRefuses s (pkgOfCore core) e.part e.lvl pa ||
  match placeOf pa with
  | .coreReg .. => true
  | .unit .. => true
  | .cc _ off => decide (off < 0x1000000)
  | _ => false
/-- The place of a byte by a virtual address. -/
def copyVirt (s : State) (core : Nat) (e : CopyEnt) (need : Nat) (va : W64) : Except (Nat × Nat × W64) Nat :=
  let pk := pkgOfCore core
  let part := partOf s e.part
  match xlateUnit s pk part va.toNat 0 true, xlateUnit s pk part va.toNat need e.lvl with
  | none, _ => .error (e.bad 2 va)
  | some _, none => .error (e.bad 3 va)
  | some _, some pa => if copyRefused s core e pa then .error (e.bad 3 va) else .ok pa
/-- The place of a byte of local memory. -/
def copyLocal (s : State) (core : Nat) (e : CopyEnt) (a : W64) : Except (Nat × Nat × W64) Nat :=
  if engineLocal s core e.lvl a.toNat 1 ∧ touch s core (partOf s e.part) (localGran a.toNat) ≠ .prot then .ok (localPa core a.toNat)
  else .error (e.bad 3 a)
/-- The place of a byte of a corridor slot. -/
def copySlot (s : State) (e : CopyEnt) (h : Option (Nat × Nat)) (o : W64) : Except (Nat × Nat × W64) Nat :=
  match h with
  | none => .error (e.bad 5 o)
  | some (k, q) => match corr? s k with
    | some c => if corrBroken s c then .error (e.bad 5 o) else .ok (c.hdr q + o.toNat)
    | none => .error (e.bad 5 o)
/-- The place of source byte `k` of a row. -/
def CopyEnt.srcPlace (s : State) (core : Nat) (e : CopyEnt) (row k : Nat) : Except (Nat × Nat × W64) Nat :=
  let a := rowStart e.d0 e.sstride row + BitVec.ofNat 64 k
  if e.skind = 0 then copyVirt s core e 1 a else if e.skind = 1 then copyLocal s core e a else copySlot s e e.shold a
/-- The place of destination byte `k` of a row. -/
def CopyEnt.dstPlace (s : State) (core : Nat) (e : CopyEnt) (row k : Nat) : Except (Nat × Nat × W64) Nat :=
  let a := rowStart e.d1 e.dstride row + BitVec.ofNat 64 k
  if e.dkind = 0 then copyVirt s core e 2 a else if e.dkind = 1 then copyLocal s core e a else copySlot s e e.dhold a
/-- Loads the granule of an address that a partition has in its frame (R179). -/
def touchPlace (s : State) (part pa : Nat) : State :=
  match placeOf pa with
  | .localMem c off => touchLocal s c part off 1
  | .acc c off => touchAcc s c part (off / 16) 1
  | _ => s

/-- The walk that a virtual address of a copy needs, noted where a row or a page begins (R336). -/
def copyWalk (s : State) (core : Nat) (e : CopyEnt) (kind k : Nat) (va : W64) : State :=
  if kind = 0 ∧ (k = 0 ∨ va.toNat % 4096 = 0) then noteWalk s (pkgOfCore core) (partOf s e.part) va.toNat else s
/-- Reads `n` source bytes of a row from `k` on, each dword's reading noted once. -/
def copyRead (core : Nat) (e : CopyEnt) (row : Nat) : Nat → Nat → CopyRun → List Byte × CopyRun
  | 0, _, r => ([], r)
  | n + 1, k, r =>
    let r := { r with s := copyWalk r.s core e e.skind k (rowStart e.d0 e.sstride row + BitVec.ofNat 64 k) }
    match e.srcPlace r.s core row k with
    | .error x => ([], { r with fault := some x })
    | .ok pa =>
      let s := touchPlace r.s (partOf r.s e.part) pa
      let err := wordErr s pa
      let b := BitVec.ofNat 8 (wordAt s (pa / 8 * 8) 8 / 2 ^ (8 * (pa % 8)))
      let r := if r.seen.contains (pa / 8) then { r with s := s } else { r with s := noteRead s pa, seen := pa / 8 :: r.seen }
      match err, placeOf pa with
      | .attic kd, .slice c off => ([], { r with fault := some (0x07, 2, atticVal kd c off) })
      | .ecc, _ => ([], { r with fault := some (e.bad 4 (rowStart e.d0 e.sstride row + BitVec.ofNat 64 k)) })
      | _, _ =>
        let (l, r) := copyRead core e row n (k + 1) r
        (b :: l, r)
/-- Writes bytes at a place, as a whole granule, a dword, or a byte; false where an uncorrectable word keeps them out. -/
def copyWrite (s : State) (pa : Nat) (l : List Byte) : State × Bool :=
  let v := l.foldr (fun b a => b.toNat + 256 * a) 0
  match placeOf pa with
  | .localMem c off =>
    if 0x3FE00 ≤ off then ((List.range ((l.length + 7) / 8)).foldl (fun s i => lbFree s c ((off - 0x3FE00) / 8 + i)) s, true)
    else if l.length = 32 then
      ((List.range 4).foldl (fun s i => (writeWord s (pa + 8 * i) 8 (v / 2 ^ (64 * i) % 2 ^ 64)).1) s, true)
    else writeWord s pa l.length v
  | .gddr p _ =>
    if l.length = 32 then (wrBytes (modPkg s p (fun q => { q with poison := q.poison.filter (· != pa / 32) })) pa l, true)
    else writeWord s pa l.length v
  | .cc p _ =>
    let b := backing pa
    if l.length = 32 then (wrBytes (modPkg s p (fun q => { q with poison := q.poison.filter (· != b / 32) })) b l, true)
    else writeWord s pa l.length v
  | .acc .. =>
    if l.length = 32 then
      (List.range 4).foldl (fun a i => let r := writeWord a.1 (pa + 8 * i) 8 (v / 2 ^ (64 * i) % 2 ^ 64); (r.1, a.2 && r.2)) (s, true)
    else writeWord s pa l.length v
  | _ =>
    if l.length = 32 then
      ((List.range 4).foldl (fun s i => (writeWord s (pa + 8 * i) 8 (v / 2 ^ (64 * i) % 2 ^ 64)).1) s, true)
    else writeWord s pa l.length v
/-- The bytes to write at once at an address with `left` bytes to go: a granule, a dword, or a byte. -/
def chunkOf (a left : Nat) : Nat := if a % 32 = 0 ∧ 32 ≤ left then 32 else if a % 8 = 0 ∧ 8 ≤ left then 8 else 1
/-- Copies the bytes of a row from `k` up to `lim`, from memory or from `conv`, the converted bytes of the row. -/
def copyRow (core : Nat) (e : CopyEnt) (row lim : Nat) (conv : Option (List Byte)) : Nat → Nat → CopyRun → CopyRun
  | 0, _, r => r
  | fuel + 1, k, r =>
    if lim ≤ k then r
    else
      let a := rowStart e.d1 e.dstride row + BitVec.ofNat 64 k
      let r := { r with s := copyWalk r.s core e e.dkind k a }
      let n := chunkOf (match e.dstPlace r.s core row k with | .ok pa => pa | .error _ => a.toNat) (lim - k)
      let (l, r) := match conv with
        | some l => ((l.drop k).take n, r)
        | none => copyRead core e row n k r
      if r.fault.isSome then r
      else match e.dstPlace r.s core row k with
        | .error x => { r with fault := some x }
        | .ok pa =>
          match copyWrite (touchPlace r.s (partOf r.s e.part) pa) pa l with
          | (s, true) => copyRow core e row lim conv fuel (k + n) { r with s := s, landed := r.landed + n }
          | (s, false) => { r with s := s, fault := some (e.bad 4 a) }
/-- The rows of a copy in order, up to stream byte `stop`. -/
def copyRows (core : Nat) (e : CopyEnt) (stop : Nat) (conv : Nat → Option (List Byte)) : Nat → Nat → CopyRun → CopyRun
  | 0, _, r => r
  | n + 1, row, r =>
    let r := copyRow core e row (min e.rowBytes (stop - row * e.rowBytes)) (conv row) e.rowBytes 0 r
    if r.fault.isSome then r else copyRows core e stop conv n (row + 1) r

/-- A dword of the source as a stream, by its byte offset. -/
def CopyEnt.streamDword (s : State) (core : Nat) (e : CopyEnt) (o : Nat) : Option Nat :=
  (List.range 8).foldr (fun i a =>
    match a, e.srcPlace s core ((o + i) / e.rowBytes) ((o + i) % e.rowBytes) with
    | some v, .ok pa => some (v * 256 + (memByte s (backing pa)).toNat)
    | _, _ => none) (some 0)
/-- Where a malformed burst header stops a stream of dwords that starts with none latched (R128, R129). -/
def hdrStop (dword : Nat → Option Nat) (total : Nat) : Nat → Nat → Option Nat
  | 0, _ => none
  | n + 1, o =>
    if total < o + 8 then none
    else match dword o with
      | none => none
      | some h =>
        let len := h / 256 % 65536
        let f := h / 2 ^ 25 % 128
        if h / 2 ^ 32 ≠ 0 ∨ 0x0E < f ∨ len = 0 then some o
        else hdrStop dword total n (o + 8 + (len * fmtBits f + 63) / 64 * 8)

/-- The converted bytes of every row (R146), the flags of every element, and the fault of the first entry with a parity error (R155). -/
def copyConvert (s : State) (core : Nat) (e : CopyEnt) : List (List Byte) × List Nat × Option (Nat × Nat × W64) × State :=
  let n := e.rows * e.perRow
  let draw := e.draws
  let ws := if draw then (List.range ((n + 3) / 4)).flatMap (fun i => philox e.key ((e.ctr + i) % 2 ^ 128)) else []
  let idx (i : Nat) : Nat := (e.entryIdx (i / e.perRow) (i % e.perRow)).toNat
  let bad := (List.range n).find? (fun i => decide (wordErr s (accPa core (idx i)) = .ecc))
  let one (i : Nat) : Nat × Nat :=
    accTo e.fmt (if draw then rndDraw e.rnd (ws.getD i 0) else rndPlain e.rnd) (getAcc s core (idx i))
  let upto := match bad with
    | some i => i
    | none => n
  let rs := (List.range upto).map one
  let row (j : Nat) : List Byte := ((rs.drop (j * e.perRow)).take e.perRow).flatMap (fun p =>
    (List.range e.eb).map (fun b => BitVec.ofNat 8 (p.1 / 2 ^ (8 * b))))
  let s := match bad with
    | some i => noteRead s (accPa core (idx i))
    | none => s
  ((List.range e.rows).map row, rs.map (·.2),
    bad.map (fun i => (0x06, 2, BitVec.ofNat 64 (2 ^ 62 + 16 * idx i))), s)

/-- Performs a copy: what has landed, its fault, its flags (R165, R167). -/
def CopyEnt.perform (s : State) (core : Nat) (e : CopyEnt) : CopyRun × Nat :=
  match e.early with
  | some (c, a) => ({ s := s, seen := [], landed := 0, fault := some (e.bad c a) }, 0)
  | none =>
    let total := e.bytes
    if e.skind = 3 then
      let s := (List.range e.rows).foldl (fun s j => touchAcc s core (partOf s e.part) (e.entryIdx j 0).toNat e.perRow) s
      let (rows, fls, bad, s) := copyConvert s core e
      let got := rows.flatten
      let hdr := if e.hdrchk then
          hdrStop (fun o => some (((got.drop o).take 8).foldr (fun b a => b.toNat + 256 * a) 0)) got.length (got.length / 8 + 1) 0 else none
      let stop := hdr.getD got.length
      let fl := (fls.take (stop / e.eb)).foldl Nat.lor 0
      let bad := match hdr with
        | some o => some (e.bad 6 (BitVec.ofNat 64 (16 * (e.entryIdx (o / e.rowBytes) (o % e.rowBytes / e.eb)).toNat)))
        | none => bad
      let r := copyRows core e stop (fun j => some (rows.getD j [])) e.rows 0 { s := s, seen := [], landed := 0, fault := none }
      let r := match r.fault with
        | none => { r with fault := bad }
        | some _ => r
      if e.fie ∧ fl % 2 = 1 then ({ r with fault := some (r.fault.getD (0x0E, 2, 0)) }, fl - 1) else (r, fl)
    else
      let stop := if e.hdrchk then hdrStop (e.streamDword s core) total (total / 8 + 1) 0 else none
      let r := copyRows core e (stop.getD total) (fun _ => none) e.rows 0 { s := s, seen := [], landed := 0, fault := none }
      match r.fault, stop with
      | none, some o => ({ r with fault := some (e.bad 6 (rowStart e.d0 e.sstride (o / e.rowBytes) + BitVec.ofNat 64 (o % e.rowBytes))) }, 0)
      | _, _ => (r, 0)

/-- Commits the slot a copy has filled, if its task still holds it, with the low 32 bits of its bytes and USER 0 (R166). -/
def copyCommit (s : State) (core : Nat) (e : CopyEnt) : State :=
  match e.dhold with
  | some (k, q) =>
    match corr? s k with
    | some c =>
      if heldSlot s core e.slot (bits e.d3 9 3) false = some (k, q) then
        let (id, s) := takeId s
        let f : Flight := {
          kind := .qpush, core := core, slot := e.slot, inc := e.inc, part := e.part, lvl := e.lvl, home := c.home, va := 0, pa := 0,
          size := 8, b := BitVec.ofNat 64 (e.bytes % 2 ^ 32), c := 0, body := 0, rd := none, chain := 0, pred := none, cnt := none, corr := k,
          seqNo := q, link := none, stamp := 0, waitc := bits e.d3 9 3, heldAt := 0, arrived := 0, sent := false, performed := false,
          result := 0, err := none }
        let s := { s with flights := s.flights.ins id f }
        let s := modSlot s core e.slot (fun t => { t with holdR := t.holdR.del (bits e.d3 9 3) })
        pushAccesses s core e.slot
      else s
    | none => s
  | none => s
/-- `copyComplete` [core, op]: the copy's bytes have landed, and its watermark advances; with no room for its fault record it
holds its completion (R163 to R167). One of an abandoned task may land or not. -/
def execCopyComplete (s : State) : Host.Outcome State Fault Refusal :=
  let core := arg s 0
  match findCopy s core (arg s 1) with
  | none => .next s
  | some e =>
    if !e.started then .next s
    else
      let s := if e.fin then s
        else
          let (land, s) := if e.abandoned then takeFreeBit s else (true, s)
          if !land then modCopy s core e.op (fun e => { e with fin := true })
          else
            let (r, fl) := e.perform s core
            let s := modCopy r.s core e.op (fun e => { e with fin := true, fault := r.fault, flags := fl })
            if bitOf e.d3 21 ∧ e.early.isNone ∧ !e.abandoned then
              schedule s s.now .barrierDecrement [pkgOfCore core, bits e.d3 15 6, r.landed] else s
      match findCopy s core (arg s 1) with
      | none => .next s
      | some e =>
        let live := sameTask s core e.slot e.inc && !e.abandoned
        if live && e.fault.isSome && !recRoom s core e.slot then .next (schedule s (s.now + 1) .copyComplete [core, e.op])
        else
          let s := modCore s core (fun c => { c with cq := c.cq.filter (fun x => x.op != e.op) })
          let s := if live && e.commit && e.fault.isNone then copyCommit s core e else s
          let s := completeWm s core e.slot e.op live e.chan e.flags e.fault
          .next (soon s .copyStart [core, e.op])

end Sys2Proof.Machine
end

