-- ==== Sys2Proof/Machine/Geyser.lean ====
section
/-! DEFINITION. The Geyser: cells, increments, step clocks, saving and loading, and the instructions of majors 0x38 and 0x39
(R233 to R246). -/
namespace Sys2Proof.Machine
open Sys2Proof

/-! ### Cells and clocks (Tables 9-1 to 9-5) -/

def gcellOf (s : State) (core i : Nat) : GCell := (getCore s core).gcells.get GCell.clear i
def putGcell (s : State) (core i : Nat) (g : GCell) : State := modCore s core (fun c => { c with gcells := c.gcells.ins i g })
def gclkOf (s : State) (core n : Nat) : GClk := vget GClk.clear (getCore s core).gclk n
def putGclk (s : State) (core n : Nat) (k : GClk) : State := modCore s core (fun c => { c with gclk := vset c.gclk n k })
/-- Sets bits of the sticky status. -/
def stickGey (s : State) (core : Nat) (m : W64) : State := modCore s core (fun c => { c with gsticky := c.gsticky ||| m })

def GCell.enabled (g : GCell) : Bool := g.cfg.getLsbD 15
def GCell.dom (g : GCell) : Nat := g.cfg.toNat / 2 ^ 12 % 4
/-- The state word (Table 9-2). -/
def GCell.word (g : GCell) : Nat :=
  g.lastf * 2 ^ 24 + (g.dxl % 16).toNat * 2 ^ 20 + b2n g.dxo * 2 ^ 19 + g.dyl * 2 ^ 16 + g.cfg.toNat
def GCell.routeWord (g : GCell) : Nat :=
  (List.range 4).foldl (fun a j => a + (vget 0 g.routes j).toNat * 2 ^ (16 * j)) 0
/-- A clock's control dword (Table 9-4). -/
def GClk.word (k : GClk) : W64 :=
  BitVec.ofNat 64 (k.remain.toNat * 2 ^ 32 + k.cc * 2 ^ 28 + b2n k.cnt * 2 ^ 27 + k.mode * 2 ^ 25 + k.owner * 2 ^ 16 + k.div)

/-- An increment arriving at a cell's dx or dy input (R239). -/
def GCell.latch (g : GCell) (dx neg : Bool) : GCell :=
  if dx then
    let v := g.dxl + (if neg then -1 else 1)
    if -8 ≤ v ∧ v ≤ 7 then { g with dxl := v } else { g with dxo := true }
  else { g with dyl := if g.dyl = 0 then (if neg then 2 else 1) else 3 }
def latchAt (s : State) (core i : Nat) (dx neg : Bool) : State := putGcell s core i ((gcellOf s core i).latch dx neg)

/-- One step of an enabled cell (R239): the cell after it, its fire, its overrun kind, and whether Y was clamped. -/
def GCell.step (g : GCell) : GCell × Int × Nat × Bool :=
  let d : Int := g.dxl + (if g.cfg.getLsbD 14 then 1 else 0)
  let o1 : Nat := if g.dyl = 3 ∨ g.dxo then 1 else 0
  let t : Int := g.r.toInt + d * g.y.toInt
  let r : Int := (t + 2 ^ 31) % 2 ^ 32 - 2 ^ 31
  let f : Int := (t - r) / 2 ^ 32
  let ovr := o1 + (if 1 < f ∨ f < -1 then 2 else 0)
  let rest : GCell := { g with dyl := 0, dxl := 0, dxo := false, lastf := 0 }
  if ovr = 0 then
    let by_ : Int := 2 ^ (g.cfg.toNat % 32)
    let y : Int := if g.dyl = 1 then g.y.toInt + by_ else if g.dyl = 2 then g.y.toInt - by_ else g.y.toInt
    let yc : Int := max (-2 ^ 31) (min (2 ^ 31 - 1) y)
    ({ rest with r := BitVec.ofInt 32 r, y := BitVec.ofInt 32 yc, lastf := if f = 1 then 1 else if f = -1 then 2 else 0 },
      f, 0, decide (yc ≠ y))
  else (rest, 0, ovr, false)

/-- Stops a clock (R238). -/
def stopClock (s : State) (core n : Nat) : State :=
  putGclk s core n { gclkOf s core n with mode := 0, remain := 0, owner := 0, cnt := false }
/-- Halts a clock; its counter is raised if CNT is 1 (R238). -/
def haltClock (s : State) (core n : Nat) : State :=
  let k := gclkOf s core n
  let s := stopClock s core n
  if k.cnt then raiseCc s core k.cc 1 else s

/-- Delivers a fire by a route entry: here, or over a column link 4 cycles later; one whose target core is out of service is
dropped (R235, R236). -/
def deliverFire (s : State) (core : Nat) (route : BitVec 16) (f : Int) : State :=
  if !route.getLsbD 15 then s
  else
    let neg := (if route.getLsbD 14 then -f else f) == -1
    let dx := route.getLsbD 13
    let cell := route.toNat % 256
    let tgt := route.toNat / 2 ^ 11 % 4
    if tgt = 0 then latchAt s core cell dx neg
    else
      let to_ := if tgt = 1 then core + 1 else core - 1
      if !inSvc s to_ then stickGey s core 2
      else schedule s (s.now + 4) .geyserLinkIncrement [to_, cell, b2n dx, b2n neg]
/-- Delivers the fires of a cell's four routes in entry order. -/
def deliverFires (s : State) (core : Nat) (g : GCell) (f : Int) : State :=
  if f = 0 then s else g.routes.toList.foldl (fun s r => deliverFire s core r f) s

/-- What an overrun leaves for the slot that owned the clock: its fault and its counter's raise, held together while the slot has no
room for a record (R163); of a task that has retired, the notice (R240, R241). `cc` is the counter and 1 more, 0 for none. -/
def overrunRecord (s : State) (core owner inc value cc id : Nat) : State :=
  let v := BitVec.ofNat 64 value
  let raise (s : State) : State := if cc = 0 then s else raiseCc s core (cc - 1) 1
  let t := getSlot s core owner
  if t.st = .free ∨ t.incarn.toNat ≠ inc then raise (faultLog s (regionOf s core) (pkgOfCore core) 0x09 3 core 0 v)
  else if !recRoom s core owner then schedule s (s.now + 1) .geyserClockHalt [core, 4, owner, inc, value, cc, id]
  else raise (addRec s core owner
    { obj := .geyser, order := id, cause := 0x09, unit := 3, value := v, alt := if cc = 0 then none else some (cc - 1) })
/-- The overrun of a clock's domain: record, sticky status, the halt, the owner's fault (R240, R241). -/
def overrun (s : State) (core dom : Nat) (cells : List (Nat × Nat)) : State :=
  match cells with
  | [] => s
  | (cell, kind) :: _ =>
    let k := gclkOf s core dom
    let v := BitVec.ofNat 64 (k.steps.toNat % 2 ^ 32 * 2 ^ 32 + kind * 2 ^ 10 + dom * 2 ^ 8 + cell)
    let s := modCore s core (fun c => { c with
      gorec := vset c.gorec dom v, gsticky := satAdd16 (c.gsticky ||| 4) 16 cells.length })
    let (id, s) := takeId s
    overrunRecord (stopClock s core dom) core k.owner (getSlot s core k.owner).incarn.toNat v.toNat (if k.cnt then k.cc + 1 else 0) id

/-- Whether a cycle counts for the step clocks of a package (R420). -/
def clkCounts (level c : Nat) : Bool := level == 0 || Config.throttleIssues level (c % 8)
/-- The cycle in which the `n`-th counted cycle after `c` falls, looked for over a number of cycles. -/
def afterCounted (level : Nat) : Nat → Nat → Nat → Nat
  | 0, _, c => c
  | fuel + 1, n, c => if n = 0 then c else afterCounted level fuel (if clkCounts level (c + 1) then n - 1 else n) (c + 1)
/-- The boundary that follows `c` for a period of `div` cycles; throttling stretches the period (R238, R420). -/
def boundaryAfter (s : State) (core c div : Nat) : Nat :=
  let level := (getPkg s (pkgOfCore core)).throttle
  if level = 0 then c + div else afterCounted level (8 * div) div c
/-- How many cycles after `now` up to `c` count at a level. -/
def countedUpTo (level now c : Nat) : Nat := ((List.range (c - now)).filter (fun i => clkCounts level (now + 1 + i))).length
/-- The throttle level of a package changes: what is left of each running clock's period counts by the new level. -/
def setThrottle (s : State) (pkg level : Nat) : State :=
  let old := (getPkg s pkg).throttle
  let s := modPkg s pkg (fun p => { p with throttle := level })
  let cores := s.cores.filter (fun e => pkgOfCore e.1 == pkg && !e.2.gfrozen && e.2.gclk.toList.any (fun k => k.mode != 0))
  cores.foldl (fun s e => (List.range 4).foldl (fun s n =>
    let k := gclkOf s e.1 n
    if k.mode = 0 then s
    else
      let next := boundaryAfter s e.1 s.now (countedUpTo old s.now k.next)
      scheduleOnce (putGclk s e.1 n { k with next := next }) next .geyserBoundary [e.1]) s) s
/-- `geyserBoundary` [core]: the boundaries of this cycle: every enabled cell of their domains steps on its latches as they
stood, then the fires are latched or sent, then clocks count, halt on overruns or go on (R237 to R240). -/
def execGeyserBoundary (s : State) : Host.Outcome State Fault Refusal :=
  let core := arg s 0
  let c := getCore s core
  let ds := (List.range 4).filter (fun n => let k := vget GClk.clear c.gclk n; k.mode != 0 && k.next == s.now)
  if c.gfrozen ∨ ds = [] then .next s
  else
    let stepped := (c.gcells.filter (fun p => p.2.enabled && ds.contains p.2.dom)).map (fun p => (p.1, p.2, p.2.step))
    let s := stepped.foldl (fun s p => putGcell s core p.1 p.2.2.1) s
    let s := if stepped.any (fun p => p.2.2.2.2.2) then stickGey s core 1 else s
    let s := ds.foldl (fun s n =>
      let k := gclkOf s core n
      putGclk s core n { k with
        steps := k.steps + 1, next := boundaryAfter s core k.next k.div, remain := if k.mode = 1 then k.remain - 1 else k.remain }) s
    let s := stepped.foldl (fun s p => deliverFires s core p.2.1 p.2.2.2.1) s
    let s := ds.foldl (fun s n =>
      overrun s core n ((stepped.filter (fun p => p.2.1.dom == n && p.2.2.2.2.1 != 0)).map (fun p => (p.1, p.2.2.2.2.1)))) s
    .next (ds.foldl (fun s n =>
      let k := gclkOf s core n
      if k.mode = 0 then s
      else if k.mode = 1 ∧ k.remain = 0 then soon s .geyserClockHalt [core, n]
      else scheduleOnce s k.next .geyserBoundary [core]) s)

/-- `geyserClockHalt` [core, clock]: an armed clock whose steps have run out halts (R238); with clock 4, what an overrun left for its
slot comes again, [core, 4, slot, incarnation, value, counter, order] (R163). -/
def execGeyserClockHalt (s : State) : Host.Outcome State Fault Refusal :=
  if arg s 1 = 4 then .next (overrunRecord s (arg s 0) (arg s 2) (arg s 3) (arg s 4) (arg s 5) (arg s 6)) else
  let k := gclkOf s (arg s 0) (arg s 1 % 4)
  .next (if k.mode = 1 ∧ k.remain = 0 then haltClock s (arg s 0) (arg s 1 % 4) else s)

/-- `geyserLinkIncrement` [core, cell, dx, neg]: an increment from a neighbour is latched (R236). -/
def execGeyserLinkIncrement (s : State) : Host.Outcome State Fault Refusal :=
  .next (latchAt s (arg s 0) (arg s 1 % 256) (arg s 2 == 1) (arg s 3 == 1))

/-- The Geyser of a core cleared (R234). -/
def clearGeyser (s : State) (core : Nat) : State :=
  modCore s core (fun c => { c with
    gcells := [], gclk := Vector.replicate 4 GClk.clear, gorec := Vector.replicate 4 0, gsticky := 0, gjob := none, gfrozen := false })

/-! ### The instructions (R242, R243) -/

/-- What a Geyser instruction waits for or delivers before it acts: a `gsave` or `grest` in progress, a recorded fault
(R241, R242, R244). -/
def geyGate (s : State) : Option State :=
  if (myCore s).gjob.isSome then some (stallMe s) else deliverRec s (fun r => r.obj == .geyser)
/-- Whether a core has the neighbour that a route's target names. -/
def routeBad (core tgt : Nat) : Bool := tgt == 3 || (tgt == 1 && posOfCore core == 15) || (tgt == 2 && posOfCore core == 0)
/-- A route entry as it is stored (Table 9-3). -/
def routeStore (v : Nat) : BitVec 16 := if v.testBit 15 then BitVec.ofNat 16 v &&& 0xF8FF else 0

/-- `gpatch` (R243). -/
def execGpatch (w : BitVec 3) (a b : BitVec 5) (s : State) : Host.Outcome State Fault Refusal :=
  match geyGate s with
  | some s => .next s
  | none =>
    let v := xr s b
    if bitOf v 15 ∧ routeBad s.curCore (bits v 11 2) then .next (trapHere s 0x05 0 v)
    else
      let i := bits (xr s a) 0 8
      let g := gcellOf s s.curCore i
      .next (retire (putGcell s s.curCore i { g with routes := vset g.routes (bits (xr s a) 8 2) (routeStore v.toNat) }) w)
/-- `gcell` (R243). -/
def execGcell (w : BitVec 3) (a b : BitVec 5) (f : BitVec 2) (s : State) : Host.Outcome State Fault Refusal :=
  match geyGate s with
  | some s => .next s
  | none =>
    let i := bits (xr s a) 0 8
    let g := gcellOf s s.curCore i
    let v := xr s b
    let g' : GCell := if f = 0 then { g with y := v.setWidth 32 } else if f = 1 then { g with r := v.setWidth 32 }
      else { g with cfg := v.setWidth 16 &&& 0xF01F, dyl := 0, dxl := 0, dxo := false, lastf := 0 }
    .next (retire (putGcell s s.curCore i g') w)
/-- `grd` (Table 9-7). -/
def execGrd (w : BitVec 3) (a d : BitVec 5) (s : State) : Host.Outcome State Fault Refusal :=
  match geyGate s with
  | some s => .next s
  | none =>
    let g := gcellOf s s.curCore (bits (xr s a) 0 8)
    let f := bits (xr s a) 8 2
    scalarResult s w d 3 (if f = 0 then g.y.signExtend 64 else if f = 1 then g.r.signExtend 64
      else if f = 2 then BitVec.ofNat 64 g.word else BitVec.ofNat 64 g.routeWord)
/-- `gclk` (R243). -/
def execGclk (w : BitVec 3) (a : BitVec 5) (n : BitVec 2) (s : State) : Host.Outcome State Fault Refusal :=
  match geyGate s with
  | some s => .next s
  | none =>
    let k := gclkOf s s.curCore n.toNat
    let v := bits (xr s a) 0 16
    if k.mode ≠ 0 then .next (trapHere s 0x05 0 (n.setWidth 64))
    else if v < 2 then .next (trapHere s 0x05 0 (xr s a))
    else .next (retire (putGclk s s.curCore n.toNat { k with div := v }) w)

/-- Starts a halted clock in a mode with a count of steps (R238, R243). -/
def startClock (s : State) (w : BitVec 3) (m : BitVec 4) (c : BitVec 1) (n : BitVec 2) (mode : Nat) (steps : W32) :
    Host.Outcome State Fault Refusal :=
  let k := gclkOf s s.curCore n.toNat
  if k.mode ≠ 0 then .next (trapHere s 0x05 0 (n.setWidth 64))
  else if mode = 1 ∧ steps = 0 then .next (retire (if c = 1 then raiseCc s s.curCore m.toNat 1 else s) w)
  else
    let s := putGclk s s.curCore n.toNat { k with
      mode := mode, remain := steps, cc := m.toNat, cnt := c == 1, owner := s.curSlot, next := boundaryAfter s s.curCore s.now k.div }
    .next (retire (scheduleOnce s (boundaryAfter s s.curCore s.now k.div) .geyserBoundary [s.curCore]) w)
/-- `gstep` (R243). -/
def execGstep (w : BitVec 3) (a : BitVec 5) (m : BitVec 4) (c : BitVec 1) (n : BitVec 2) (s : State) :
    Host.Outcome State Fault Refusal :=
  match geyGate s with
  | some s => .next s
  | none => startClock s w m c n 1 ((xr s a).setWidth 32)
/-- `grun` (R243). -/
def execGrun (w : BitVec 3) (m : BitVec 4) (c : BitVec 1) (n : BitVec 2) (s : State) : Host.Outcome State Fault Refusal :=
  match geyGate s with
  | some s => .next s
  | none => startClock s w m c n 2 0
/-- `ghalt` (R243). -/
def execGhalt (w : BitVec 3) (n : BitVec 2) (s : State) : Host.Outcome State Fault Refusal :=
  match geyGate s with
  | some s => .next s
  | none => .next (retire (if (gclkOf s s.curCore n.toNat).mode = 0 then s else haltClock s s.curCore n.toNat) w)
/-- `gstat` (R243). -/
def execGstat (w : BitVec 3) (a d : BitVec 5) (s : State) : Host.Outcome State Fault Refusal :=
  match geyGate s with
  | some s => .next s
  | none =>
    let n := bits (xr s a) 0 2
    let item := bits (xr s a) 2 2
    let c := myCore s
    let v := if item = 0 then (gclkOf s s.curCore n).steps else if item = 1 then (gclkOf s s.curCore n).word
      else if item = 2 then vget 0 c.gorec n else c.gsticky
    let s := if !bitOf (xr s a) 4 then s
      else if item = 2 then modMyCore s (fun c => { c with gorec := vset c.gorec n 0 })
      else if item = 3 then modMyCore s (fun c => { c with gsticky := 0 }) else s
    scalarResult s w d 3 v
/-- `ginj` (R243). -/
def execGinj (w : BitVec 3) (v : BitVec 5) (k : BitVec 3) (s : State) : Host.Outcome State Fault Refusal :=
  match geyGate s with
  | some s => .next s
  | none =>
    .next (retire ((List.range 8).foldl (fun t i =>
      if (kr s k).getLsbD i then
        let x := lane (vr s v) 32 i
        latchAt t s.curCore (x % 256) (x.testBit 8) (x.testBit 9)
      else t) s) w)
/-- `gtap` (R243). -/
def execGtap (w : BitVec 3) (d v : BitVec 5) (k : BitVec 3) (s : State) : Host.Outcome State Fault Refusal :=
  match geyGate s with
  | some s => .next s
  | none => vecPlain s w d k 32 8 4 (fun i =>
      let x := lane (vr s v) 32 i
      let g := gcellOf s s.curCore (x % 256)
      let f := x / 256 % 4
      if f = 0 then g.y.toNat else if f = 1 then g.r.toNat else if f = 2 then g.word else g.routeWord % 2 ^ 32)

/-! ### Saving and loading (R244) -/

/-- The image of cells and clocks, dword by dword (Table 9-8). -/
def geyImage (s : State) (core first n : Nat) (clk : Bool) : List W64 :=
  (if clk then (List.range 4).flatMap (fun i => [(gclkOf s core i).steps, (gclkOf s core i).word]) else []) ++
  (List.range n).flatMap (fun i =>
    let g := gcellOf s core (first + i)
    [BitVec.ofNat 64 (g.r.toNat * 2 ^ 32 + g.y.toNat), BitVec.ofNat 64 g.routeWord, BitVec.ofNat 64 g.word, 0])

/-- Issues a `gsave` or `grest` after the checks of R244. -/
def geyFork (s : State) (w : BitVec 3) (a b : BitVec 5) (m : BitVec 4) (c k : BitVec 1) (save : Bool) :
    Host.Outcome State Fault Refusal :=
  match geyGate s with
  | some s => .next s
  | none =>
    let p := xr s a
    let first := bits (xr s b) 0 8
    let n := bits (xr s b) 8 8 + 1
    let len := 64 * k.toNat + 32 * n
    if p.toNat % 64 ≠ 0 then .next (trapHere s 0x03 0 p)
    else if 0x40000 < p.toNat + len ∨ (!lvlOf (me s) ∧ sysOnlyRange s s.curCore p.toNat len) then .next (trapHere s 0x05 0 p)
    else if 256 < first + n ∨ (List.range 4).any (fun i => (gclkOf s s.curCore i).mode != 0) then .next (trapHere s 0x05 0 (xr s b))
    else
      let part := partOf s (me s).part
      let grans := (List.range ((p.toNat + len - 1) / 4096 + 1 - p.toNat / 4096)).map (fun i => p.toNat / 4096 + i)
      match grans.find? (fun g => touch s s.curCore part g != .ok) with
      | some g => if touch s s.curCore part g = .prot then .next (trapHere s 0x05 0 p)
        else .next (soon (stallMe s) .granuleRestore [s.curCore, g])
      | none =>
        let (op, s) := takeId s
        let j : GJob := {
          op := op, slot := s.curSlot, save := save, p := p.toNat, first := first, n := n, clk := k == 1,
          cc := if c = 1 then some m.toNat else none, image := if save then geyImage s s.curCore first n (k == 1) else [],
          abandoned := false }
        let due := s.now + (len + 63) / 64 + (if save then 4 else 6)
        let s := modMyCore s (fun c => { c with gjob := some j })
        .next (retire (schedule s due (if save then .gsaveComplete else .grestComplete) [s.curCore]) w)
/-- `gsave` (R244). -/
def execGsave (w : BitVec 3) (a b : BitVec 5) (m : BitVec 4) (c k : BitVec 1) (s : State) := geyFork s w a b m c k true
/-- `grest` (R244). -/
def execGrest (w : BitVec 3) (a b : BitVec 5) (m : BitVec 4) (c k : BitVec 1) (s : State) := geyFork s w a b m c k false

/-- Ends a `gsave` or `grest`. -/
def endGjob (s : State) (core : Nat) (j : GJob) : State :=
  let s := modCore s core (fun c => { c with gjob := none })
  match j.cc with
  | some n => if j.abandoned then s else raiseCc s core n 1
  | none => s

/-- `gsaveComplete` [core]: the image is in local memory; an abandoned one may or may not have been written (R23). -/
def execGsaveComplete (s : State) : Host.Outcome State Fault Refusal :=
  let core := arg s 0
  match (getCore s core).gjob with
  | none => .next s
  | some j =>
    if !j.save then .next s
    else
      let (land, s) := if j.abandoned then takeFreeBit s else (true, s)
      let s := if land then
          (j.image.zipIdx).foldl (fun s p => putDword s (localPa core (j.p + 8 * p.2)) p.1) s
        else s
      .next (endGjob s core j)

/-- Loads one clock from its two dwords. -/
def loadClk (s : State) (core n : Nat) (steps ctl : W64) : State :=
  putGclk s core n { GClk.clear with steps := steps, div := max 2 (bits ctl 0 16) }
/-- Loads one cell from its record. -/
def loadCell (s : State) (core i : Nat) (d0 d1 d2 : W64) : State :=
  let route (j : Nat) : BitVec 16 :=
    let v := bits d1 (16 * j) 16
    if routeBad core (v / 2 ^ 11 % 4) then 0 else routeStore v
  putGcell s core i {
    y := d0.setWidth 32, r := (d0 >>> 32).setWidth 32, cfg := d2.setWidth 16 &&& 0xF01F, dyl := bits d2 16 2,
    dxl := (BitVec.ofNat 4 (bits d2 20 4)).toInt, dxo := bitOf d2 19, lastf := if bits d2 24 2 = 3 then 0 else bits d2 24 2,
    routes := #v[route 0, route 1, route 2, route 3] }

/-- `grestComplete` [core]: what stands below the first uncorrectable dword's record is loaded (R244). -/
def execGrestComplete (s : State) : Host.Outcome State Fault Refusal :=
  let core := arg s 0
  match (getCore s core).gjob with
  | none => .next s
  | some j =>
    let n8 := (if j.clk then 8 else 0) + 4 * j.n
    let bad := (List.range n8).find? (fun i => decide (wordErr s (localPa core (j.p + 8 * i)) = .ecc))
    if j.save then .next s
    else if !j.abandoned && bad.isSome && !recRoom s core j.slot then .next (schedule s (s.now + 1) .grestComplete [core])
    else
      let (land, s) := if j.abandoned then takeFreeBit s else (true, s)
      let good := match bad with
        | some i => i
        | none => n8
      let base := if j.clk then 8 else 0
      let dw (s : State) (i : Nat) : W64 := dwordAt s (localPa core (j.p + 8 * i))
      let s := if land then
          let s := (List.range good).foldl (fun s i => noteRead s (localPa core (j.p + 8 * i))) s
          let s := if j.clk ∧ 8 ≤ good then (List.range 4).foldl (fun s i => loadClk s core i (dw s (2 * i)) (dw s (2 * i + 1))) s else s
          (List.range j.n).foldl (fun s i =>
            if base + 4 * i + 4 ≤ good then
              loadCell s core (j.first + i) (dw s (base + 4 * i)) (dw s (base + 4 * i + 1)) (dw s (base + 4 * i + 2))
            else s) s
        else s
      let s := match bad with
        | some i => if j.abandoned then s else addRec s core j.slot {
            obj := match j.cc with | some n => .cc n | none => .geyser,
            order := j.op, cause := 0x06, unit := 3, value := BitVec.ofNat 64 (j.p + 8 * i), alt := none }
        | none => s
      .next (endGjob s core j)

end Sys2Proof.Machine
end

