-- ==== Sys2Proof/Machine/Foyer.lean ====
section
/-! DEFINITION. The Foyer's binding of seeds, stage tasks and task records, the dependence table, and the lending of cores
(R15 to R18, R24, R297, R312 to R320, R374 to R377, R386, R403). -/
namespace Sys2Proof.Machine
open Sys2Proof

/-! ### Regions, columns and images -/

/-- What stands where no image can be read. -/
def noImage : Image :=
  { readable := false, entries := [], stages := [], corridors := [], bars := [], port := none, seedEntry := none, complete := false,
    tables := false, cmap := none, stack := 0, cwbase := 0, waitchk := false, pubkey := [], sig := [], body := [] }
def noStage : Stage :=
  { col := 0, tasks := [], frame := 0, q := [], switches := [], handlers := [], colBar := none, waitchk := false }
def imgOf (s : State) (p : Part) : Image := (s.images.find p.image).getD noImage
/-- The packages a region has a rectangle on, ascending. -/
def Part.pkgList (p : Part) : List Nat := (List.range 4).filter (fun n => p.pkgs.testBit n)
/-- The columns of a rectangle at an origin of a package, in ascending (GRID_Y, GRID_X) order. -/
def rectCols (p : Part) (pkg oy ox : Nat) : List Nat :=
  (List.range p.ht).flatMap (fun y => (List.range p.wd).map (fun x => pkg * 32 + (oy + y) * 8 + ox + x))
/-- The columns of an admitted region (R374). -/
def regionCols (p : Part) : List Nat :=
  match p.originYX with
  | some (oy, ox) => p.pkgList.flatMap (fun n => rectCols p n oy ox)
  | none => []
def colCores (col : Nat) : List Nat := (List.range 16).map (coreAt col)
def regionCores (p : Part) : List Nat := (regionCols p).flatMap colCores
/-- The stage of an image by index; an image with no stage declared has stage 0 alone, on every column (R254). -/
def Image.stage (im : Image) (n : Nat) : Stage := im.stages.getD n noStage
def Image.stageCount (im : Image) : Nat := if im.stages = [] then 1 else im.stages.length
/-- Whether a stage is a successor stage: some switch operand names it (R376). -/
def Image.successor (im : Image) (n : Nat) : Bool := im.stages.any (fun st => st.switches.any (fun w => w.2 == n))
/-- The stages bound at admission to column `k` of the region. -/
def Image.stageAt (im : Image) (k : Nat) : Option Nat :=
  if im.stages = [] then some 0
  else (List.range im.stages.length).find? (fun n => (im.stage n).col == k && !im.successor n)
/-- The stage a column holds now for a region. -/
def colStage (s : State) (rcb col : Nat) : Option Nat :=
  (colCores col).findSome? (fun c => match (getCore s c).grant with
    | some g => if g.rcb = rcb then some g.stage else none
    | none => none)
/-- The region a column is granted to, or 0. -/
def colRegion (s : State) (col : Nat) : Nat :=
  ((colCores col).findSome? (fun c => (getCore s c).grant.map (fun g => g.rcb))).getD 0
/-- The task entry that a stage names for a position (R296). -/
def Stage.taskAt (st : Stage) (pos : Nat) : Option Nat := (st.tasks.getD pos none)
/-- The corridor that a record of a region's image declares. -/
def corrOf (s : State) (rcb : Nat) (im : Image) (n : Nat) : Option (Nat × Corr) :=
  (im.corridors[n]?).bind (fun d => s.corrs.find? (fun p => p.2.rcb == rcb && p.2.id == bits (d.getD 1 0) 16 8))

/-- Binds the endpoints of a column's cores for a stage (R254, R375). -/
def bindEndpoints (s : State) (p : Part) (col stage : Nat) : State :=
  let im := imgOf s p
  let q := if im.stages = [] then im.cmap.getD [] else (im.stage stage).q
  (colCores col).foldl (fun s core =>
    let one (k : Nat) : Option Endpoint :=
      match q[k]? with
      | none => none
      | some n => match corrOf s p.rcb im n with
        | none => none
        | some (key, c) =>
          let e (cons : Bool) : Option Endpoint := some { corr := key, cons := cons, switched := none, pops := [] }
          if im.stages = [] then e (c.home == core)
          else if c.home = core ∧ c.cons = stage then e true
          else if c.prod = stage then e false else none
    modCore s core (fun co => { co with ep := Vector.ofFn (fun i => one i.val) })) s

/-! ### Binding (R18, R24, R312) -/

/-- Whether a slot may be bound: FREE for at least 64 cycles, on a core in service. -/
def slotFree (s : State) (core slot : Nat) : Bool :=
  let t := getSlot s core slot
  inSvc s core && t.st == .free && (match t.retiredAt with | some r => decide (r + 64 ≤ s.now) | none => true)
/-- A region and its ancestors that are taken in, the partition at the root of its chain last. -/
def chainOf (s : State) (rcb : Nat) : Nat → List Part
  | 0 => []
  | n + 1 => match findPart s rcb with
    | some p => p :: (if p.parent = 0 then [] else match findPart s p.parent with
      | some _ => chainOf s p.parent n
      | none => (findPart s p.root).toList)
    | none => []
/-- Tasks bound on a die in a region or a region below it. -/
def boundOn (s : State) (rcb pkg : Nat) : Nat :=
  (s.slots.filter (fun e => e.1 % 8 != 4 && e.2.st != .free && pkgOfCore (e.1 / 8) == pkg &&
    (chainOf s e.2.part 8).any (fun p => p.rcb == rcb))).length
/-- Whether SLOTS of a region and its ancestors leave room on a die (R312). -/
def slotsRoom (s : State) (rcb pkg : Nat) : Bool := (chainOf s rcb 8).all (fun p => decide (boundOn s p.rcb pkg < p.slots))

/-- A new task in a slot, with the registers of Table 1-6; none where spilled groups in the slot's bank find no other place. -/
def bindTask (s : State) (core slot : Nat) (pc : W64) (origin : Origin) (part : Nat) (coord : Nat) (x3 x4 : W64) (check : Bool)
    (stack ready : Nat) : Option State :=
  (claimBank s core slot).map (fun s =>
    modSlot s core slot (fun t =>
      let st := if stack = 0 then 4096 else stack
      let x := vset (vset (vset (Vector.replicate 32 (0 : W64)) 2 (BitVec.ofNat 64 (0x38000 - slot * st))) 3 x3) 4 x4
      { Slot.reset with
        st := .run, pc := pc, x := x, k := vset (Vector.replicate 8 (0 : W32)) 0 0xFFFFFFFF, part := part,
        taskid := BitVec.ofNat 64 (coord * 256 + slot), incarn := if t.incarn = 255 then 1 else t.incarn + 1,
        waitchk := if check then 1 else 0, origin := some origin, ready := ready }))
/-- A core is reported to its fault domain because a slot's spilled groups cannot move; cause and unit are free (R174, R441). Log
entry 2. -/
def bankNotice (s : State) (core : Nat) : State :=
  let (v, s) := takeFree s
  faultLog s (partOfCore s core) (pkgOfCore core) (v.toNat % 256) (v.toNat / 256 % 16) core 0 0
/-- The first of some slots that can be bound: one whose spilled groups cannot move is passed over and reported (R174). -/
def pickBank : List (Nat × Nat) → State → State × Option (Nat × Nat)
  | [], s => (s, none)
  | (c, k) :: r, s => if (claimBank s c k).isSome then (s, some (c, k)) else pickBank r (bankNotice s c)
/-- The slots of some cores that may be bound for a region, in the order of the cores, the lower slot first (R312, R317). -/
def eligible (s : State) (rcb : Nat) (cores : List Nat) : List (Nat × Nat) :=
  (cores.filter (fun c => slotsRoom s rcb (pkgOfCore c))).flatMap (fun c => ((List.range 4).filter (slotFree s c)).map (fun k => (c, k)))
/-- When a bound task's first instruction issues: the binding message's way, the registers, the first line (Table 14-8). -/
def bindDelay (s : State) (core : Nat) (entry : W64) : Nat × State :=
  let gx := colOfCore core % 8
  let gy := colOfCore core / 8 % 4
  let base := 2 * (gx + gy + 1) + posOfCore core + 6
  match xlateUnit s (pkgOfCore core) (partOfCore s core) entry.toNat 4 true with
  | some pa =>
    (match placeOf pa with
      | .localMem c _ => if c = core then (base + 21, s) else (base + 41, s)
      | .slice c _ => if c = core then (base + 21, s) else (base + 41, s)
      | _ => let (d, s) := takeDelay s; (base + 21 + d, s))
  | none => (base + 21, s)
/-- The entry address of a task of an image. -/
def Image.entry (im : Image) (n : Nat) : Option W64 := (im.entries[n]?).map (fun e => e.pc)

/-! ### Stage tasks (R15, R297) -/

/-- Binds the stage tasks of a column in one cycle; false while a slot named by the list is not yet free to be bound. -/
def bindStage (s : State) (p : Part) (col : Nat) (only : Option Nat) : State × Bool :=
  match colStage s p.rcb col with
  | none => (s, true)
  | some n =>
    let im := imgOf s p
    let st := im.stage n
    let cores := (colCores col).filter (fun c => inSvc s c && (st.taskAt (posOfCore c)).isSome &&
      (match only with | some o => o == c | none => true))
    if im.stages = [] then (s, true)
    else if !cores.all (fun c => slotFree s c 0) then (s, false)
    else
      (cores.foldl (fun s c =>
        match (st.taskAt (posOfCore c)).bind im.entry with
        | none => s
        | some pc =>
          let coord := n * 2 ^ 32 + posOfCore c * 2 ^ 16
          match bindTask s c 0 pc (.stage col) p.rcb coord st.frame 0 st.waitchk im.stack (s.now + 7) with
          | some s => s
          | none => bankNotice s c) s, true)
/-- Binds the stage tasks of a column, or of one core of it, as soon as their slots may be bound. -/
def bindStageSoon (s : State) (p : Part) (col : Nat) (only : Option Nat) : State :=
  match bindStage s p col only with
  | (s, true) => s
  | (s, false) => schedule s (s.now + 1) .bindStageTasks (col :: (match only with | some c => [c + 1] | none => []))
/-- `bindStageTasks` [col] and [col, core and 1 more] (R297, R308, R325). -/
def execBindStageTasks (s : State) : Host.Outcome State Fault Refusal :=
  match findPart s (colRegion s (arg s 0)) with
  | none => .next s
  | some p => .next (if p.state = 3 then bindStageSoon s p (arg s 0) (if arg s 1 = 0 then none else some (arg s 1 - 1))
    else if p.state < 8 ∧ arg s 1 ≠ 0 then modPart s p.rcb (fun q => { q with rebind := q.rebind ++ [arg s 1 - 1] }) else s)

/-! ### Seed tasks (R312, R313, R377, R386, R403) -/

/-- The cores a region's seeds may be bound to, in POS order: those of the source stage that run no stage task. -/
def seedCores (s : State) (p : Part) : List Nat :=
  let im := imgOf s p
  ((regionCols p).filter (fun c => colStage s p.rcb c == some 0)).flatMap (fun col =>
    (colCores col).filter (fun c => im.stages == [] || ((im.stage 0).taskAt (posOfCore c)).isNone))
/-- BINDERR of a seed at binding: 1 its payload does not translate for reading, 2 its adapter slot is empty. -/
def bindErr (s : State) (pkg port : Nat) (p : Part) (tok : W64) : Nat :=
  let part := partOf s p.rcb
  let a := bits tok 36 4
  let tab := bits (getReg s (ccWin pkg (0x130 + 64 * port))) 7 45 * 128
  if (xlateUnit s pkg part (bits tok 0 36 * 64) 1 true).isNone then 1
  else if a = 0 then 0
  else match xlateUnit s pkg part (tab + 8 * a) 1 true with
    | none => 2
    | some pa => if wordErr s pa = .ecc ∨ (wordErr s pa).isAttic then 2 else if bitOf (dwordAt s pa) 0 then 0 else 2
/-- The walks that the checks of a seed at binding make (R336, R438). -/
def bindWalks (s : State) (pkg port : Nat) (p : Part) (tok : W64) : State :=
  let part := partOf s p.rcb
  let u := noteWalk s pkg part (bits tok 0 36 * 64)
  if bits tok 36 4 = 0 ∨ (xlateUnit s pkg part (bits tok 0 36 * 64) 1 true).isNone then u
  else noteWalk u pkg part (bits (getReg s (ccWin pkg (0x130 + 64 * port))) 7 45 * 128 + 8 * bits tok 36 4)
/-- Binds the first waiting seed of a port, if it is in the bind queue and an eligible slot stands free; says whether another of
the port may follow in the next cycle. -/
def bindSeed (s : State) (pkg port : Nat) : State × Bool :=
  let r := getPort s pkg port
  match r.part.bind (findPart s), r.queue with
  | some p, q :: _ =>
    if p.state ≠ 3 then (s, false)
    else match findSeed s pkg port q with
      | none => (modPort s pkg port (fun r => { r with queue := r.queue.filter (· != q) }), true)
      | some e =>
        let im := imgOf s p
        let cores := seedCores s p
        let order := cores.filter (fun c => decide (r.lastCore ≤ c)) ++ cores.filter (fun c => decide (c < r.lastCore))
        match (if s.now < e.ready then none else im.seedEntry.bind im.entry) with
        | none => (s, false)
        | some pc =>
          match pickBank (eligible s p.rcb order) s with
          | (s, none) => (s, false)
          | (s, some (c, slot)) =>
            let (d, s) := bindDelay s c pc
            let coord := e.token.toNat / 2 ^ 40 * 2 ^ 32 + bits e.token 36 4 * 65536
            match bindTask s c slot pc (.seed pkg port q) p.rcb coord (BitVec.ofNat 64 (bits e.token 0 36 * 64)) e.token im.waitchk
                im.stack (s.now + d) with
            | none => (s, false)
            | some s =>
              let err := bindErr s pkg port p e.token
              let s := bindWalks s pkg port p e.token
              let s := modPort s pkg port (fun r => { r with lastCore := c + 1, queue := r.queue.filter (· != q) })
              let s := modSeed s pkg port q (fun e => { e with state := 2 })
              (if err = 0 then s
                else
                  let s := { takeTrap (seedBindErr s pkg port q err) c slot 0x15 0 e.token pc with issued := s.issued }
                  modSlot s c slot (fun t => { t with ready := s.now + d }), true)
  | _, _ => (s, false)
/-- `bindSeedTask` [pkg, port]: the die's ports in order, one seed each (R312). -/
def execBindSeedTask (s : State) : Host.Outcome State Fault Refusal :=
  let pkg := arg s 0 % 4
  .next ((List.range 4).foldl (fun s n =>
    let (s, more) := bindSeed s pkg n
    if more ∧ (getPort s pkg n).queue ≠ [] then scheduleOnce s (s.now + 1) .bindSeedTask [pkg, n] else s) s)

/-! ### The dependence table (R314 to R318) -/

def DepEnt.dw (e : DepEnt) (i : Nat) : W64 := [e.d0, e.d1, e.d2, e.d3].getD i 0
def DepEnt.succs (e : DepEnt) : List Nat :=
  (if bitOf e.d3 31 then [bits e.d3 48 16] else []) ++ (if bitOf e.d3 30 then [bits e.d3 32 16] else [])
/-- Whether an entry of the table is a partition's for an ID. -/
def depIs (s : State) (part id : Nat) (e : DepEnt) : Bool := !e.bound && e.id == id && partOf s e.rcb == part
def generalRoom (s : State) (pkg : Nat) : Bool := ((getPkg s pkg).dep.filter (fun e => !e.bound && !e.res)).length < 240
def reservedRoom (s : State) (pkg : Nat) : Bool := ((getPkg s pkg).dep.filter (fun e => !e.bound && e.res)).length < 16
def setDep (s : State) (pkg : Nat) (f : List DepEnt → List DepEnt) : State := modPkg s pkg (fun p => { p with dep := f p.dep })
/-- Entries have freed: held writes and completions may go on. -/
def depFreed (s : State) (pkg : Nat) : State :=
  let p := getPkg s pkg
  if p.heldDone = [] ∧ p.heldWrites = [] then s else soon s .heldWriteTaken [pkg, 0]
/-- Raises the counter that a record names (R318). -/
def depRaise (s : State) (e : DepEnt) : State := if bitOf e.d3 14 then raiseCc s (bits e.d3 19 11) (bits e.d3 15 4) 1 else s
/-- Reports a record failed: its notice and its counter (R318, R441). -/
def depReport (s : State) (pkg : Nat) (e : DepEnt) (cause core : Nat) (pc : W64) : State :=
  depRaise (faultLog s e.rcb pkg cause 8 core pc e.va) e
/-- Fails the successors of a failed record, and theirs; they leave the table without running (R318). -/
def failSuccs (pkg part cause : Nat) : Nat → List Nat → State → State
  | 0, _, s => s
  | _, [], s => s
  | n + 1, id :: r, s =>
    match (getPkg s pkg).dep.find? (fun e => depIs s part id e && e.record) with
    | none => failSuccs pkg part cause n r s
    | some e =>
      let s := setDep s pkg (fun l => l.filter (fun x => x.uid != e.uid))
      failSuccs pkg part cause n (r ++ e.succs) (depReport s pkg e cause 0x7FF 0)
/-- A record that fails without running, with its successors. -/
def failRecord (s : State) (pkg : Nat) (e : DepEnt) (cause core : Nat) (pc : W64) : State :=
  let s := setDep s pkg (fun l => l.filter (fun x => x.uid != e.uid))
  depFreed (failSuccs pkg (partOf s e.rcb) cause 512 e.succs (depReport s pkg e cause core pc)) pkg

/-- A record comes into the table (R316); none where it must be held for want of an entry. -/
def recordArrives (s : State) (pkg rcb va : Nat) (d : List W64) : Option State :=
  let part := partOf s rcb
  let im := match findPart s rcb with
    | some p => imgOf s p
    | none => noImage
  let (uid, s) := takeId s
  let d2 := d.getD 2 0
  let e : DepEnt := {
    rcb := rcb, id := bits d2 48 16, record := true, credit := 0, ndep := bits d2 40 8, va := BitVec.ofNat 64 va,
    d0 := d.getD 0 0, d1 := d.getD 1 0, d2 := d2, d3 := d.getD 3 0, readyAt := none, bound := false, uid := uid, res := false }
  if bits d2 0 32 ≠ 0 ∨ bits e.d3 0 14 ≠ 0 ∨ im.stageCount ≤ bits d2 32 8 then
    some (failRecord (setDep s pkg (fun l => l.filter (fun x => !(depIs s part e.id x && !x.record)))) pkg e 0x01 0x7FF 0)
  else if (getPkg s pkg).dep.any (fun x => depIs s part e.id x && x.record) then some (depReport s pkg e 0x01 0x7FF 0)
  else
    let put (e : DepEnt) (s : State) : State :=
      let e := if e.ndep = 0 then { e with readyAt := some s.now } else e
      let s := setDep s pkg (fun l => l ++ [e])
      if e.ndep = 0 then soon s .bindTileTask [pkg] else s
    match (getPkg s pkg).dep.find? (fun x => depIs s part e.id x && !x.record) with
    | some c => some (put { e with ndep := e.ndep - c.credit } (setDep s pkg (fun l => l.filter (fun x => x.uid != c.uid))))
    | none =>
      if generalRoom s pkg then some (put e s)
      else if e.ndep = 0 ∧ reservedRoom s pkg then some (put { e with res := true } s) else none

/-- A write of a record's address to RECQ by a core: dropped and logged, taken, or none where it is held (R314). -/
def writeRecq (s : State) (pkg src : Nat) (v : W64) : Option State :=
  let s := setReg s (dieWin pkg uFoyer 0x20) v
  let rcb := if src < 2048 then regionOf s src else 0
  let part := partOf s rcb
  let drop (cause : Nat) : Option State := some (faultLog s rcb pkg cause 8 (if src < 2048 then src else 0x7FF) 0 v)
  if rcb = 0 then drop 0x05
  else if v.toNat % 32 ≠ 0 then drop 0x03
  else
    let va := bits v 5 47 * 32
    let s := noteWalk s pkg part va
    match xlateUnit s pkg part va 0 true, xlateUnit s pkg part va 1 true with
    | none, _ => drop 0x04
    | some _, none => drop 0x05
    | some _, some pa =>
      let u := (List.range 4).foldl (fun s i => noteRead s (pa + 8 * i)) s
      recordArrives u pkg rcb va ((List.range 4).map (fun i => dwordAt s (pa + 8 * i)))
/-- `recq` [pkg, src, value]. -/
def execRecq (s : State) : Host.Outcome State Fault Refusal :=
  match writeRecq s (arg s 0 % 4) (arg s 1) (argW s 2) with
  | some s => .next s
  | none => .next (modPkg s (arg s 0) (fun p => { p with heldWrites := p.heldWrites ++ [[0, arg s 1, arg s 2]] }))

/-- One completion of a successor: its record's NDEP, or a credit (R316, R318). -/
def creditSucc (s : State) (pkg rcb id : Nat) : State :=
  let part := partOf s rcb
  match (getPkg s pkg).dep.find? (depIs s part id) with
  | some e =>
    let ready := e.record && e.ndep == 1
    let s := setDep s pkg (fun l => l.map (fun x => if x.uid = e.uid then
      { x with
        ndep := x.ndep - 1, credit := if x.record then x.credit else x.credit + 1,
        readyAt := if ready then some s.now else x.readyAt } else x))
    if ready then soon s .bindTileTask [pkg] else s
  | none =>
    let (uid, s) := takeId s
    let e : DepEnt := {
      rcb := rcb, id := id, record := false, credit := 1, ndep := 0, va := 0, d0 := 0, d1 := 0, d2 := 0, d3 := 0,
      readyAt := none, bound := false, uid := uid, res := false }
    setDep s pkg (fun l => l ++ [e])
/-- The end of a record's task; none where a credit it must create finds no entry (R316, R318). -/
def recordEnds (s : State) (pkg uid code core : Nat) (pc : W64) : Option State :=
  match (getPkg s pkg).dep.find? (fun e => e.uid == uid) with
  | none => some s
  | some e =>
    if code ≠ 0 then some (failRecord s pkg e (code - 1) core pc)
    else
      let part := partOf s e.rcb
      let need := (e.succs.eraseDups.filter (fun id => !(getPkg s pkg).dep.any (depIs s part id))).length
      let used := ((getPkg s pkg).dep.filter (fun x => !x.bound && !x.res)).length
      if need ≠ 0 ∧ 240 < used + need then none
      else
        let s := e.succs.foldl (fun s id => creditSucc s pkg e.rcb id) s
        some (depRaise (setDep s pkg (fun l => l.filter (fun x => x.uid != uid))) e)
/-- `recordCompletion` [pkg, record, code, core, pc]: code 0 is completed, another one more than the cause (R318). -/
def execRecordCompletion (s : State) : Host.Outcome State Fault Refusal :=
  match recordEnds s (arg s 0 % 4) (arg s 1) (arg s 2) (arg s 3) (argW s 4) with
  | some s => .next s
  | none => .next (modPkg s (arg s 0) (fun p => { p with heldDone := p.heldDone ++ [s.args] }))
/-- Held completions, then held RECQ writes, in order, as far as they go. -/
def retryDone (pkg : Nat) : Nat → State → State
  | 0, s => s
  | n + 1, s => match (getPkg s pkg).heldDone with
    | a :: r => (match recordEnds s pkg (a.getD 1 0) (a.getD 2 0) (a.getD 3 0) (BitVec.ofNat 64 (a.getD 4 0)) with
      | some s => retryDone pkg n (modPkg s pkg (fun p => { p with heldDone := r }))
      | none => s)
    | [] => s

/-- The cores that hold a stage's configuration for a region, in CORENUM order (R317, R319). -/
def stageCores (s : State) (p : Part) (stage : Nat) : List Nat :=
  (regionCores p).filter (fun c => match (getCore s c).grant with
    | some g => g.rcb == p.rcb && (g.lent.getD g.stage) == stage && g.handTo.isNone
    | none => false)
/-- The first of some ready records whose task can go somewhere now, and where. -/
def recordPlace : List DepEnt → State → State × Option (DepEnt × Part × Nat × Nat)
  | [], s => (s, none)
  | e :: r, s =>
    match (findPart s e.rcb).filter (fun p => p.state == 3) with
    | none => recordPlace r s
    | some p =>
      match pickBank (eligible s p.rcb (stageCores s p (bits e.d2 32 8))) s with
      | (s, some (c, slot)) => (s, some (e, p, c, slot))
      | (s, none) => recordPlace r s
/-- Ready records in the order in which they became ready. -/
def readyRecords (s : State) (pkg : Nat) : List DepEnt :=
  let l := (getPkg s pkg).dep.filter (fun e => e.record && !e.bound && e.readyAt.isSome)
  sortBy (fun a b => decide (a.readyAt.getD 0 ≤ b.readyAt.getD 0)) l
/-- `bindTileTask` [pkg]: the first ready record that has an eligible slot; seeds of the same cycle go first (R16, R317). -/
def execBindTileTask (s : State) : Host.Outcome State Fault Refusal :=
  let pkg := arg s 0 % 4
  if s.agenda.any (fun p => decide (p.1 ≤ s.now) && p.2.1 == .bindSeedTask) then .next (schedule s s.now .bindTileTask [pkg])
  else
    let l := readyRecords s pkg
    match l.find? (fun e => match findPart s e.rcb with
        | some p => ((imgOf s p).entry (bits e.d0 0 8)).isNone
        | none => true) with
    | some e => .next (scheduleOnce (failRecord s pkg e 0x01 0x7FF 0) s.now .bindTileTask [pkg])
    | none =>
      match recordPlace l s with
      | (s, none) => .next s
      | (s, some (e, p, c, slot)) =>
        let im := imgOf s p
        let pc := (im.entry (bits e.d0 0 8)).getD 0
        let (d, s) := bindDelay s c pc
        match bindTask s c slot pc (.tile pkg e.uid) p.rcb (e.d0.toNat / 256) e.d1 e.va im.waitchk im.stack (s.now + d) with
        | none => .next s
        | some s =>
          let s := setDep s pkg (fun l => l.map (fun x => if x.uid = e.uid then { x with bound := true } else x))
          .next (scheduleOnce (depFreed s pkg) (s.now + 1) .bindTileTask [pkg])

/-! ### Lending (R319, R320) -/

/-- The corridors a stage of a region consumes, or produces into. -/
def stageCorrs (s : State) (rcb stage : Nat) (cons : Bool) : List Corr :=
  (s.corrs.filter (fun p => p.2.rcb == rcb && (if cons then p.2.cons else p.2.prod) == stage)).map (·.2)
/-- occ of a stage: the largest filled count over slots, as a fraction. -/
def stageOcc (s : State) (rcb stage : Nat) : Nat × Nat :=
  (stageCorrs s rcb stage true).foldl (fun a c => if a.1 * c.slots < c.filled * a.2 then (c.filled, c.slots) else a) (0, 1)
def backPressed (s : State) (rcb stage : Nat) : Bool :=
  let l := stageCorrs s rcb stage false
  l != [] && l.all (fun c => c.freeCount == 0)
/-- The spare cores a stage holds, those lent to it among them, in CORENUM order (R319). -/
def spareCores (s : State) (p : Part) (stage : Nat) : List Nat :=
  let im := imgOf s p
  (stageCores s p stage).filter (fun c => match (getCore s c).grant with
    | some g => ((im.stage g.stage).taskAt (posOfCore c)).isNone
    | none => false)
def fracLt (a b : Nat × Nat) : Bool := decide (a.1 * b.2 < b.1 * a.2)
/-- The stage of a list with the greatest, or least, occ; ties go to the lower index. -/
def bestStage (better : Nat → Nat → Bool) : List Nat → Option Nat
  | [] => none
  | n :: r => some (r.foldl (fun b m => if better m b then m else b) n)
/-- One lending step of a region. -/
def lendOnce (s : State) (p : Part) : State :=
  let im := imgOf s p
  let ss := (List.range im.stages.length).filter (fun n => (regionCols p).any (fun c => colStage s p.rcb c == some n))
  let occ := stageOcc s p.rcb
  let borrow := bestStage (fun m b => fracLt (occ b) (occ m)) (ss.filter (fun n => !fracLt (occ n) (3, 4) && !backPressed s p.rcb n))
  let donor := bestStage (fun m b => fracLt (occ m) (occ b)) (ss.filter (fun n => fracLt (occ n) (1, 4) && spareCores s p n != []))
  match borrow, donor with
  | some b, some d =>
    let l := spareCores s p d
    let (f, s) := takeFree s
    let c := l.getD (f.toNat % max l.length 1) 0
    let s := modCore s c (fun co => { co with grant := co.grant.map (fun g => { g with handTo := some b }) })
    soon s .coreHandover [c]
  | _, _ => s
/-- LENDPER of a die in cycles. -/
def lendPeriod (s : State) (pkg : Nat) : Nat := bits (getReg s (dieWin pkg uFoyer 0)) 16 16 * 256
/-- Samples are taken every LENDPER of a die from here on, where none is due yet. In which cycle of the period they fall is the
model's: DESIGN CHOICE, log entry 73. -/
def startLending (s : State) (pkg : Nat) : State :=
  let per := lendPeriod s pkg
  if per = 0 ∨ s.agenda.any (fun p => p.2.1 == .lendingSample && p.2.2 == [pkg]) then s
  else schedule s ((s.now / per + 1) * per) .lendingSample [pkg]
/-- `lendingSample` [pkg]: one step for each region in RUN that the die launched; the next sample follows a period later. -/
def execLendingSample (s : State) : Host.Outcome State Fault Refusal :=
  let pkg := arg s 0 % 4
  let per := lendPeriod s pkg
  if per = 0 then .next s
  else
    let s := (s.parts.filter (fun p => p.state == 3 && p.launchPkg == pkg)).foldl lendOnce s
    .next (scheduleOnce s (s.now + per) .lendingSample [pkg])
/-- `coreHandover` [core]: the core passes in the cycle its last task slot becomes FREE (R319). -/
def execCoreHandover (s : State) : Host.Outcome State Fault Refusal :=
  let core := arg s 0
  match (getCore s core).grant with
  | none => .next s
  | some g => match g.handTo with
    | none => .next s
    | some b =>
      if !(List.range 4).all (fun k => (getSlot s core k).st == .free) then .next s
      else
        let s := modCore s core (fun c => { c with grant := some { g with lent := if b = g.stage then none else some b, handTo := none } })
        .next (soon s .bindTileTask [pkgOfCore core])

end Sys2Proof.Machine
end

