-- ==== Sys2Proof/Machine/Drain.lean ====
section
/-! DEFINITION. The ending of tasks, drains and their forwarding, column faults and restarts, switch points, and the steps by
which a partition halts or ends (R29, R265 to R272, R307, R321, R322, R324, R326, R327, R385). -/
namespace Sys2Proof.Machine
open Sys2Proof

/-! ### Ending a task (R29) -/

/-- Ends the task of a slot for a cause: its errors dropped, its engines abandoned, its holdings flushed, its seed or record
reported. -/
def endTask (s : State) (core slot cause : Nat) : State :=
  let t := getSlot s core slot
  if t.st = .free then s
  else
    let s := modSlot s core slot (fun t => { t with errs := [], records := [], barFaults := [], freezing := false })
    let s := abandonOps (withdraw s core slot) core slot
    let s := modSlot s core slot (fun t => { t with request := none, replied := none })
    let s := flushTask s core slot none
    let s := match t.origin with
      | some (.seed pkg port q) => seedEnded s pkg port q cause
      | some (.tile pkg rec) => soon s .recordCompletion [pkg, rec, 1 + 0x0D, core, t.trappc.toNat]
      | _ => s
    freeSlot s core slot
/-- A notice whose cause no rule names: its cause and unit are free values (R441). Log entry 2. -/
def freeNotice (s : State) (rcb arose : Nat) : State :=
  let (v, s) := takeFree s
  faultLog s rcb arose (v.toNat % 256) (v.toNat / 256 % 16) 0x7FF 0 0

/-! ### Partition states (R307, Table 14-1) -/

/-- Writes STATE, and REASON where one is given, into dword 6 of a region control block. -/
def putRcb (s : State) (rcb st : Nat) (reason : Option Nat) : State :=
  let a := rcb + 48
  if wordErr s a = .ecc ∨ (wordErr s a).isAttic then s
  else
    let old := bits (dwordAt s a) 4 4
    putDword s a (BitVec.ofNat 64 ((reason.getD old) % 16 * 16 + st))
/-- Gives a partition and its children a state. -/
def setPartState (s : State) (rcb st : Nat) : State :=
  let l := s.parts.filter (fun p => p.state != 8 && p.state != 1 && partOf s p.rcb == rcb)
  l.foldl (fun s p => putRcb (modPart s p.rcb (fun p => { p with state := st })) p.rcb st none) s

/-! ### Drains (R266, R322) -/

/-- The consumer endpoints of a column that a partition's corridors are bound to. -/
def consumerEps (s : State) (col part : Nat) : List (Nat × Nat) :=
  (colCores col).flatMap (fun c => (List.range 8).filterMap (fun n => match vget none (getCore s c).ep n with
    | some e => if e.cons ∧ (corr? s e.corr).map (fun k => partOf s k.rcb) = some part then some (c, n) else none
    | none => none))
/-- Whether a slot is stalled in a `qpop` on one of some endpoints. -/
def popsOn (s : State) (eps : List (Nat × Nat)) (core slot : Nat) : Bool :=
  eps.any (fun e => e.1 == core && (match vget none (getCore s core).ep e.2 with
    | some x => x.pops.any (fun p => p.2 == slot)
    | none => false))
/-- Whether a slot's stall is for the fetch of its next instruction, which a page walk holds. -/
def fetchStalled (s : State) (core : Nat) (t : Slot) : Bool :=
  !t.fbuf.any (fun p => p.1 == t.pc.toNat) && (match (xlate s (pkgOfCore core) core (partOf s t.part) t.pc.toNat).1 with
    | .wait _ => true
    | _ => false)
/-- Whether a column's drain has come to its end: in a column without an input corridor each task is stalled on a cause other than
wait count, fetch refill and straddle (R266, R322). -/
def drainDone (s : State) (col : Nat) (d : Drain) : Bool :=
  let eps := consumerEps s col d.rcb
  let slots := colSlots s col d.rcb
  if d.source ∧ eps = [] then slots.all (fun p => (getSlot s p.1 p.2).stall.isSome && !fetchStalled s p.1 (getSlot s p.1 p.2))
  else slots.all (fun p => popsOn s d.met p.1 p.2) && eps.all (fun e => d.met.contains e)
/-- The column's drain ends: holders are ended, DTE slots take their DRAUGHT trap, the others freeze, and so do the clocks of cores
with no task (R28, R246, R266). -/
def endDrain (s : State) (col : Nat) (d : Drain) : State :=
  let s := modCol s col (fun c => { c with drain := c.drain.map (fun d => { d with ended := true }) })
  let s := { s with agenda := s.agenda.filter (fun p => !(p.2.1 == .drainAllowanceExpiry && p.2.2 == [col])) }
  let was := s.issued
  let s := (colSlots s col d.rcb).foldl (fun s p =>
    let t := (getSlot s p.1 p.2).landDue false s.now
    if t.st = .frozen then s
    else if t.holdR ≠ [] ∨ t.holdP ≠ [] then
      let stage := match t.origin with
        | some (.stage _) => true
        | _ => false
      let s := endTask s p.1 p.2 0x14
      if stage then modPart s d.rcb (fun q => { q with rebind := q.rebind ++ [p.1] }) else s
    else if bitOf t.status 3 ∧ t.st = .run then
      let s := takeTrap (withdraw s p.1 p.2) p.1 p.2 0x14 0 0 t.pc
      modSlot s p.1 p.2 (fun t => { t with draught := some 0 })
    else soon (modSlot s p.1 p.2 (fun t => { t with freezing := true })) .slotFreeze [p.1, p.2]) s
  let s := (colCores col).foldl (fun s c =>
    if (List.range 4).all (fun k => (getSlot s c k).st == .free || (getSlot s c k).st == .frozen) then freezeClocks s c else s) s
  soon (soon { s with issued := was } .draughtForward [col]) .partitionHalted [d.rcb]
/-- `drainEnd` [column]: the drain ends once its conditions hold (R266). -/
def execDrainEnd (s : State) : Host.Outcome State Fault Refusal :=
  let col := arg s 0
  match (getCol s col).drain with
  | none => .next s
  | some d =>
    if d.ended then .next s
    else if drainDone s col d then .next (endDrain s col d)
    else .next (scheduleOnce s (s.now + 1) .drainEnd [col])
/-- `drainAllowanceExpiry` [column] (R266). -/
def execDrainAllowanceExpiry (s : State) : Host.Outcome State Fault Refusal :=
  let col := arg s 0
  match (getCol s col).drain with
  | none => .next s
  | some d => if d.ended then .next s else .next (endDrain s col d)

/-- A DRAUGHT mark on its way to a corridor, sent by a core for its column or by the Foyer. -/
def sendDraught (s : State) (core k : Nat) (c : Corr) : State :=
  let (id, s) := takeId s
  let f : Flight := {
    kind := .draughtMark, core := core, slot := 5, inc := 0, part := c.rcb, lvl := true, home := c.home, va := 0, pa := 0, size := 8,
    b := 0, c := 0, body := 0, rd := none, chain := 0, pred := none, cnt := none, corr := k, seqNo := 0, link := none, stamp := 0,
    waitc := 0, heldAt := 0, arrived := 0, sent := false, performed := false, result := 0, err := none }
  pushAccesses { s with flights := s.flights.ins id f } core 5
/-- The producer endpoints of a column that are bound: core, corridor's key, corridor (R266). -/
def producerCorrs (s : State) (col part : Nat) : List (Nat × Nat × Corr) :=
  (colCores col).flatMap (fun c => (List.range 8).filterMap (fun n => match vget none (getCore s c).ep n with
    | some e => if e.cons then none else (corr? s e.corr).bind (fun k => if partOf s k.rcb = part then some (c, e.corr, k) else none)
    | none => none))
/-- `draughtForward` [column]: after every commit of the column, one DRAUGHT slot goes out on each producer endpoint that is bound;
the forwarding is done when all of them have been committed (R266). -/
def execDraughtForward (s : State) : Host.Outcome State Fault Refusal :=
  let col := arg s 0
  match (getCol s col).drain with
  | none => .next s
  | some d =>
    let mine (k : AccKind → Bool) : Bool := s.flights.any (fun p => colOfCore p.2.core == col && !p.2.performed && k p.2.kind)
    let set (n : Nat) (s : State) : State := modCol s col (fun c => { c with drain := c.drain.map (fun d => { d with forwarded := n }) })
    if !d.ended then .next s
    else if d.forwarded = 0 then
      if mine (fun k => match k with | .qpush => true | _ => false) then .next (scheduleOnce s (s.now + 1) .draughtForward [col])
      else
        let l := producerCorrs s col d.rcb
        let s := l.foldl (fun s x => sendDraught s x.1 x.2.1 x.2.2) (set 1 s)
        .next (soon s .draughtForward [col])
    else if d.forwarded = 1 ∧ !mine (fun k => match k with | .draughtMark => true | _ => false) then
      .next (soon (set 2 s) .partitionHalted [d.rcb])
    else .next s

/-! ### Pre-emption begins, the partition halts (R321 to R324) -/

/-- The lowest free Pantry frame of a core. -/
def freeFrame (s : State) (core : Nat) : Option Nat :=
  let room := (attcap s core - pantry s core) / 0x80000
  (List.range room).find? (fun n => (getCore s core).frames.all (fun f => f.2 != n))
/-- Starts the drain of a partition: marks into the corridors its source stage consumes, a signal to the columns without an
input corridor (R322). -/
def startDrain (s : State) (p : Part) : State :=
  let s := setPartState s p.rcb 4
  let cols := regionCols p
  let s := (s.corrs.filter (fun c => partOf s c.2.rcb == p.rcb && c.2.cons == 0)).foldl (fun s c => sendDraught s c.2.home c.1 c.2) s
  cols.foldl (fun s c => if consumerEps s c p.rcb = [] then beginDrain s c p.rcb true else s) s
/-- Pre-empts a partition in RUN, or ignores and logs the request (R321). A frame that still holds granules of an earlier
halt serves again. -/
def preemptPart (s : State) (p : Part) (hold : Bool) : State :=
  let cores := regionCores p
  let own (s : State) (c : Nat) : Bool := (getCore s c).frames.any (fun f => f.1 == p.rcb)
  if p.pantry < 512 ∨ !cores.all (fun c => own s c || (freeFrame s c).isSome) then freeNotice s p.rcb p.launchPkg
  else
    let s := cores.foldl (fun s c => if own s c then s else match freeFrame s c with
      | some n => modCore s c (fun co => { co with frames := (p.rcb, n) :: co.frames })
      | none => s) s
    startDrain (modPart s p.rcb (fun q => { q with hold := hold })) p

/-- Whether the engines of a core have finished what they had begun. -/
def enginesQuiet (s : State) (core : Nat) : Bool :=
  let c := getCore s core
  c.cq.all (fun e => !e.started || e.fin) && c.mq.all (fun m => m.begun.isNone || (m.rowsDue == [] && decide (m.completes ≤ s.now))) &&
  c.sq.all (fun o => !o.begun) && c.gjob.isNone && c.chim == [] &&
  !s.agenda.any (fun p => p.2.1 == .geyserLinkIncrement && p.2.2.headD 0 == core)
/-- Whether every column of a partition has drained and frozen (R322). -/
def allHalted (s : State) (p : Part) : Bool :=
  (regionCols p).all (fun c =>
    (match (getCol s c).drain with
      | some d => d.forwarded == 2
      | none => false) &&
    (colSlots s c p.rcb).all (fun x => (getSlot s x.1 x.2).st == .frozen) &&
    (getCol s c).aops == [] && (colCores c).all (enginesQuiet s))
/-- The saved entries of other partitions or cores. -/
def otherThan {α : Type} (part core : Nat) (l : List (Nat × Nat × α)) : List (Nat × Nat × α) := l.filter (fun f => f.1 != part || f.2.1 != core)
/-- What a core and its slots hold for a halted partition, beside granules, written into its frame: the slot contexts, the matrix
unit, the core state with the generator's key and counter and the Sinter, and the Geyser's image (R133, R232, R246, R323, R373). The
areas whose layout each implementation fixes are held by partition and core. Log entry 19. -/
def saveContext (s : State) (core part : Nat) : State :=
  let slots := (List.range 4).filter (fun k => partOf s (getSlot s core k).part == part && (getSlot s core k).st == .frozen)
  let s := { s with
    frameSlots := s.frameSlots.filter (fun f => f.1 != part || f.2.1 / 8 != core) ++ slots.map (fun k => (part, slotKey core k, getSlot s core k)),
    frameCores := otherThan part core s.frameCores ++ [(part, core, getCore s core)],
    frameRegs := otherThan part core s.frameRegs ++ [(part, core, [0, 8, 0x10].map (fun o => getReg s (coreWin core o)))] }
  match frameOff s core part with
  | none => s
  | some off => (geyImage s core 0 256 true).zipIdx.foldl (fun s x => putDword s (slicePa core (off + 0x6C000 + 8 * x.2)) x.1) s
/-- Saves every area of a core's frame for a partition: its context and every granule (R324). -/
def saveEager (s : State) (core part : Nat) : State :=
  match frameOff s core part with
  | none => s
  | some off =>
    (List.range 96).foldl (fun s g =>
      if (getCore s core).owner.get part g ≠ part ∨ (getCore s core).saved.get false (savedKey part g) then s
      else
        let (pa, fo, n) := granPlace core g
        let s := copyDwords pa (slicePa core (off + fo)) (n / 8) s
        modCore s core (fun c => { c with owner := c.owner.ins g part, saved := c.saved.ins (savedKey part g) true })) (saveContext s core part)

/-! ### Ending a partition (R307) -/

/-- Reports the seeds of a port that have not completed as failed with ENDED, and unbinds the port. -/
def endPort (s : State) (pkg n : Nat) : State :=
  let s := (getPort s pkg n).seeds.foldl (fun s e => if e.done.isNone then completeSeed s pkg n e.seq 2 0x40 0 0 else s) s
  let s := if journalsIn s pkg n then reportSeeds pkg n (getPort s pkg n).seeds.length s else s
  modPort s pkg n (fun r => { r with part := none, queue := [], seeds := [] })
/-- Unbinds the ports of a launch without reports: their journals stay (R387). -/
def dropPort (s : State) (pkg n : Nat) : State := modPort s pkg n (fun r => { r with part := none, queue := [], seeds := [] })
/-- What a column holds of its partition's switch and of its column fault is dropped: the partition leaves the column. -/
def clearSwitch (s : State) (col : Nat) : State :=
  modCol s col (fun c => { c with swtag := none, swready := false, swfail := false, faulted := false })
/-- The frames of a partition on every core that has one are given up, with what is marked as saved there (R307, R321). -/
def discardFrames (s : State) (rcb : Nat) : State :=
  (s.cores.map (·.1)).foldl (fun s c => modCore s c (fun co => { co with
    frames := co.frames.filter (fun f => f.1 != rcb), saved := co.saved.filter (fun p => p.1 / 128 != rcb) })) s
/-- Ends a partition with its children: tasks ended, ports unbound, corridors, records, barriers and grants cleared; with
`quiet`, seeds are not reported (R307, R345, R387). -/
def endPart (s : State) (rcb : Nat) (quiet : Bool) : State :=
  let mine (s : State) (r : Nat) : Bool := r != 0 && partOf s r == rcb
  let fam := (s.parts.filter (fun p => p.state != 8 && partOf s p.rcb == rcb)).map (fun p => p.rcb)
  let isFam (r : Nat) : Bool := fam.contains r
  let cores := (List.range 2048).filter (fun c => isFam (regionOf s c))
  let slots := s.slots.filter (fun e => e.1 % 8 != 4 && e.2.st != .free && isFam e.2.part)
  let s := (List.range 16).foldl (fun s i =>
    match (getPort s (i / 4) (i % 4)).part with
    | some r => if isFam r then (if quiet then dropPort s (i / 4) (i % 4) else endPort s (i / 4) (i % 4)) else s
    | none => s) s
  let s := slots.foldl (fun s e => if mine s e.2.part then endTask s (e.1 / 8) (e.1 % 8) 0x40 else s) s
  let s := (List.range 4).foldl (fun s n => modPkg s n (fun p => { p with
    dep := p.dep.filter (fun e => !isFam e.rcb),
    dwq := p.dwq.map (fun e => if isFam e.part && e.running.isNone then { e with code := 9 } else e),
    bars := p.bars.map (fun b => if isFam b.2.ownerRcb then (b.1, { b.2 with owner := 0 }) else b) })) s
  let s := cores.foldl (fun s c => modCore s c (fun co => { co with
    grant := none, barmask := 0, ep := Vector.replicate 8 none })) s
  let s := discardFrames ((cores.map colOfCore).eraseDups.foldl clearSwitch s) rcb
  let s := (List.range 128).foldl (fun s c => match (getCol s c).drain with
    | some d => if d.rcb = rcb then modCol s c (fun o => { o with drain := none }) else s
    | none => s) s
  let s := fam.foldl (fun s r => putRcb s r 8 none) s
  let s := { s with
    corrs := s.corrs.filter (fun c => !isFam c.2.rcb),
    frameSlots := s.frameSlots.filter (fun f => f.1 != rcb),
    frameCores := s.frameCores.filter (fun f => f.1 != rcb),
    frameRegs := s.frameRegs.filter (fun f => f.1 != rcb),
    atticFrames := s.atticFrames.filter (fun f => f.rcb != rcb),
    parts := s.parts.filter (fun p => !(isFam p.rcb)) }
  (List.range 4).foldl (fun s n => soon (soon s .admission [n]) .dumbwaiterStart [n]) s

/-- `partitionHalted` [rcb]: once every column has drained and frozen the partition is HALTED or HELD, or it ends (R322,
R324). -/
def execPartitionHalted (s : State) : Host.Outcome State Fault Refusal :=
  let rcb := arg s 0
  match findPart s rcb with
  | none => .next s
  | some p =>
    if p.state ≠ 4 then .next s
    else if !allHalted s p then .next (scheduleOnce s (s.now + 1) .partitionHalted [rcb])
    else if p.ending then .next (endPart s rcb false)
    else
      let s := setPartState s rcb (if p.hold then 6 else 5)
      let s := (regionCols p).foldl (fun s c => modCol s c (fun o => { o with drain := none })) s
      let s := (regionCores p).foldl freezeClocks s
      let s := if p.hold then (regionCores p).foldl (fun s c => saveEager s c rcb) s else s
      .next ((List.range 4).foldl (fun s n => soon s .admission [n]) s)

/-! ### Column faults (R271, R272, R327) -/

/-- The corridors a column fault stops: those homed there, and those on which its tasks hold reservations. -/
def faultCorrs (s : State) (col part : Nat) : List Nat :=
  (s.corrs.filter (fun c => partOf s c.2.rcb == part && colOfCore c.2.home == col)).map (·.1) ++
  (colSlots s col part).flatMap (fun x => (getSlot s x.1 x.2).holdR.filterMap (fun h =>
    (vget none (getCore s x.1).ep h.1).map (fun e => e.corr)))
/-- Contains a column fault: notice, tasks ended, corridors stopped, restart to follow (R272). -/
def columnFaultAt (s : State) (col : Nat) : State :=
  let rcb := colRegion s col
  let part := partOf s rcb
  if rcb = 0 ∨ (getCol s col).faulted then s
  else
    let again := match (getCol s col).lastFault with
      | some r => decide (s.now < r + 2 ^ 24)
      | none => false
    let s := freeNotice s part (pkgOfCol col)
    let ks := faultCorrs s col part
    let s := (colSlots s col part).foldl (fun s x => endTask s x.1 x.2 0x0D) s
    let s := ks.foldl (fun s k => modCorr s k (fun c => { c with stopped := if c.stopped.contains col then c.stopped else c.stopped ++ [col] })) s
    soon (modCol s col (fun c => { c with faulted := true })) .columnRestart [col, b2n again]
/-- `columnFault` [column]. -/
def execColumnFault (s : State) : Host.Outcome State Fault Refusal := .next (columnFaultAt s (arg s 0))
/-- `readySlotTimeout` [core, slot]: a slot that is ready and has not issued for 2 to the 24 cycles (R271). -/
def execReadySlotTimeout (s : State) : Host.Outcome State Fault Refusal :=
  let t := getSlot s (arg s 0) (arg s 1)
  if (t.st == .run || t.st == .trap) && !t.freezing && t.stall.isNone && decide (t.ready + 2 ^ 24 ≤ s.now) then
    .next (columnFaultAt s (colOfCore (arg s 0)))
  else .next s
/-- A column has been restarted: the corridors it stopped go on, where no other faulted column stops them (R272). -/
def goOn (s : State) (col : Nat) : State :=
  let ks := (s.corrs.filter (fun c => c.2.stopped.contains col)).map (·.1)
  ks.foldl (fun s k => settle (modCorr s k (fun c => { c with stopped := c.stopped.filter (· != col) })) k)
    (modCol s col (fun c => { c with faulted := false }))
/-- `columnRestart` [column, again]: the stage tasks are bound again in one cycle; a column that cannot be restarted, or that
faults again within 2 to the 24 cycles of its restart, has its partition pre-empted and held, and what it stopped stays stopped
until the partition is restored (R272, R327). -/
def execColumnRestart (s : State) : Host.Outcome State Fault Refusal :=
  let col := arg s 0
  match findPart s (colRegion s col) with
  | none => .next (goOn s col)
  | some p =>
    let im := imgOf s p
    let listed := match colStage s p.rcb col with
      | some n => (colCores col).filter (fun c => im.stages != [] && ((im.stage n).taskAt (posOfCore c)).isSome)
      | none => []
    if !(getCol s col).faulted then .next s
    else if p.state ≠ 3 then .next (modPart s p.rcb (fun q => { q with rebind := q.rebind ++ listed }))
    else if listed.any (fun c => !inSvc s c) ∨ arg s 1 = 1 then
      let root := partOf s p.rcb
      let s := freeNotice (modPart s root (fun q => { q with rebind := q.rebind ++ listed })) root (pkgOfCol col)
      match findPart s root with
      | some r => .next (preemptPart s r true)
      | none => .next s
    else match bindStage s p col none with
      | (s, true) => .next (goOn (modCol s col (fun c => { c with lastFault := some s.now })) col)
      | (s, false) => .next (schedule s (s.now + 1) .columnRestart [col, 0])

/-! ### Switch points (R265, R326, R346) -/

/-- Whether the descriptors that a column's switch waits for have completed (R346). -/
def refillDone (s : State) (col tag op : Nat) : Bool :=
  !(getPkg s (pkgOfCol col)).dwq.any (fun e => bitOf (e.d.getD 3 0) 56 && bits (e.d.getD 3 0) 48 8 == tag &&
    bits (e.d.getD 1 0) 32 7 == col && decide (e.op < op))
/-- The consumer endpoints of a column that are at their switch point (R265). -/
def switchedEps (s : State) (col : Nat) : List (Nat × Nat) :=
  (colCores col).flatMap (fun c => (List.range 8).filterMap (fun n => match vget none (getCore s c).ep n with
    | some e => if e.cons ∧ e.switched.isSome ∧ (corr? s e.corr).any (atSwitch s c) then some (c, n) else none
    | none => none))
/-- `modelSwitch` [column, tag]: at a switch point the stage's tasks come to rest, the stalled ones are ended, and the refill
is awaited; a tag without successor ends the partition (R326). The tasks it ends are reported as those a column fault ends, with
cause CORRIDOR: their seeds are bound again or fail, their records fail. DESIGN CHOICE, log entry 70. -/
def execModelSwitch (s : State) : Host.Outcome State Fault Refusal :=
  let col := arg s 0
  let tag := arg s 1
  let rcb := colRegion s col
  match findPart s rcb with
  | none => .next s
  | some p =>
    if (getCol s col).swready ∨ p.state ≠ 3 then .next s
    else
      let s := if (getCol s col).swtag.isSome then s
        else modCol s col (fun c => { c with swtag := some tag, swop := s.nextId })
      let eps := switchedEps s col
      let slots := (colSlots s col (partOf s rcb)).filter (fun x => (getSlot s x.1 x.2).part == rcb)
      if !slots.all (fun x => popsOn s eps x.1 x.2) then .next s
      else
        let s := slots.foldl (fun s x => endTask s x.1 x.2 0x0D) s
        let im := imgOf s p
        let succ := (colStage s rcb col).bind (fun n => ((im.stage n).switches.find? (fun w => w.1 == tag)).map (·.2))
        match succ with
        | none => .next (endPart (freeNotice s rcb (pkgOfCol col)) (partOf s rcb) false)
        | some _ =>
          let s := modCol s col (fun c => { c with swready := true })
          .next (soon (soon s .dumbwaiterStart [pkgOfCol col]) .switchRebind [col])
/-- `switchRebind` [column]: after the refill the successor's tables are loaded, its endpoints and its stage tasks bound; where
a descriptor of the refill failed, the partition is pre-empted and held instead (R326, R346). -/
def execSwitchRebind (s : State) : Host.Outcome State Fault Refusal :=
  let col := arg s 0
  let c := getCol s col
  match findPart s (colRegion s col), c.swtag with
  | some p, some tag =>
    let im := imgOf s p
    if !c.swready ∨ !refillDone s col tag c.swop then .next s
    else if c.swfail then
      let root := partOf s p.rcb
      let s := freeNotice (modCol s col (fun c => { c with swfail := false, swtag := none, swready := false })) root (pkgOfCol col)
      match findPart s root with
      | some r => .next (if r.state = 3 then preemptPart s r true
        else if r.state = 4 then modPart s root (fun q => { q with hold := true })
        else if r.state = 5 then setPartState s root 6 else s)
      | none => .next s
    else if p.state ≠ 3 then .next s
    else
      let succ := (colStage s p.rcb col).bind (fun n => ((im.stage n).switches.find? (fun w => w.1 == tag)).map (·.2))
      match succ with
      | none => .next s
      | some n =>
        let u := (colCores col).foldl (fun s k => modCore s k (fun co => { co with
          grant := co.grant.map (fun g => { g with stage := n, lent := none, handTo := none }) })) s
        match bindStage (bindEndpoints u p col n) p col none with
        | (u, true) =>
          let u := modCol u col (fun c => { c with swtag := none, swready := false })
          .next (soon u .bindTileTask [pkgOfCol col])
        | (_, false) => .next (schedule s (s.now + 1) .switchRebind [col])
  | _, _ => .next s

end Sys2Proof.Machine
end

