-- ==== Sys2Proof/Machine/Crypto.lean ====
section
/-! DEFINITION. SHAKE256 (FIPS 202), AES-256-GCM (FIPS 197, SP 800-38D) and Ed448 (RFC 8032) on lists of bytes (R340, R344,
R396, R401, R405 to R407). -/
namespace Sys2Proof.Machine
open Sys2Proof

/-! ### Bytes and numbers -/

/-- A list of bytes as a number, the first least significant; and the first `n` bytes of a number. -/
def leNat : List Byte → Nat
  | [] => 0
  | b :: r => b.toNat + 256 * leNat r
def leBytes : Nat → Nat → List Byte
  | 0, _ => []
  | n + 1, v => BitVec.ofNat 8 v :: leBytes n (v / 256)
/-- A list of bytes as a number, the first most significant. -/
def beNat (l : List Byte) : Nat := l.foldl (fun a b => 256 * a + b.toNat) 0
def beBytes (n v : Nat) : List Byte := (leBytes n v).reverse
/-- A list cut into pieces of `n`. -/
def pieces {α : Type} (n : Nat) : Nat → List α → List (List α)
  | 0, _ => []
  | f + 1, l => if l.isEmpty then [] else l.take n :: pieces n f (l.drop n)

/-! ### SHAKE256 -/

/-- The sponge's contents: five planes of five lanes. -/
abbrev Planes := List (List W64)
/-- Exclusive or, lane by lane. -/
def xorLanes (p q : List W64) : List W64 := List.zipWith (· ^^^ ·) p q
/-- Each lane with the parities of the columns beside its own. -/
def mixParities (p : Planes) : Planes :=
  let parity := p.foldl xorLanes (List.replicate 5 0)
  let around := List.zipWith (fun left right => left ^^^ right.rotateLeft 1) (parity.rotateRight 1) (parity.rotateLeft 1)
  p.map (xorLanes around)
/-- The lanes in the order of the walk that takes lane x of plane y to lane y of plane 2x + 3y, each with its rotation: step t turns
by the t-th triangular number. -/
def turnWalk : Nat → Nat → Nat × Nat → List ((Nat × Nat) × Nat)
  | 0, _, _ => []
  | n + 1, t, p => (p, t * (t + 1) / 2 % 64) :: turnWalk n (t + 1) (p.2, (2 * p.1 + 3 * p.2) % 5)
def laneTurn (x y : Nat) : Nat := ((turnWalk 24 1 (1, 0)).find? (fun e => e.1 == (x, y))).elim 0 (·.2)
/-- Every lane turned and moved one step along that walk. -/
def turnLanes (p : Planes) : Planes :=
  (List.range 5).map (fun v => (List.range 5).map (fun y =>
    let x := (y + 3 * v) % 5
    ((p.getD y []).getD x 0).rotateLeft (laneTurn x y)))
/-- The step within a plane that is not linear. -/
def bendPlane (r : List W64) : List W64 := xorLanes r (List.zipWith (fun m n => ~~~m &&& n) (r.rotateLeft 1) (r.rotateLeft 2))
/-- The shift register that makes the round constants, x^8 + x^6 + x^5 + x^4 + 1. -/
def shiftReg (r : Nat) : Nat := if r < 128 then 2 * r else Nat.xor (2 * r) 0x171
/-- A round's constant, its bits at 2^j - 1 taken from the register in turn, and the register afterwards. -/
def roundConst (r : Nat) : W64 × Nat :=
  (List.range 7).foldl (fun a j => (setBits a.1 (2 ^ j - 1) 1 (a.2 % 2), shiftReg a.2)) (0, r)
/-- Rounds of the permutation, the register in its state before them. -/
def permute : Nat → Nat → Planes → Planes
  | 0, _, p => p
  | n + 1, r, p =>
    let (k, r) := roundConst r
    permute n r (match (turnLanes (mixParities p)).map bendPlane with
      | (lane :: row) :: rest => ((lane ^^^ k) :: row) :: rest
      | q => q)
/-- A block of 136 bytes as planes. -/
def blockPlanes (l : List Byte) : Planes :=
  (List.range 5).map (fun y => (List.range 5).map (fun x => BitVec.ofNat 64 (leNat ((l.drop (40 * y + 8 * x)).take 8))))
/-- Takes a block in. -/
def soak (p : Planes) (l : List Byte) : Planes := permute 24 1 (List.zipWith xorLanes p (blockPlanes l))
/-- Gives out `n` bytes, up to 136 from each permutation's outcome. -/
def wring : Nat → Nat → Planes → List Byte
  | 0, _, _ => []
  | f + 1, n, p =>
    let out := p.flatten.flatMap (fun w => leBytes 8 w.toNat)
    if n ≤ 136 then out.take n else out.take 136 ++ wring f (n - 136) (permute 24 1 p)
/-- SHAKE256 of a message, `n` bytes. -/
def shake256 (m : List Byte) (n : Nat) : List Byte :=
  let gap := 136 - m.length % 136
  let filled := m ++ (if gap = 1 then [0x9F] else [0x1F] ++ List.replicate (gap - 2) 0 ++ [0x80])
  wring (n / 136 + 1) n ((pieces 136 (filled.length / 136) filled).foldl soak (List.replicate 5 (List.replicate 5 0)))

/-! ### AES-256 -/

/-- Multiplication in the field of AES. -/
def gfMul : Nat → Nat → Nat → Nat
  | 0, _, _ => 0
  | n + 1, a, b => Nat.xor (if b % 2 = 1 then a else 0) (gfMul n (if 128 ≤ a then Nat.xor (2 * a - 256) 0x1B else 2 * a) (b / 2))
def gf (a b : Nat) : Nat := gfMul 8 a b
/-- The inverse of a field element: its 254th power. -/
def gfInv (a : Nat) : Nat :=
  let a2 := gf a a
  let a4 := gf a2 a2
  let a8 := gf a4 a4
  let a16 := gf a8 a8
  let a32 := gf a16 a16
  let a64 := gf a32 a32
  let a128 := gf a64 a64
  gf a2 (gf a4 (gf a8 (gf a16 (gf a32 (gf a64 a128)))))
def sboxCalc (a : Nat) : Nat :=
  let b := gfInv a
  let r (k : Nat) : Nat := b * 2 ^ k % 256 + b / 2 ^ (8 - k)
  Nat.xor (Nat.xor (Nat.xor (Nat.xor (Nat.xor b (r 1)) (r 2)) (r 3)) (r 4)) 0x63
def sbox (a : Nat) : Nat := sboxCalc a
def subWord (w : Nat) : Nat :=
  sbox (w / 2 ^ 24) * 2 ^ 24 + sbox (w / 65536 % 256) * 65536 + sbox (w / 256 % 256) * 256 + sbox (w % 256)
/-- The round-key words of AES-256, from the last eight on. -/
def keyWords : Nat → Nat → Nat → List Nat → List Nat
  | 0, _, _, w => w
  | n + 1, i, rc, w =>
    let t := w.getD (i - 1) 0
    let t := if i % 8 = 0 then Nat.xor (subWord (t % 2 ^ 24 * 256 + t / 2 ^ 24)) (rc * 2 ^ 24) else if i % 8 = 4 then subWord t else t
    keyWords n (i + 1) (if i % 8 = 0 then gf rc 2 else rc) (w ++ [Nat.xor (w.getD (i - 8) 0) t])
def keySchedule (key : List Byte) : List Nat := keyWords 52 8 1 ((List.range 8).map (fun i => beNat ((key.drop (4 * i)).take 4)))
def addKey (s : List Nat) (w : List Nat) (r : Nat) : List Nat :=
  (List.range 16).map (fun i => Nat.xor (s.getD i 0) (w.getD (4 * r + i / 4) 0 / 2 ^ (8 * (3 - i % 4)) % 256))
def shiftRows (s : List Nat) : List Nat := (List.range 16).map (fun i => s.getD ((i + 4 * (i % 4)) % 16) 0)
def mixColumns (s : List Nat) : List Nat :=
  (List.range 16).map (fun i =>
    let at_ (k : Nat) : Nat := s.getD (i / 4 * 4 + (i + k) % 4) 0
    Nat.xor (Nat.xor (gf 2 (at_ 0)) (gf 3 (at_ 1))) (Nat.xor (at_ 2) (at_ 3)))
def aesRounds (w : List Nat) : Nat → Nat → List Nat → List Nat
  | 0, _, s => s
  | n + 1, r, s => aesRounds w n (r + 1) (addKey (mixColumns (shiftRows (s.map sbox))) w r)
/-- AES-256 of one block. -/
def aesBlock (w : List Nat) (b : List Byte) : List Byte :=
  let s := aesRounds w 13 1 (addKey (b.map (fun x => x.toNat)) w 0)
  (addKey (shiftRows (s.map sbox)) w 14).map (fun n => BitVec.ofNat 8 n)

/-! ### GCM -/

/-- Multiplication in the field of GCM, blocks as numbers, the first byte most significant. -/
def ghashMul (x : Nat) : Nat → Nat → Nat → Nat
  | 0, _, z => z
  | n + 1, v, z => ghashMul x n (if v % 2 = 1 then Nat.xor (v / 2) (0xE1 * 2 ^ 120) else v / 2) (if x.testBit n then Nat.xor z v else z)
def ghashStep (h y : Nat) (b : List Byte) : Nat := ghashMul (Nat.xor y (beNat b * 2 ^ (8 * (16 - b.length)))) 128 h 0
def ghash (h : Nat) (aad c : List Byte) : Nat :=
  let blocks (l : List Byte) : List (List Byte) := pieces 16 (l.length / 16 + 1) l
  let y := (blocks aad ++ blocks c).foldl (ghashStep h) 0
  ghashStep h y (beBytes 8 (8 * aad.length) ++ beBytes 8 (8 * c.length))
def xorBytes (a b : List Byte) : List Byte := List.zipWith (· ^^^ ·) a b
/-- Counter-mode encryption or decryption with a 12-byte IV, counting from 2. -/
def ctrMode (w : List Nat) (iv : List Byte) : Nat → List (List Byte) → List Byte
  | _, [] => []
  | n, b :: r => xorBytes b (aesBlock w (iv ++ beBytes 4 n)) ++ ctrMode w iv (n + 1) r
/-- The tag of a ciphertext. -/
def gcmTag (w : List Nat) (iv aad c : List Byte) : List Byte :=
  let h := beNat (aesBlock w (List.replicate 16 0))
  xorBytes (beBytes 16 (ghash h aad c)) (aesBlock w (iv ++ beBytes 4 1))
/-- AES-256-GCM decryption: the plain bytes, and whether the tag matches. -/
def gcmOpen (key iv aad c tag : List Byte) : List Byte × Bool :=
  let w := keySchedule key
  (ctrMode w iv 2 (pieces 16 (c.length / 16 + 1) c), gcmTag w iv aad c == tag)
/-- Whether the tag of a ciphertext matches. -/
def gcmOk (key iv aad c tag : List Byte) : Bool := gcmTag (keySchedule key) iv aad c == tag

/-! ### Ed448 -/

def edP : Nat := 2 ^ 448 - 2 ^ 224 - 1
def edL : Nat := 2 ^ 446 - 13818066809895115352007386748515426880336692474882178609894547503885
/-- The curve's constant d = -39081. -/
def edD : Nat := edP - 39081
def pMul (a b : Nat) : Nat := a * b % edP
def pAdd (a b : Nat) : Nat := (a + b) % edP
def pSub (a b : Nat) : Nat := (a + edP - b % edP) % edP
def pPow (a : Nat) : Nat → Nat → Nat
  | 0, _ => 1
  | n + 1, e => let h := pPow (pMul a a) n (e / 2); if e % 2 = 1 then pMul a h else h
def pInv (a : Nat) : Nat := pPow a 448 (edP - 2)
/-- A point in projective coordinates. -/
structure EdPt where
  x : Nat
  y : Nat
  z : Nat
def EdPt.zero : EdPt := ⟨0, 1, 1⟩
def EdPt.add (p q : EdPt) : EdPt :=
  let a := pMul p.z q.z
  let b := pMul a a
  let c := pMul p.x q.x
  let d := pMul p.y q.y
  let e := pMul edD (pMul c d)
  let f := pSub b e
  let g := pAdd b e
  let h := pMul (pAdd p.x p.y) (pAdd q.x q.y)
  ⟨pMul (pMul a f) (pSub (pSub h c) d), pMul (pMul a g) (pSub d c), pMul f g⟩
def EdPt.mul (p : EdPt) : Nat → Nat → EdPt
  | 0, _ => EdPt.zero
  | n + 1, k => let h := EdPt.mul (p.add p) n (k / 2); if k % 2 = 1 then p.add h else h
def EdPt.same (p q : EdPt) : Bool := pMul p.x q.z == pMul q.x p.z && pMul p.y q.z == pMul q.y p.z
def edBase : EdPt :=
  ⟨224580040295924300187604334099896036246789641632564134246125461686950415467406032909029192869357953282578032075146446173674602635247710,
   298819210078481492676017930443930673437544040154080242095928241372331506189835876003536878655418784733982303233503462500531545062832660, 1⟩
def EdPt.encode (p : EdPt) : List Byte :=
  let i := pInv p.z
  leBytes 57 (pMul p.y i + pMul p.x i % 2 * 2 ^ 455)
/-- Decodes a point (RFC 8032, 5.2.3). -/
def edDecode (l : List Byte) : Option EdPt :=
  let v := leNat l
  let sign := v / 2 ^ 455 % 2
  let y := v % 2 ^ 455
  if l.length ≠ 57 ∨ edP ≤ y then none
  else
    let u := pSub (pMul y y) 1
    let w := pSub (pMul edD (pMul y y)) 1
    let u3 := pMul u (pMul u u)
    let x := pMul (pMul u3 w) (pPow (pMul (pMul u3 (pMul u u)) (pMul w (pMul w w))) 448 ((edP - 3) / 4))
    if pMul w (pMul x x) ≠ u then none
    else if x = 0 ∧ sign = 1 then none
    else some ⟨if x % 2 = sign then x else edP - x, y, 1⟩
/-- The prefix of pure Ed448 with an empty context: the name and two zero bytes. -/
def edDom : List Byte := [0x53, 0x69, 0x67, 0x45, 0x64, 0x34, 0x34, 0x38, 0, 0]
/-- Verifies a signature (RFC 8032, 5.2.7). -/
def edVerify (pub msg sig : List Byte) : Bool :=
  match edDecode pub, edDecode (sig.take 57) with
  | some a, some r =>
    let sc := leNat (sig.drop 57)
    if sig.length ≠ 114 ∨ edL ≤ sc then false
    else
      let k := leNat (shake256 (edDom ++ sig.take 57 ++ pub ++ msg) 114) % edL
      ((edBase.mul 448 sc).mul 3 4).same ((r.mul 3 4).add ((a.mul 448 k).mul 3 4))
  | _, _ => false
/-- The secret scalar and prefix of a 57-byte key (RFC 8032, 5.2.5). -/
def edSecret (key : List Byte) : Nat × List Byte :=
  let h := shake256 key 114
  (leNat (h.take 56) / 4 * 4 % 2 ^ 447 + 2 ^ 447, h.drop 57)
def edPublic (key : List Byte) : List Byte := (edBase.mul 448 (edSecret key).1).encode
/-- Signs a message (RFC 8032, 5.2.6). -/
def edSign (key msg : List Byte) : List Byte :=
  let (s, pre) := edSecret key
  let pub := edPublic key
  let r := leNat (shake256 (edDom ++ pre ++ msg) 114) % edL
  let rp := (edBase.mul 448 r).encode
  let k := leNat (shake256 (edDom ++ rp ++ pub ++ msg) 114) % edL
  rp ++ leBytes 57 ((r + k * s) % edL)

end Sys2Proof.Machine
end

