-- ==== Sys2Proof/Machine/Launch.lean ====
section
/-! DEFINITION. Launches: the checks of a region control block and its image, the launch queue, admission, configuration,
restore, and the actions of PREEMPT (R301 to R311, R321, R325, R374 to R376, R387, R406, R436). -/
namespace Sys2Proof.Machine
open Sys2Proof

/-! ### Region control blocks (R301, R302) -/

def lstatReg (pkg : Nat) : Nat := dieWin pkg uFoyer 0x10
/-- Whether a dword can be read: some home lies at its address, on a package in service (R435), and it is not
uncorrectable. -/
def readable (s : State) (pa : Nat) : Bool :=
  placeOf pa != .none && (getPkg s (pkgOfPlace (placeOf pa))).inService && wordErr s pa != .ecc && !(wordErr s pa).isAttic
/-- The chain from a region control block towards the card root, each with its words; none where it is longer than the
fuel or a word of it cannot be read. -/
def rcbChain (s : State) : Nat → Nat → Option (List (Nat × List W64))
  | 0, _ => none
  | n + 1, a =>
    if !(List.range 8).all (fun i => readable s (a + 8 * i)) then none
    else
      let d := (List.range 8).map (fun i => dwordAt s (a + 8 * i))
      let up := bits (d.getD 0 0) 6 40 * 64
      if up = 0 then some [(a, d)] else (rcbChain s n up).map (fun l => (a, d) :: l)
/-- Whether the reserved fields of a block are zero and its values in range (Table 14-1). -/
def rcbOk (d : List W64) : Bool :=
  let w (i : Nat) := d.getD i 0
  bits (w 0) 46 18 == 0 && bits (w 0) 0 6 == 0 && bits (w 1) 46 18 == 0 && bits (w 1) 1 5 == 0 && bits (w 2) 44 4 == 0 &&
  bits (w 2) 16 21 == 0 && bits (w 3) 52 12 == 0 && bits (w 3) 0 12 == 0 && bits (w 5) 32 32 == 0 && w 7 == 0 &&
  decide (bits (w 2) 41 3 ≤ 4) && decide (bits (w 2) 37 4 ≤ 8) && decide (bits (w 2) 0 16 ≤ 2048)
/-- A field's effective value: the first of the chain that is not zero, else the card root's (R302). -/
def effective (l : List (Nat × List W64)) (i lo len root : Nat) : Nat :=
  ((l.map (fun p => bits (p.2.getD i 0) lo len)).find? (· != 0)).getD root
/-- The launch that a chain describes, at the package whose Foyer takes it in (R302, Table 14-2). -/
def partOfChain (pkg now : Nat) (l : List (Nat × List W64)) : Part :=
  let a := l.headD (0, [])
  { rcb := a.1, parent := bits (a.2.getD 0 0) 6 40 * 64, root := (l.getLastD a).1, state := 1, launchPkg := pkg, domain := effective l 2 56 8 0,
    prio := effective l 2 52 4 0, pkgs := effective l 2 48 4 (2 ^ pkg), ht := effective l 2 41 3 4, wd := effective l 2 37 4 8,
    slots := effective l 2 0 16 2048, tvec := BitVec.ofNat 64 (effective l 3 12 40 0 * 4096), attic := effective l 4 32 32 0,
    pantry := effective l 4 0 32 0, drain := effective l 5 0 32 64, image := bits (a.2.getD 1 0) 6 40 * 64, queuedAt := now,
    bypass := 0, originYX := none, hold := false, ending := false, pendingPre := none, blocked := false,
    rebind := [] }

/-! ### The image (R253, R374 to R376, R406, R436) -/

/-- Whether a corridor record keeps R253. -/
def recordOk (s : State) (d : List W64) : Bool :=
  let w (i : Nat) := d.getD i 0
  let size := 256 * (bits (w 0) 32 6 + 1)
  let n := bits (w 0) 24 6 + 1
  let base := bits (w 0) 0 18
  let sb := (getCore s (bits (w 1) 0 11)).spillbase
  let cb := bits sb 6 12 * 64
  let cl := bits sb 18 12 * 64
  bits (w 0) 38 26 == 0 && bits (w 0) 30 2 == 0 && bits (w 0) 18 6 == 0 && bits (w 1) 28 36 == 0 && bits (w 1) 11 5 == 0 &&
  bits (w 2) 16 48 == 0 && w 3 == 0 && decide (2 ≤ n) && base % 256 == 0 && decide (base + size * n ≤ 0x3FC00) &&
  (cl == 0 || decide (base + size * n ≤ cb) || decide (cb + cl ≤ base))
/-- The children of a barrier node, in declaration order. -/
def Image.barChildren (im : Image) (n : BarNode) : List BarNode := im.bars.filter (fun m => m.up == some (n.pkg, n.num))
/-- Whether a node's way up ends within a number of steps. -/
def Image.upEnds (im : Image) : Nat → BarNode → Bool
  | 0, _ => false
  | k + 1, n => match n.up with
    | none => true
    | some u => match im.bars.find? (fun m => (m.pkg, m.num) == u) with
      | some m => im.upEnds k m
      | none => false
/-- Whether the barrier nodes form trees on the packages of the region (R429, R436). -/
def Image.barsOk (im : Image) (pkgs : Nat) : Bool :=
  im.bars.all (fun n => pkgs.testBit n.pkg && im.upEnds (im.bars.length + 1) n && decide ((im.barChildren n).length ≤ 4) &&
    (match n.up with | some u => u.1 != n.pkg | none => true))
/-- Whether the stages of an image keep R374 and R376 for a number of columns. -/
def Image.stagesOk (im : Image) (cols : Nat) : Bool :=
  let idx := List.range im.stages.length
  im.stages.all (fun st => decide (st.col < cols) && st.tasks.all (fun t => match t with
    | some n => decide (n < im.entries.length)
    | none => true) &&
    st.switches.all (fun w => (im.stage w.2).col == st.col && decide (w.2 < im.stages.length))) &&
  idx.all (fun a => idx.all (fun b => a == b || im.successor a || im.successor b || (im.stage a).col != (im.stage b).col))
/-- Whether the signature of an image holds under a trusted key (R406). -/
def sigOk (s : State) (pkg : Nat) (im : Image) : Bool :=
  (getPkg s pkg).trusted.contains (BitVec.ofNat 256 (leNat (shake256 im.pubkey 32))) && edVerify im.pubkey im.body im.sig
/-- The stage tasks that a stage lists. -/
def Stage.taskCount (st : Stage) : Nat := (st.tasks.filter (·.isSome)).length
/-- The stage tasks an image can have bound on the die of the `i`-th package of a region of `n` columns a package: for each
column the largest of its stages (R312). -/
def Image.dieTasks (im : Image) (i n : Nat) : Nat :=
  ((List.range n).map (fun k => ((im.stages.filter (fun st => st.col == i * n + k)).map Stage.taskCount).foldl max 0)).sum

/-- The reason for which a launch is refused, 0 where it is queued (Table 14-3). -/
def launchReason (s : State) (pkg : Nat) (rcb : Nat) : Nat :=
  match rcbChain s 8 rcb with
  | none => 1
  | some l =>
    let p := partOfChain pkg s.now l
    let im := imgOf s p
    let top := l.getLastD (rcb, [])
    let root := top.1
    let r := (findPart s root).getD (partOfChain pkg s.now [top])
    let n := p.ht * p.wd
    let cols := n * p.pkgList.length
    let signed := bitOf ((l.headD (0, [])).2.getD 1 0) 0
    if !l.all (fun x => rcbOk x.2) then 1
    else if p.domain = 0 ∨ p.tvec = 0 ∨ (xlateUnit s pkg root p.tvec.toNat 4 true).isNone then 2
    else if !im.readable || !im.tables || !im.corridors.all (recordOk s) || !im.stagesOk cols || !im.barsOk p.pkgs ||
        (im.port.isSome && im.seedEntry.isNone) || (signed && !sigOk s pkg im) then 3
    else if (root != rcb && (decide (r.ht < p.ht) || decide (r.wd < p.wd) || decide (r.slots < p.slots) ||
            Nat.land p.pkgs r.pkgs != p.pkgs)) || p.pkgList.any (fun k => !(getPkg s k).inService) ||
        (List.range p.pkgList.length).any (fun i => decide (p.slots < im.dieTasks i n)) then 4
    else if (match im.port with | some k => (getPort s pkg (k % 4)).part.any (· != rcb) | none => false) then 5
    else if 32 ≤ (s.parts.filter (fun q => q.launchPkg == pkg && (q.state == 1 || (q.state == 5 && q.parent == 0)))).length then 6
    else 0

/-! ### Ports at queueing (R306, R384, R387) -/

/-- Seeds that an earlier run of a launch left open are taken up again, those from `q` on. -/
def takeUp (pkg p : Nat) : Nat → Nat → State → State
  | 0, _, s => s
  | n + 1, q, s =>
    let a := ajEntry s pkg p q
    let bad := !readable s a || !readable s (a + 8)
    let att := bits (dwordAt s (a + 8)) 24 8
    let e : SeedEnt := { seq := q, token := dwordAt s a, state := bits (dwordAt s (a + 8)) 16 8, attempt := att, ready := s.now, done := none }
    let s := modPort s pkg p (fun r => { r with seeds := r.seeds ++ [e] })
    let s := if bad then completeSeed s pkg p q 2 0x06 0 0
      else if 3 ≤ att then completeSeed s pkg p q 2 0x42 0 0
      else queueSeed (modSeed s pkg p q (fun e => { e with state := 2, attempt := att + 1 })) pkg p q
    takeUp pkg p n ((q + 1) % seedMod) s
/-- Binds a port to a launch: its mode, and JNEXT and NEXTREP from the header of its journal. -/
def bindPort (s : State) (pkg p rcb : Nat) (complete : Bool) : State :=
  let s := modPort s pkg p (fun r => { r with part := some rcb, seeds := [], queue := [] })
  let s := setReg s (ajReg pkg p) (setBits (getReg s (ajReg pkg p)) 40 1 (b2n complete))
  if !journalsIn s pkg p then s
  else
    let h := cohPa pkg (ajOff s pkg p)
    let nx := bits (dwordAt s h) 0 24
    let nr := bits (dwordAt s (h + 8)) 0 24
    let s := setReg s (jnextReg pkg p) (BitVec.ofNat 64 nx)
    let s := setReg s (jstatReg pkg p) (setBits (getReg s (jstatReg pkg p)) 40 24 nr)
    soon (takeUp pkg p (min ((nx + seedMod - nr) % seedMod) (journalN s pkg p)) nr s) .seedReport [pkg, p]

/-! ### LAUNCH (R304) -/

def writeLstat (s : State) (pkg rcb reason res : Nat) : State :=
  setReg s (lstatReg pkg) (BitVec.ofNat 64 (rcb / 64 * 65536 + reason * 256 + res))
/-- The walk that the check of a launch's trap vector makes (R336, R438). -/
def launchWalk (s : State) (pkg rcb : Nat) : State :=
  match rcbChain s 8 rcb with
  | none => s
  | some l =>
    let p := partOfChain pkg s.now l
    if !l.all (fun x => rcbOk x.2) ∨ p.domain = 0 ∨ p.tvec = 0 then s else noteWalk s pkg p.root p.tvec.toNat
/-- A write of LAUNCH: its value stands in the register and LSTAT reads pending at once; the checks end some cycles later (R304, R305). -/
def writeLaunch (s : State) (pkg : Nat) (v : W64) : State :=
  let s := writeLstat (setReg s (dieWin pkg uFoyer 8) v) pkg (bits v 6 40 * 64) 0 0
  let (d, s) := takeDelay s
  schedule s (s.now + 1 + d) .launch [pkg, v.toNat, 1]
/-- `launch` [pkg, value] and, once the checks have ended, [pkg, value, 1]. A launch that passes them and names the block of one
that is taken in already is answered as queued, and the one taken in stands. DESIGN CHOICE, log entry 73. -/
def execLaunch (s : State) : Host.Outcome State Fault Refusal :=
  let pkg := arg s 0 % 4
  let rcb := bits (argW s 1) 6 40 * 64
  if arg s 2 = 0 then .next (writeLaunch s pkg (argW s 1))
  else
    let why := launchReason s pkg rcb
    let s := launchWalk s pkg rcb
    if why = 0 ∧ (findPart s rcb).isSome then .next (writeLstat s pkg rcb 0 1)
    else if why ≠ 0 then
      let s := writeLstat s pkg rcb why 2
      .next (if readable s (rcb + 48) then putDword s (rcb + 48) (setBits (dwordAt s (rcb + 48)) 4 4 why &&& 0xFF) else s)
    else
      match rcbChain s 8 rcb with
      | none => .next s
      | some l =>
        let p := partOfChain pkg s.now l
        let im := imgOf s p
        let s := { s with parts := s.parts.filter (fun q => q.rcb != rcb) ++ [p] }
        let s := putRcb (writeLstat s pkg rcb 0 1) rcb 1 none
        let s := match im.port with
          | some k => bindPort s pkg (k % 4) rcb im.complete
          | none => s
        .next (soon s .admission [pkg])

/-! ### Placement (R303, R309, R346, R347) -/

/-- Whether a column is free for a partition, where `gone` are counted as halted: none holds it but one that has left it, and no
descriptor of another that has begun still writes there (R309, R346). -/
def colFree (s : State) (gone : List Nat) (part col : Nat) : Bool :=
  let r := partOf s (colRegion s col)
  (r == 0 || r == part || (haltedPart s r && (findPart s r).any (fun p => p.state != 7)) || gone.contains r) &&
  !(getPkg s (pkgOfCol col)).dwq.any (fun e =>
    bits (e.d.getD 1 0) 32 7 == col && (e.running.isSome || e.cut || (e.pages != [] && !e.kv)) && partOf s e.part != part)
/-- Whether a column will be taken up again by another halted partition. -/
def colKept (s : State) (part col : Nat) : Bool :=
  s.parts.any (fun q => q.rcb != part && q.parent == 0 && haltedPart s q.rcb && (regionCols q).contains col)
/-- Whether every barrier of an image is free on its die, or its partition's already. -/
def barsFree (s : State) (part : Nat) (im : Image) : Bool :=
  im.bars.all (fun n => (getBar s n.pkg n.num).ownerRcb == 0 || (getBar s n.pkg n.num).ownerRcb == part)
/-- Whether a launch fits with its rectangles at an origin. -/
def fitsAt (s : State) (gone : List Nat) (p : Part) (kept : Bool) (o : Nat) : Bool :=
  let oy := o / 8
  let ox := o % 8
  let cols := p.pkgList.flatMap (fun n => rectCols p n oy ox)
  let root := partOf s p.rcb
  decide (oy + p.ht ≤ 4) && decide (ox + p.wd ≤ 8) &&
  cols.all (fun c => (colCores c).any (inSvc s) && (kept || p.parent != 0 || !colKept s p.rcb c)) &&
  (if p.parent = 0 then cols.all (colFree s gone p.rcb)
    else match findPart s root with
      | none => false
      | some r =>
        let kin := s.parts.filter (fun q => q.rcb != p.rcb && q.parent != 0 && q.originYX.isSome && partOf s q.rcb == root)
        r.state == 3 && cols.all (fun c => (regionCols r).contains c && !kin.any (fun q => (regionCols q).contains c)) &&
        decide ((kin.map (fun q => q.slots)).sum + p.slots ≤ r.slots))
/-- The first origin at which a queued launch fits. -/
def placeFor (s : State) (gone : List Nat) (p : Part) : Option Nat :=
  if !barsFree s (partOf s p.rcb) (imgOf s p) then none
  else match (List.range 32).find? (fitsAt s gone p false) with
    | some o => some o
    | none => (List.range 32).find? (fitsAt s gone p true)
/-- Whether a candidate fits: a halted partition only on the columns it left. -/
def fits (s : State) (gone : List Nat) (p : Part) : Bool :=
  if p.state = 1 then (placeFor s gone p).isSome else (regionCols p).all (colFree s gone p.rcb)

/-! ### Configuration (R308) -/

/-- What a core holds for a halted partition moves to that partition's context, and what its column holds of a switch or a fault is
dropped: it is found again at the restore (R179, R232, R246, R324, R326, R373). -/
def displaceCore (s : State) (core part : Nat) : State :=
  let o := partOfCore s core
  if o = 0 ∨ o = part ∨ !haltedPart s o then s
  else
    let slots := (List.range 4).filter (fun k => partOf s (getSlot s core k).part == o && (getSlot s core k).st == .frozen)
    let s := clearSwitch (saveContext s core o) (colOfCore core)
    let base := slicePa core 0
    let top := slicePa core (pantry s core)
    let mine (a : Nat) : Bool := decide (base ≤ a) && decide (a < top)
    let fr : AtticFrame := {
      rcb := o, core := core, cells := s.mem.filter (fun x => mine x.1), syn := s.syn.filter (fun x => mine (8 * x.1)) }
    let s := { s with atticFrames := s.atticFrames ++ [fr] }
    let s := slots.foldl (fun s k => modSlot s core k (fun t => { Slot.reset with
      incarn := t.incarn, x := t.x, v := t.v, k := t.k, present := t.present, retiredAt := some s.now })) s
    modCore s core (fun c => { c with
      cq := [], wmq := Vector.replicate 8 [], mq := [], sq := [], spill := [], gjob := none, ep := Vector.replicate 8 none, barmask := 0 })
/-- PANTRY of a core for an allowance: below it every frame that stands there (R274, R321). -/
def setPantry (s : State) (core part kib : Nat) : State :=
  let cap := attcap s core
  let top (l : List (Nat × Nat)) : Nat := 0x80000 * (l.foldl (fun a f => max a (f.2 + 1)) 0)
  let fs := (getCore s core).frames
  let need := max (top (fs.filter (fun f => f.1 != part)) + 1024 * kib) (top fs)
  setReg s (coreWin core 0x088) (BitVec.ofNat 64 (cap - need))
/-- The corridor that a record declares, with its counters at 0 (R256). -/
def corrOfRecord (rcb : Nat) (im : Image) (d : List W64) : Corr :=
  let w (i : Nat) := d.getD i 0
  { rcb := rcb, id := bits (w 1) 16 8, home := bits (w 1) 0 11, base := bits (w 0) 0 18, size := 256 * (bits (w 0) 32 6 + 1),
    slots := bits (w 0) 24 6 + 1, joinG := bits (w 1) 24 4, prod := bits (w 2) 0 8, cons := bits (w 2) 8 8, cwbase := im.cwbase,
    rp := 0, pp := 0, hp := 0, lf := 0, ring := [], waiting := [], stopped := [], broken := false }
/-- Whether a barrier of an image is the column barrier of column `k` of the region: the stage image of that column names it
(R252). -/
def isColBar (p : Part) (im : Image) (k : Nat) (n : BarNode) : Bool :=
  (im.stages.filter (fun st => st.col == k)).any (fun st => st.colBar == some n.num) && p.pkgList.getD (k / (p.ht * p.wd)) 4 == n.pkg
/-- Configures the barriers an image declares; a column barrier has one release group and no links (R252, R347, R436). -/
def configBars (s : State) (p : Part) (part : Nat) (im : Image) : State :=
  im.bars.foldl (fun s n =>
    let col := (List.range (p.ht * p.wd * p.pkgList.length)).any (fun k => isColBar p im k n)
    let link := if col then 0 else (match n.up with | some u => 2 ^ 63 + u.1 * 2 ^ 61 + u.2 * 2 ^ 55 | none => 0) +
      (((im.barChildren n).take 4).zipIdx.map (fun x => 2 ^ (9 * x.2) * (256 + x.1.pkg * 64 + x.1.num))).sum
    let s := writeBcfg s n.pkg n.num (BitVec.ofNat 64 (n.exp * 2 ^ 48 + n.step * 65536 + (if col then 0 else n.ngrp - 1) * 256))
    let s := modBar s n.pkg n.num (fun b => { b with owner := BitVec.ofNat 64 (part + 1) })
    writeBlink s n.pkg n.num (BitVec.ofNat 64 link)) s
/-- The mask of the barriers an image declares on a package, for a core of column `k`: the column barriers of other columns are not
in it (R252, R347). -/
def Image.barMask (im : Image) (p : Part) (k pkg : Nat) : W64 :=
  im.bars.foldl (fun m n =>
    let others := (List.range (p.ht * p.wd * p.pkgList.length)).any (fun j => j != k && isColBar p im j n)
    if n.pkg = pkg ∧ (!others ∨ isColBar p im k n) then setBits m n.num 1 1 else m) 0
/-- The wave at one core of column `k`: PANTRY, granules, Geyser and Sinter, grant, barrier mask (R308, R354). -/
def configCore (s : State) (p : Part) (im : Image) (k stage core : Nat) : State :=
  let part := partOf s p.rcb
  let old := if p.parent = 0 then 0 else (getCore s core).barmask
  let s := setPantry (displaceCore s core part) core part p.pantry
  let s := (List.range 96).foldl (fun s g => saveGranule s core g part) s
  let s := clearGeyser s core
  modCore s core (fun c => { c with
    sint := Sinter.clear,
    grant := some { rcb := p.rcb, stage := stage, lent := none, handTo := none }, barmask := im.barMask p k (pkgOfCore core) ||| old })
/-- Admits a queued launch at an origin: its columns are configured, and the wave has crossed them some cycles later. -/
def configRegion (s : State) (p : Part) (o : Nat) : State :=
  let im := imgOf s p
  let q := { p with originYX := some (o / 8, o % 8), state := 2 }
  let s := putRcb (modPart s p.rcb (fun _ => q)) p.rcb 2 none
  let cols := (regionCols q).zipIdx
  let s := cols.foldl (fun s x => (colCores x.1).foldl (fun s c =>
    configCore s q im x.2 ((im.stageAt x.2).getD im.stages.length) c) s) s
  let s := im.corridors.foldl (fun s d =>
    let (k, s) := takeId s
    { s with corrs := s.corrs.ins k (corrOfRecord p.rcb im d) }) s
  let s := cols.foldl (fun s x => match im.stageAt x.2 with
    | some n => bindEndpoints s q x.1 n
    | none => (colCores x.1).foldl (fun s c => modCore s c (fun co => { co with ep := Vector.replicate 8 none })) s) s
  let s := configBars s q (partOf s p.rcb) im
  let (d, s) := takeDelay s
  schedule s (s.now + 1 + d) .configComplete [p.rcb]
/-- `configComplete` [rcb]: the port opens, the launch runs, and each column binds its stage tasks (R308). -/
def execConfigComplete (s : State) : Host.Outcome State Fault Refusal :=
  let rcb := arg s 0
  match findPart s rcb with
  | none => .next s
  | some p =>
    if p.state ≠ 2 then .next (modPart s rcb (fun p => { p with rebind := regionCores p }))
    else
      let s := putRcb (modPart s rcb (fun p => { p with state := 3, pendingPre := none })) rcb 3 none
      let s := startLending ((regionCols p).foldl (fun s c => bindStageSoon s p c none) s) p.launchPkg
      let s := match (imgOf s p).port with
        | some k => soon s .bindSeedTask [p.launchPkg, k % 4]
        | none => s
      match p.pendingPre, findPart s rcb with
      | some hold, some p => .next (preemptPart s p hold)
      | _, _ => .next s

/-! ### Restore (R325) -/

/-- Loads one core's context back, where another partition has held the core. -/
def restoreCore (s : State) (core rcb : Nat) : State :=
  if partOfCore s core = rcb then s
  else
  let slots := s.frameSlots.filter (fun f => f.1 == rcb && f.2.1 / 8 == core)
  let s := slots.foldl (fun s f => setSlot s core (f.2.1 % 8) f.2.2) s
  let s := match s.frameCores.find? (fun f => f.1 == rcb && f.2.1 == core) with
    | some (_, _, f) => modCore s core (fun c => { c with
        cc := f.cc, wm := f.wm, wmq := f.wmq, cq := f.cq, spill := f.spill, spillbase := f.spillbase, ovfptr := f.ovfptr,
        active := f.active, shadow := f.shadow, mq := f.mq, gcells := f.gcells, gclk := f.gclk, gorec := f.gorec,
        gsticky := f.gsticky, gjob := f.gjob, gfrozen := f.gfrozen, sint := f.sint, sq := f.sq, ep := f.ep, grant := f.grant,
        barmask := f.barmask })
    | none => s
  let s : State := match s.frameRegs.find? (fun f => f.1 == rcb && f.2.1 == core) with
    | some (_, _, l) => l.zipIdx.foldl (fun s x => setReg s (coreWin core (8 * x.2)) x.1) s
    | none => s
  match s.atticFrames.find? (fun f => f.rcb == rcb && f.core == core) with
  | some fr =>
    let base := slicePa core 0
    let top := slicePa core (pantry s core)
    let out (a : Nat) : Bool := decide (a < base) || decide (top ≤ a)
    { s with
      mem := fr.cells.foldl (fun m x => memSet m x.1 x.2) (s.mem.filter (fun x => out x.1)),
      syn := fr.syn.foldl (fun m x => m.ins x.1 x.2) (s.syn.filter (fun x => out (8 * x.1))) }
  | none => s
/-- Begins the restore of a halted partition; a core out of service makes it fail, and the partition ends. -/
def restorePart (s : State) (p : Part) : State :=
  let cores := regionCores p
  if !cores.all (inSvc s) then endPart (freeNotice s p.rcb p.launchPkg) p.rcb false
  else
    let s := setPartState s p.rcb 7
    let s := cores.foldl (fun s c => setPantry (displaceCore s c p.rcb) c p.rcb p.pantry) s
    let s := cores.foldl (fun s c => restoreCore s c p.rcb) s
    let s := { s with
      frameSlots := s.frameSlots.filter (fun f => f.1 != p.rcb), frameCores := s.frameCores.filter (fun f => f.1 != p.rcb),
      frameRegs := s.frameRegs.filter (fun f => f.1 != p.rcb),
      atticFrames := s.atticFrames.filter (fun f => f.rcb != p.rcb) }
    let (d, s) := takeDelay s
    schedule s (s.now + 1 + d) .restoreComplete [p.rcb]
/-- A slot leaves FROZEN as it was. -/
def thawSlot (s : State) (core slot : Nat) : State :=
  modSlot s core slot (fun t => if t.st = .frozen then { t with st := t.froze, ready := max t.ready (s.now + 1), stall := none } else t)
/-- The engines of a core take up what they hold queued. -/
def wakeEngines (s : State) (core : Nat) : State :=
  let s := kickSinter (kickMatrix s core s.now) core
  let s := ((getCore s core).cq.filter (fun e => !e.started)).foldl (fun s e => soon s .copyStart [core, e.op]) s
  soon (soon s .aopBegin [colOfCore core]) .letterboxAccept [core]
/-- A column of a restored partition takes up what it was in: the corridors that a column fault stopped, a switch point its
endpoints have reached, a successor that waits to be bound (R272, R326). -/
def resumeCol (s : State) (col : Nat) : State :=
  let s := goOn s col
  let s := match (switchedEps s col).findSome? (fun e => (vget none (getCore s e.1).ep e.2).bind (fun x => x.switched)) with
    | some tag => soon s .modelSwitch [col, tag]
    | none => s
  if (getCol s col).swready then soon s .switchRebind [col] else s
/-- `restoreComplete` [rcb]: every slot leaves FROZEN in one cycle, and the partition runs; a stage task that a slot cannot take yet
is bound when it can (R266, R325). -/
def execRestoreComplete (s : State) : Host.Outcome State Fault Refusal :=
  let rcb := arg s 0
  match findPart s rcb with
  | none => .next s
  | some p =>
    if p.state ≠ 7 then .next s
    else
      let s := setPartState s rcb 3
      let cores := regionCores p
      let fam := s.parts.filter (fun q => q.state == 3 && partOf s q.rcb == rcb)
      let s := cores.foldl (fun s c => wakeEngines (thawClocks ((List.range 4).foldl (fun s k =>
        if partOf s (getSlot s c k).part = rcb then thawSlot s c k else s) s) c) c) s
      let s := fam.foldl (fun s q =>
        let s := modPart s q.rcb (fun q => { q with rebind := [], hold := false })
        q.rebind.eraseDups.foldl (fun s c => bindStageSoon s q (colOfCore c) (some c)) s) s
      let s := startLending ((regionCols p).foldl resumeCol s) p.launchPkg
      let s := cores.foldl (fun s c => dropFrame s c rcb) s
      let s := (List.range 4).foldl (fun s n => soon (soon s .bindTileTask [n]) .dumbwaiterStart [n]) s
      .next ((List.range 16).foldl (fun s i =>
        if (getPort s (i / 4) (i % 4)).part = some rcb then soon s .bindSeedTask [i / 4, i % 4] else s) s)

/-! ### Admission (R309 to R311) -/

/-- The candidates of a die's queue in rank order. -/
def candidates (s : State) (pkg : Nat) : List Part :=
  sortBy (fun a b => decide (b.prio < a.prio) || (a.prio == b.prio && decide (a.queuedAt ≤ b.queuedAt)))
    (s.parts.filter (fun p => p.launchPkg == pkg && (p.state == 1 || (p.state == 5 && p.parent == 0))))
/-- The candidates that a blocking one lets bid: those ranked above it, and itself. -/
def untilBlocked : List Part → List Part
  | [] => []
  | p :: r => if p.blocked then [p] else p :: untilBlocked r
/-- Those ranked above an admitted candidate are bypassed; at BYPASSK one blocks (R310). -/
def bypass (s : State) (pkg : Nat) (l : List Part) : State :=
  let k := bits (getReg s (dieWin pkg uFoyer 0)) 0 4
  l.foldl (fun s p => modPart s p.rcb (fun q => { q with bypass := q.bypass + 1, blocked := q.blocked || decide (k ≤ q.bypass + 1) })) s
/-- The sublists of a given length, in the order of the list. -/
def chooseN {α : Type} : Nat → List α → List (List α)
  | 0, _ => [[]]
  | _ + 1, [] => []
  | n + 1, x :: r => (chooseN n r).map (fun l => x :: l) ++ chooseN (n + 1) r
/-- The fewest partitions of lower priority whose pre-emption lets a candidate fit, with those draining already (R311). -/
def autoSet (s : State) (p : Part) : Option (List Part) :=
  let going := (s.parts.filter (fun q => q.parent == 0 && (q.state == 4 || (q.state == 2 && q.pendingPre.isSome)))).map (fun q => q.rcb)
  let l := sortBy (fun a b => decide (a.prio < b.prio) || (a.prio == b.prio && decide (b.queuedAt ≤ a.queuedAt)))
    (s.parts.filter (fun q => q.parent == 0 && (q.state == 3 || (q.state == 2 && q.pendingPre.isNone)) && decide (q.prio < p.prio) && decide (512 ≤ q.pantry)))
  (List.range (l.length + 1)).findSome? (fun n => (chooseN n l).find? (fun c => fits s (going ++ c.map (fun q => q.rcb)) p))
/-- ACTION 1 or 2 on a partition: held while it is configured, taken in RUN (R307). -/
def preemptAdmitted (s : State) (p : Part) (hold : Bool) : State :=
  if p.state = 2 then modPart s p.rcb (fun q => { q with pendingPre := some hold })
  else if p.state = 3 then preemptPart s p hold else s
/-- `admission` [pkg]: the first candidate that fits is admitted and the evaluation starts again; where none fits, one that
blocks or ranks first may pre-empt (R309 to R311). -/
def execAdmission (s : State) : Host.Outcome State Fault Refusal :=
  let pkg := arg s 0 % 4
  let l := untilBlocked (candidates s pkg)
  match l.find? (fits s []) with
  | some p =>
    let s := bypass s pkg (l.takeWhile (fun q => q.rcb != p.rcb))
    let s := modPart s p.rcb (fun q => { q with blocked := false })
    let s := if p.state = 1 then (match placeFor s [] p with
        | some o => configRegion s { p with blocked := false } o
        | none => s)
      else restorePart s p
    .next (soon s .admission [pkg])
  | none =>
    if !bitOf (getReg s (dieWin pkg uFoyer 0)) 5 then .next s
    else
      let who := (l.filter (fun p => p.blocked)) ++ l.take 1
      match who.findSome? (autoSet s) with
      | some c => .next (c.foldl (fun s q => preemptAdmitted s q false) s)
      | none => .next s

/-! ### PREEMPT (R307, R321) -/

/-- The partition that a PREEMPT value names, if it is one at the root of a chain. -/
def namedPart (s : State) : Option Part := (findPart s (arg s 1)).bind (fun p => if p.parent = 0 then some p else none)
/-- ACTION 1 or 2 on the partition that a PREEMPT value names. -/
def preemptNamed (s : State) (hold : Bool) : State :=
  match namedPart s with
  | none => s
  | some p => preemptAdmitted s p hold
/-- `preempt` [pkg, rcb]. -/
def execPreempt (s : State) : Host.Outcome State Fault Refusal := .next (preemptNamed s false)
/-- `preemptAndHold` [pkg, rcb]. -/
def execPreemptAndHold (s : State) : Host.Outcome State Fault Refusal := .next (preemptNamed s true)
/-- `resume` [pkg, rcb]: a held partition bids for its columns (R307). -/
def execResume (s : State) : Host.Outcome State Fault Refusal :=
  match namedPart s with
  | none => .next s
  | some p => if p.state = 6 then .next (soon (setPartState s p.rcb 5) .admission [p.launchPkg]) else .next s
/-- `endPartition` [pkg, rcb]: a running partition drains first; a halted or held one ends at once (R307). -/
def execEndPartition (s : State) : Host.Outcome State Fault Refusal :=
  match namedPart s with
  | none => .next s
  | some p =>
    if p.state = 3 then .next (startDrain (modPart s p.rcb (fun q => { q with ending := true })) p)
    else if p.state = 5 ∨ p.state = 6 then .next (endPart s p.rcb false) else .next s

end Sys2Proof.Machine
end

