-- ==== Sys2Proof/Machine/Dumbwaiter.lean ====
section
/-! DEFINITION. The Dumbwaiter: acceptance of descriptors, their checks, the copying and decryption of blobs into a column's
Attic, completion, channel faults, and errors of GDDR-7 bursts (R332, R340 to R346, R402, R411). -/
namespace Sys2Proof.Machine
open Sys2Proof

/-! ### Acceptance (R341, R441) -/

def dwWin (pkg off : Nat) : Nat := dieWin pkg uDw off
/-- Descriptors queued, those running not counted. -/
def dwQueued (s : State) (pkg : Nat) : Nat := ((getPkg s pkg).dwq.filter (fun e => e.running.isNone)).length
/-- DWSTAT (Table 15-10). -/
def dwstat (s : State) (pkg : Nat) : W64 :=
  let p := getPkg s pkg
  let busy := p.dwq.foldl (fun m e => match e.running with | some c => Nat.lor m (2 ^ c) | none => m) 0
  BitVec.ofNat 64 (dwQueued s pkg * 2 ^ 56 + p.dwChans.toNat * 256 + busy)
/-- A write to a queue that is dropped and logged (R441). -/
def dropWrite (s : State) (pkg rcb cause unit src : Nat) (v : W64) : State :=
  faultLog s rcb pkg cause unit (if src < 2048 then src else 0x7FF) 0 v
/-- A copy of a descriptor enters the queue; none while the queue is full. -/
def enqueueDw (s : State) (pkg part : Nat) (sys : Bool) (pa : Nat) (d : List W64) (record kv : Bool) (pages : List Nat) : Option State :=
  if 64 ≤ dwQueued s pkg then none
  else
    let (op, s) := takeId s
    let e : DwEnt := {
      op := op, part := part, sys := sys, pa := pa, d := d, record := record, kv := kv, running := none, code := 0, pages := pages,
      key := none, cut := false, landed := 0, counted := 0, buf := [], bad := false }
    some (soon (modPkg s pkg (fun p => { p with dwq := p.dwq ++ [e] })) .dumbwaiterStart [pkg])
/-- The descriptor at a physical address is read once. -/
def readDw (s : State) (pkg rcb : Nat) (sys : Bool) (pa src : Nat) (v : W64) (record : Bool) : Option State :=
  let u := (List.range 8).foldl (fun s i => noteRead s (pa + 8 * i)) s
  if !(List.range 8).all (fun i => readable s (pa + 8 * i)) then some (dropWrite u pkg rcb 0x04 6 src v)
  else enqueueDw u pkg (partOf s rcb) sys pa ((List.range 8).map (fun i => dwordAt s (pa + 8 * i))) record false []
/-- A write of DWQ by a core. -/
def writeDwq (s : State) (pkg src : Nat) (sys : Bool) (v : W64) : Option State :=
  let s := setReg s (dwWin pkg 0) v
  let rcb := if src < 2048 then regionOf s src else 0
  if rcb = 0 then some (dropWrite s pkg rcb 0x05 6 src v)
  else if v.toNat % 64 ≠ 0 then some (dropWrite s pkg rcb 0x03 6 src v)
  else
    let va := bits v 6 46 * 64
    let s := noteWalk s pkg (partOf s rcb) va
    match xlateUnit s pkg (partOf s rcb) va 0 true, xlateUnit s pkg (partOf s rcb) va 1 true with
    | none, _ => some (dropWrite s pkg rcb 0x04 6 src v)
    | some _, none => some (dropWrite s pkg rcb 0x05 6 src v)
    | some _, some pa => readDw s pkg rcb sys pa src v false
/-- A write of DWQP, or with `record` of DWQR, for the partition that DWPART names. -/
def writeDwqp (s : State) (pkg src : Nat) (v : W64) (record : Bool) : Option State :=
  readDw (setReg s (dwWin pkg (if record then 0x28 else 0x10)) v) pkg (bits (getReg s (dwWin pkg 8)) 6 40 * 64) true (bits v 6 40 * 64) src v record
/-- Holds a write that its window cannot take (R328). -/
def holdWrite (s : State) (pkg : Nat) (w : List Nat) : State := modPkg s pkg (fun p => { p with heldWrites := p.heldWrites ++ [w] })
/-- Whether an earlier write to a unit of a package is held. -/
def unitHeld (s : State) (pkg unit : Nat) : Bool := (getPkg s pkg).heldWrites.any (fun w => w.headD 0 == unit)
/-- Takes a write, or holds it behind those held. -/
def takeOrHold (s : State) (pkg unit : Nat) (w : List Nat) (f : State → Option State) : State :=
  if unitHeld s pkg unit then holdWrite s pkg (unit :: w)
  else match f s with
    | some s => s
    | none => holdWrite s pkg (unit :: w)
/-- `dwq` [pkg, src, value, level]. -/
def execDwq (s : State) : Host.Outcome State Fault Refusal :=
  .next (takeOrHold s (arg s 0 % 4) 2 [0, arg s 1, arg s 2, arg s 3] (fun s => writeDwq s (arg s 0 % 4) (arg s 1) (arg s 3 == 1) (argW s 2)))
/-- `dwqp` [pkg, value]. -/
def execDwqp (s : State) : Host.Outcome State Fault Refusal :=
  .next (takeOrHold s (arg s 0 % 4) 2 [1, 2048, arg s 1, 1] (fun s => writeDwqp s (arg s 0 % 4) 2048 (argW s 1) false))
/-- `dwqr` [pkg, value] (R411). -/
def execDwqr (s : State) : Host.Outcome State Fault Refusal :=
  .next (takeOrHold s (arg s 0 % 4) 2 [2, 2048, arg s 1, 1] (fun s => writeDwqp s (arg s 0 % 4) 2048 (argW s 1) true))

/-! ### Fields (Table 15-8) -/

def DwEnt.w (e : DwEnt) (i : Nat) : W64 := e.d.getD i 0
def DwEnt.src (e : DwEnt) : Nat := bits (e.w 0) 0 52
def DwEnt.col (e : DwEnt) : Nat := bits (e.w 1) 32 7
def DwEnt.dst (e : DwEnt) : Nat := bits (e.w 1) 0 29
def DwEnt.lines (e : DwEnt) : Nat := bits (e.w 2) 0 24 + 1
def DwEnt.gcm (e : DwEnt) : Bool := bitOf (e.w 3) 57
def DwEnt.slotNo (e : DwEnt) : Nat := bits (e.w 3) 58 6
def DwEnt.swen (e : DwEnt) : Bool := bitOf (e.w 3) 56
def DwEnt.swtag (e : DwEnt) : Nat := bits (e.w 3) 48 8
/-- Bytes of the blob (R340). -/
def DwEnt.blobLen (e : DwEnt) : Nat := 128 * e.lines + (if e.gcm then 48 else 0)
def DwEnt.reservedOk (e : DwEnt) : Bool :=
  bits (e.w 0) 52 12 == 0 && bits (e.w 1) 39 25 == 0 && bits (e.w 1) 29 3 == 0 && bits (e.w 2) 24 40 == 0 && bits (e.w 3) 0 25 == 0 &&
  e.w 4 == 0 && e.w 5 == 0 && e.w 6 == 0 && e.src % 64 == 0 && e.dst % 128 == 0
/-- The core and slice offset of a line of the destination (R273). -/
def DwEnt.line (e : DwEnt) (j : Nat) : Nat × Nat :=
  let a := e.dst + 128 * j
  (coreAt e.col (a / 0x1800000), a % 0x1800000)
/-- Physical address of a byte of the blob. -/
def DwEnt.blobPa (e : DwEnt) (i : Nat) : Nat := e.pages.getD ((e.src % 4096 + i) / 4096) 0 * 4096 + (e.src + i) % 4096

/-- Whether a descriptor has started before: one whose channel faulted, or one that a start issues again. It keeps the
translation and the region it was checked for (R344, R411). -/
def DwEnt.again (e : DwEnt) : Bool := e.pages != [] && !e.kv

/-! ### Start (R342, R343) -/

/-- KSOWN's owner of a key slot (Table 19-1). -/
def keyOwner (s : State) (pkg k : Nat) : Nat := bits (getReg s (dwWin pkg (0x100 + 16 * k))) 6 40 * 64
def keySlot (s : State) (pkg k : Nat) : KeySlot := (getPkg s pkg).keys.get ⟨0, false⟩ k
/-- The pages of a blob, or the code with which its translation fails: 2 no translation, 3 no permission. -/
def blobPages (s : State) (pkg : Nat) (e : DwEnt) : Except Nat (List Nat) :=
  let first := e.src / 4096
  (List.range ((e.src + e.blobLen - 1) / 4096 + 1 - first)).foldl (fun r i =>
    match r with
    | .error c => .error c
    | .ok l =>
      let va := (first + i) * 4096
      match xlateUnit s pkg e.part va 0 true, xlateUnit s pkg e.part va 1 e.sys with
      | none, _ => .error 2
      | some _, none => .error 3
      | some _, some pa => .ok (l ++ [pa / 4096])) (.ok [])
/-- What the translation of a blob does beside answering: its walks, up to the first page that has none (R336). -/
def blobWalk (s : State) (pkg : Nat) (e : DwEnt) : State :=
  ((List.range ((e.src + e.blobLen - 1) / 4096 + 1 - e.src / 4096)).foldl (fun r i =>
    let va := (e.src / 4096 + i) * 4096
    if r.2 then (noteWalk r.1 pkg e.part va, (xlateUnit s pkg e.part va 1 e.sys).isSome) else r) (s, true)).1
/-- Whether a line of the destination is refused: no such slice, out of service, at or above ATTCAP, or in the Pantry for a
descriptor of task level. -/
def lineBad (s : State) (e : DwEnt) (j : Nat) : Bool :=
  let (c, off) := e.line j
  decide (16 * 0x1800000 ≤ e.dst + 128 * j) || !inSvc s c || decide (attcap s c < off + 128) ||
    (!e.sys && decide (pantry s c < off + 128))
/-- Every check of a descriptor, with the pages of its blob. -/
def checkDw (s : State) (pkg : Nat) (e : DwEnt) : Except Nat (List Nat) :=
  if !e.reservedOk then .error 1
  else
    let pages := if e.kv || e.again then .ok e.pages else blobPages s pkg e
    match pages with
    | .error c => .error c
    | .ok pages =>
      if e.gcm && keyOwner s pkg e.slotNo != e.part then .error 6
      else if !e.again && (pkgOfCol e.col != pkg || partOf s (colRegion s e.col) != e.part) then .error 3
      else if (List.range e.lines).any (lineBad s e) then .error 7
      else .ok pages
/-- Whether a column's refill may begin for a tag: its tasks are at rest and the flush is done (R342). -/
def switchHeld (s : State) (e : DwEnt) : Bool := e.swen && !((getCol s e.col).swready && (getCol s e.col).swtag == some e.swtag)
/-- The first descriptor that a free channel can take. -/
def nextDw (s : State) : List DwEnt → List Nat → Option DwEnt
  | [], _ => none
  | e :: r, cols =>
    if e.running.isNone && e.code == 0 && !cols.contains e.col && !switchHeld s e then some e else nextDw s r (e.col :: cols)
def modDw (s : State) (pkg op : Nat) (f : DwEnt → DwEnt) : State :=
  modPkg s pkg (fun p => { p with dwq := p.dwq.map (fun e => if e.op = op then f e else e) })
/-- The channels in service that no descriptor holds. -/
def freeChans (s : State) (pkg : Nat) : List Nat :=
  let p := getPkg s pkg
  (List.range 4).filter (fun c => p.dwChans.toNat.testBit c && p.dwq.all (fun e => e.running != some c))
/-- Runs a descriptor on a channel from its first line: two lines land in each cycle from the next, and it ends no earlier than half
a cycle a line after its start (R343). Log entry 63. -/
def runDw (s : State) (pkg op chan : Nat) (lines : Nat) (f : DwEnt → DwEnt) : State :=
  let s := modDw s pkg op (fun e => { f e with running := some chan, cut := false, landed := 0, buf := [], bad := false })
  let (d, s) := takeDelay s
  let s := schedule s (s.now + (lines + 1) / 2 + d) .dumbwaiterComplete [pkg, op]
  if lines = 0 then s else schedule s (s.now + 1) .dumbwaiterComplete [pkg, op, 1]
/-- Descriptors start as channels are free; a cancelled one, and one that fails a check, ends without a line (R342, R343). -/
def startDw (pkg : Nat) : Nat → State → State
  | 0, s => s
  | n + 1, s =>
    let q := (getPkg s pkg).dwq
    match q.find? (fun e => e.running.isNone && e.code == 0 && !e.again && (findPart s e.part).isNone) with
    | some e => startDw pkg n (modDw s pkg e.op (fun e => { e with code := 9 }))
    | none =>
      match freeChans s pkg, nextDw s q [] with
      | c :: _, some e =>
        startDw pkg n (match checkDw s pkg e with
          | .error code => runDw (if e.kv || e.again || code == 1 then s else blobWalk s pkg e) pkg e.op c 0 (fun e => { e with code := code })
          | .ok pages =>
            let key := if e.gcm then some (keySlot s pkg e.slotNo).key else none
            runDw (if e.kv || e.again then s else blobWalk s pkg e) pkg e.op c e.lines (fun e => { e with pages := pages, key := key }))
      | _, _ => s
/-- `dumbwaiterStart` [pkg]. -/
def execDumbwaiterStart (s : State) : Host.Outcome State Fault Refusal :=
  let pkg := arg s 0 % 4
  let s := startDw pkg (2 * (getPkg s pkg).dwq.length) s
  .next (((getPkg s pkg).dwq.filter (fun e => e.running.isNone && e.code != 0)).foldl (fun s e =>
    soon s .dumbwaiterComplete [pkg, e.op]) s)

/-! ### The work (R343, R344) -/

/-- A byte of the blob as it is performed at its home. -/
def blobByte (s : State) (e : DwEnt) (i : Nat) : Byte :=
  let pa := e.blobPa i
  BitVec.ofNat 8 (wordAt s pa 1)
/-- Whether the dword at a byte of the blob reads uncorrectable. -/
def blobErr (s : State) (e : DwEnt) (i : Nat) : Bool := wordErr s (e.blobPa i) = .ecc || (wordErr s (e.blobPa i)).isAttic
/-- Whether a dword of the blob reads uncorrectable. -/
def blobBad (s : State) (e : DwEnt) : Bool := (List.range ((e.blobLen + 7) / 8)).any (fun i => blobErr s e (8 * i))
/-- Reads `n` bytes of the blob from byte `o`, as they are performed at their homes (R345). -/
def readBlob (s : State) (e : DwEnt) (o n : Nat) : State × DwEnt :=
  let at_ := (List.range (n / 8)).map (fun i => o + 8 * i)
  (at_.foldl (fun s i => noteRead s (e.blobPa i)) s,
    { e with buf := e.buf ++ (List.range n).map (fun i => blobByte s e (o + i)), bad := e.bad || at_.any (blobErr s e) })
/-- Physical addresses of the dwords of line `j` of the destination. -/
def DwEnt.linePas (e : DwEnt) (j : Nat) : List Nat :=
  let (c, off) := e.line j
  (List.range 16).map (fun i => slicePa c (off + 8 * i))
/-- Every line of the destination is written poisoned (R282, R344). -/
def poisonLines (s : State) (e : DwEnt) : State :=
  (List.range e.lines).foldl (fun s j => (e.linePas j).foldl (fun s pa => putPoison s pa (rd64 s pa)) s) s
/-- Where the lines of a blob begin in it (R340). -/
def DwEnt.head (e : DwEnt) : Nat := if e.key.isSome then 32 else 0
/-- The plain bytes of the line read last: `raw` itself, or decrypted with the IV that the header holds. -/
def DwEnt.plain (e : DwEnt) (raw : List Byte) : List Byte :=
  match e.key with
  | none => raw
  | some k => ctrMode (keySchedule (leBytes 32 k.toNat)) (e.buf.take 12) (2 + 8 * e.landed) (pieces 16 8 raw)
/-- The barrier's decrement for a line that lands for the first time, where the blob is not encrypted (R345). -/
def countLine (s : State) (pkg : Nat) (e : DwEnt) : State :=
  if bitOf (e.w 3) 47 && !e.gcm && decide (e.counted ≤ e.landed) then (barChange s pkg (bits (e.w 3) 41 6) (-128) false).2 else s
/-- Reads the next line of a descriptor and writes it; from an uncorrectable word on, nothing lands (R344, R345). -/
def landLine (s : State) (pkg : Nat) (e : DwEnt) : State × DwEnt :=
  let (s, e) := if e.key.isSome ∧ e.buf = [] then readBlob s e 0 32 else (s, e)
  let o := e.head + 128 * e.landed
  let (s, e) := readBlob s e o 128
  if e.bad then (s, e)
  else
    let data := e.plain (e.buf.drop o)
    let s := ((e.linePas e.landed).zipIdx).foldl (fun s x => putDword s x.1 (BitVec.ofNat 64 (leNat ((data.drop (8 * x.2)).take 8)))) s
    (countLine s pkg e, { e with landed := e.landed + 1, counted := max e.counted (e.landed + 1) })
/-- Lands up to `n` lines. -/
def landLines (pkg : Nat) : Nat → State → DwEnt → State × DwEnt
  | 0, s, e => (s, e)
  | n + 1, s, e =>
    if e.bad ∨ e.lines ≤ e.landed then (s, e)
    else
      let r := landLine s pkg e
      landLines pkg n r.1 r.2
/-- The end of a descriptor's work, with its code: the lines still to come, then the check of the tag; all lines are poisoned where a
source word is uncorrectable, where the tag does not match, and where no channel remains (R344). -/
def moveBlob (s : State) (pkg : Nat) (e : DwEnt) : State × DwEnt × Nat :=
  if e.code = 8 then (poisonLines s e, e, 8)
  else
    let n := 128 * e.lines
    let (s, e) := landLines pkg (e.lines - e.landed) s e
    let (s, e) := if e.key.isSome ∧ !e.bad then readBlob s e (32 + n) 16 else (s, e)
    if e.bad then (poisonLines s e, e, 4)
    else match e.key with
      | none => (s, e, 0)
      | some key =>
        if gcmOk (leBytes 32 key.toNat) (e.buf.take 12) (e.buf.take 32) ((e.buf.drop 32).take n) (e.buf.drop (32 + n)) then (s, e, 0)
        else (poisonLines s e, e, 5)

/-! ### Completion (R345, R346, R411) -/

/-- A descriptor's lines as column addresses: column, first and end. -/
def DwEnt.span (e : DwEnt) : Nat × Nat × Nat := (e.col, e.dst, e.dst + 128 * e.lines)
def spansMeet (a b : DwEnt) : Bool := a.span.1 == b.span.1 && decide (a.span.2.1 < b.span.2.2) && decide (b.span.2.1 < a.span.2.2)
/-- The residency list with a completed descriptor: it takes the place of those it overlaps; at most 4,096 stand there. -/
def recordResidency (l : List DwEnt) (e : DwEnt) : List DwEnt :=
  let l := l.filter (fun x => !spansMeet x e)
  if l.length < 4096 then l ++ [{ e with running := none, key := none, landed := 0, counted := 0, buf := [] }] else l
/-- The code of the page manager for a code of the Dumbwaiter (R394). -/
def kvCodeOfDw (c : Nat) : Nat := if c = 0 then 0 else if c = 1 then 1 else if c = 2 then 2 else if c = 3 then 4 else if c = 7 then 7 else 5
/-- Held writes of KSLOAD and KSOWN come to their turn again (R402). -/
def retryKeys (s : State) (pkg : Nat) : State :=
  (getPkg s pkg).keyHeld.foldl (fun s w => if w.1 = 64 then schedule s s.now .ksload [pkg, w.2.toNat]
    else schedule s s.now .ksown [pkg, w.1, w.2.toNat]) (modPkg s pkg (fun p => { p with keyHeld := [] }))
/-- INTSTAT[5] is set once the last descriptor that a start has issued again has completed; one that fails is logged (R411). -/
def reloadDone (s : State) (pkg : Nat) (e : DwEnt) (code : Nat) : State :=
  let p := getPkg s pkg
  let s := if p.reloading ∧ e.record ∧ code ≠ 0 then freeNotice s e.part pkg else s
  if p.reloading ∧ p.dwq.all (fun x => !x.record) then
    modPkg (setReg s (ccWin pkg 0) (getReg s (ccWin pkg 0) ||| 0x20)) pkg (fun p => { p with reloading := false })
  else s
/-- The steps of a completion, in order. -/
def endDw (s : State) (pkg : Nat) (e : DwEnt) (code : Nat) : State :=
  let s := modPkg s pkg (fun p => { p with dwq := p.dwq.filter (fun x => x.op != e.op) })
  let s := if e.kv then
      modPkg s pkg (fun p => { p with kvWait := match p.kvWait with
        | some (0, n, c) => some (0, n - 1, if c = 0 then kvCodeOfDw code else c)
        | w => w })
    else
      let s := (writeWord s (e.pa + 56) 8 (2 ^ 63 + code * 2 ^ 48)).1
      if code = 0 then s else setReg s (dwWin pkg 0x20) (BitVec.ofNat 64 (2 ^ 63 + code * 2 ^ 48 + e.pa / 64 % 2 ^ 40 * 64))
  let left := 128 * e.lines - (if e.gcm then 0 else 128 * e.counted)
  let s := if bitOf (e.w 3) 47 ∧ left ≠ 0 then (barChange s pkg (bits (e.w 3) 41 6) (-(left : Int)) false).2 else s
  let s := if bitOf (e.w 3) 40 then raiseCc s (bits (e.w 3) 29 11) (bits (e.w 3) 25 4) 1 else s
  let s := if e.record && code == 0 then modPkg s pkg (fun p => { p with residency := recordResidency p.residency e }) else s
  let col := getCol s e.col
  let s := if e.swen && code != 0 && col.swready && col.swtag == some e.swtag && decide (e.op < col.swop) then
      modCol s e.col (fun c => { c with swfail := true }) else s
  let s := if e.swen then soon s .switchRebind [e.col] else s
  let s := if e.kv then soon s .stage [pkg] else s
  let s := reloadDone (retryKeys s pkg) pkg e code
  soon (soon (soon s .dumbwaiterStart [pkg]) .heldWriteTaken [pkg, 2]) .admission [pkg]
/-- `dumbwaiterComplete` [pkg, op], and [pkg, op, 1] in each cycle in which lines of it land. -/
def execDumbwaiterComplete (s : State) : Host.Outcome State Fault Refusal :=
  let pkg := arg s 0 % 4
  match (getPkg s pkg).dwq.find? (fun e => e.op == arg s 1 && (e.running.isSome || e.code != 0)) with
  | none => .next s
  | some e =>
    if arg s 2 = 1 then
      if e.code ≠ 0 then .next s
      else
        let (s, x) := landLines pkg 2 s e
        let s := modDw s pkg e.op (fun _ => x)
        .next (if x.bad ∨ x.lines ≤ x.landed then s else schedule s (s.now + 1) .dumbwaiterComplete [pkg, e.op, 1])
    else if e.code = 0 ∨ e.code = 8 then
      let (s, x, code) := moveBlob s pkg e
      .next (endDw s pkg x code)
    else .next (endDw s pkg e e.code)
/-- Where no channel remains, the descriptors that a fault has cut off end with code 8 (R344). -/
def endCut (s : State) (pkg : Nat) : State :=
  if (getPkg s pkg).dwChans ≠ 0 then s
  else ((getPkg s pkg).dwq.filter (fun e => e.cut && e.code == 0)).foldl (fun s e =>
    soon (modDw s pkg e.op (fun e => { e with code := 8 })) .dumbwaiterComplete [pkg, e.op]) s
/-- `dumbwaiterChannelFault` [pkg, chan]: the channel leaves service; its descriptor starts again from its first line on another,
and ends with code 8 where none remains (R344). -/
def execDumbwaiterChannelFault (s : State) : Host.Outcome State Fault Refusal :=
  let pkg := arg s 0 % 4
  let chan := arg s 1 % 4
  let s := modPkg s pkg (fun p => { p with dwChans := p.dwChans &&& ~~~(BitVec.ofNat 4 (2 ^ chan)) })
  match (getPkg s pkg).dwq.find? (fun e => e.running == some chan) with
  | none => .next (endCut s pkg)
  | some e =>
    let s := { s with agenda := s.agenda.filter (fun p => !(p.2.1 == .dumbwaiterComplete && p.2.2.take 2 == [pkg, e.op])) }
    if e.code ≠ 0 then .next (soon (endCut s pkg) .dumbwaiterComplete [pkg, e.op])
    else match freeChans s pkg with
      | c :: _ => .next (runDw s pkg e.op c e.lines id)
      | [] => .next (endCut (modDw s pkg e.op (fun e => { e with running := none, cut := true })) pkg)

/-! ### GDDR-7 bursts (R332) -/

/-- `gddrBurstError` [addr, final]: a burst that is retried changes nothing; one that still fails makes its granule
uncorrectable; a channel's table that is full is reported, and the package restarts warm. -/
def execGddrBurstError (s : State) : Host.Outcome State Fault Refusal :=
  match placeOf (arg s 0) with
  | .gddr p _ =>
    let g := arg s 0 / 32
    if arg s 1 = 0 ∨ (getPkg s p).poison.contains g then .next s
    else if poisonFull s p (arg s 0) then
      let (f, s) := takeDelay s
      let (c, s) := takeDelay s
      .next (soon (freeNotice s 0 p) .warmStart [p, f, c])
    else .next (modPkg s p (fun q => { q with poison := g :: q.poison }))
  | _ => .next s

end Sys2Proof.Machine
end

