-- ==== Sys2Proof/Machine/Package.lean ====
section
/-! DEFINITION. The control complex's window: mailboxes, the placing of its structures, and the page manager's reset (R378,
R379, R392, R393, R440). -/
namespace Sys2Proof.Machine
open Sys2Proof

/-- Sets bits of INTSTAT (Table 18-1). -/
def raiseInt (s : State) (pkg : Nat) (m : W64) : State := setReg s (ccWin pkg 0) (getReg s (ccWin pkg 0) ||| m)

/-! ### Mailboxes (R379) -/

/-- A write of MBIN; none while the inbound mailbox is full. -/
def writeMbin (s : State) (pkg : Nat) (v : W64) : Option State :=
  let l := (getPkg s pkg).mbin
  if 256 ≤ l.length then none
  else
    let s := modPkg s pkg (fun p => { p with mbin := p.mbin ++ [v] })
    some (if l = [] then raiseInt s pkg 1 else s)
/-- A write of MBOUT; none while the outbound mailbox is full. -/
def writeMbout (s : State) (pkg : Nat) (v : W64) : Option State :=
  if 256 ≤ (getPkg s pkg).mbout.length then none else some (modPkg s pkg (fun p => { p with mbout := p.mbout ++ [v] }))
/-- A read of MBINPOP, and of MBOUTPOP: the oldest dword, removed. -/
def popMbin (s : State) (pkg : Nat) : W64 × State :=
  match (getPkg s pkg).mbin with
  | [] => (0, s)
  | v :: r => (v, soon (modPkg s pkg (fun p => { p with mbin := r })) .heldWriteTaken [pkg, 6])
def popMbout (s : State) (pkg : Nat) : W64 × State :=
  match (getPkg s pkg).mbout with
  | [] => (0, s)
  | v :: r => (v, soon (modPkg s pkg (fun p => { p with mbout := r })) .heldWriteTaken [pkg, 7])
/-- `mbin` [pkg, value]. -/
def execMbin (s : State) : Host.Outcome State Fault Refusal :=
  .next (takeOrHold s (arg s 0 % 4) 6 [arg s 1] (fun s => writeMbin s (arg s 0 % 4) (argW s 1)))
/-- `mbout` [pkg, value]. -/
def execMbout (s : State) : Host.Outcome State Fault Refusal :=
  .next (takeOrHold s (arg s 0 % 4) 7 [arg s 1] (fun s => writeMbout s (arg s 0 % 4) (argW s 1)))
/-- `mbinpop` [pkg]. -/
def execMbinpop (s : State) : Host.Outcome State Fault Refusal := .next (popMbin s (arg s 0 % 4)).2
/-- `mboutpop` [pkg]. -/
def execMboutpop (s : State) : Host.Outcome State Fault Refusal := .next (popMbout s (arg s 0 % 4)).2
/-- An answer of a management command goes into the outbound mailbox, behind those held (R413). -/
def answer (s : State) (pkg : Nat) (v : W64) : State := takeOrHold s pkg 7 [v.toNat] (fun s => writeMbout s pkg v)

/-! ### The page manager's area and its reset (R392, R393, Table 18-10) -/

def kvPool (s : State) (pkg : Nat) : Nat := bits (getReg s (ccWin pkg 0x340)) 12 34 * 4096
def kvPageBytes (s : State) (pkg : Nat) : Nat := 128 * bits (getReg s (ccWin pkg 0x348)) 32 24
def kvPages (s : State) (pkg : Nat) : Nat := bits (getReg s (ccWin pkg 0x348)) 0 24
def kvBase (s : State) (pkg : Nat) : Nat := bits (getReg s (ccWin pkg 0x350)) 6 40 * 64
/-- The page count rounded up to a multiple of 32. -/
def kvPages32 (s : State) (pkg : Nat) : Nat := (kvPages s pkg + 31) / 32 * 32
def kvAreaLen (s : State) (pkg : Nat) : Nat := 0x20000 + 6 * kvPages32 s pkg
/-- Where the reference count of a page, an entry of the free stack, and a page of a prefix record stand. -/
def kvRefAt (s : State) (pkg k : Nat) : Nat := kvBase s pkg + 0x20000 + 2 * k
def kvStackAt (s : State) (pkg i : Nat) : Nat := kvBase s pkg + 0x20000 + 2 * kvPages32 s pkg + 4 * i
def kvRecordAt (s : State) (pkg e g : Nat) : Nat := kvBase s pkg + 0x10000 + 1024 * e + 4 * g
/-- The depth of the free stack. -/
def kvDepth (s : State) (pkg : Nat) : Nat := if kvPages s pkg = 0 then 0 else bits (rd64 s (kvBase s pkg)) 0 24
/-- KVSTAT. -/
def kvstat (s : State) (pkg : Nat) : W64 := BitVec.ofNat 64 ((getPkg s pkg).kvq.length * 2 ^ 56 + kvDepth s pkg)
/-- Writes zeros over a range of GDDR-7, clearing its poison. -/
def zeroGddr (s : State) (pkg pa n : Nat) : State :=
  let out (a : Nat) : Bool := decide (a < pa) || decide (pa + n ≤ a)
  modPkg { s with mem := s.mem.filter (fun c => out c.1) } pkg (fun p => { p with poison := p.poison.filter (fun g => out (32 * g)) })
/-- The free stack as a reset leaves it: page 0 on top. -/
def kvFillStack (pkg n : Nat) : Nat → State → State
  | 0, s => s
  | i + 1, s => kvFillStack pkg n i (wrN s (kvStackAt s pkg i) 4 (n - 1 - i))
/-- Resets the page manager: every count 0, every page free, the prefix table empty. An area that is not in the package's
GDDR-7, or one of no page, is not written. -/
def resetKv (s : State) (pkg : Nat) : State :=
  let s := modPkg s pkg (fun p => { p with px := [], pxStamp := 0 })
  let base := kvBase s pkg
  let n := kvPages s pkg
  if n = 0 ∨ base < 0xC00000000 * pkg ∨ 0xC00000000 * pkg + 0xB01000000 < base + kvAreaLen s pkg then s
  else
    let s := zeroGddr s pkg base (kvAreaLen s pkg)
    kvFillStack pkg n n (wr64 s base (BitVec.ofNat 64 n))

/-! ### Placing registers (R392, R440) -/

/-- A write of FDBASE: taken while its fields lie in range; it resets the page manager. -/
def writeFdbase (s : State) (pkg : Nat) (v : W64) : State :=
  if 0x1000000 ≤ bits v 5 27 * 32 ∧ bits v 0 4 ≤ 9 then resetKv (setReg s (ccWin pkg 0x040) (v &&& 0xFFFFFFEF)) pkg else s
/-- A write of FLBASE. -/
def writeFlbase (s : State) (pkg : Nat) (v : W64) : State :=
  if 0x1000000 ≤ bits v 6 26 * 64 ∧ bits v 32 4 ≤ 12 then resetKv (setReg s (ccWin pkg 0x380) (v &&& 0xFFFFFFFC0)) pkg else s
/-- A write of KVPOOL, KVSIZE or KVREF, by its offset and the bits it changes. -/
def writeKvReg (s : State) (pkg off : Nat) (mask v : W64) : State := resetKv (setReg s (ccWin pkg off) (v &&& mask)) pkg
/-- `fdbase` [pkg, value]. -/
def execFdbase (s : State) : Host.Outcome State Fault Refusal := .next (writeFdbase s (arg s 0 % 4) (argW s 1))
/-- `flbase` [pkg, value]. -/
def execFlbase (s : State) : Host.Outcome State Fault Refusal := .next (writeFlbase s (arg s 0 % 4) (argW s 1))
/-- `kvpool` [pkg, value]. -/
def execKvpool (s : State) : Host.Outcome State Fault Refusal := .next (writeKvReg s (arg s 0 % 4) 0x340 0x3FFFFFFFF000 (argW s 1))
/-- `kvsize` [pkg, value]. -/
def execKvsize (s : State) : Host.Outcome State Fault Refusal := .next (writeKvReg s (arg s 0 % 4) 0x348 0xFFFFFF00FFFFFF (argW s 1))
/-- `kvref` [pkg, value]. -/
def execKvref (s : State) : Host.Outcome State Fault Refusal := .next (writeKvReg s (arg s 0 % 4) 0x350 0x3FFFFFFFFFC0 (argW s 1))

end Sys2Proof.Machine
end

