-- ==== Sys2Proof/Machine/KeyValue.lean ====
section
/-! DEFINITION. The page manager: its queue, sequence descriptors, page lists and reference counts, the prefix table, and the
operations of Table 18-6 (R389 to R399). An operation that fails a check leaves the state as it was, so each is written as a
function that answers its code or the state it makes. -/
namespace Sys2Proof.Machine
open Sys2Proof

/-! ### Memory of a partition as the page manager reaches it (R391, R438) -/

/-- Where a record works: its package, its partition and the address of its sequence descriptor. -/
structure KvAt where
  pkg : Nat
  part : Nat
  sd : Nat
  deriving DecidableEq, Repr

/-- Whether a range translates with a permission. -/
def KvAt.ok (s : State) (k : KvAt) (va n need : Nat) : Bool :=
  n == 0 || (List.range ((va + n - 1) / 4096 + 1 - va / 4096)).all (fun i =>
    (xlateUnit s k.pkg k.part ((va / 4096 + i) * 4096) need true).isSome)
def KvAt.pa (s : State) (k : KvAt) (va : Nat) : Nat := (xlateUnit s k.pkg k.part va 0 true).getD 0
/-- Whether a word of a range reads uncorrectable. -/
def KvAt.bad (s : State) (k : KvAt) (va n : Nat) : Bool :=
  n != 0 && (List.range ((va + n - 1) / 8 + 1 - va / 8)).any (fun i => !readable s (k.pa s ((va / 8 + i) * 8)))
def KvAt.rd (s : State) (k : KvAt) (va n : Nat) : Nat := wordAt s (k.pa s va) n
/-- Writes a word where its address translates. -/
def KvAt.wr (s : State) (k : KvAt) (va n v : Nat) : State :=
  match xlateUnit s k.pkg k.part va 0 true with
  | some pa => (writeWord s pa n v).1
  | none => s
def KvAt.bytes (s : State) (k : KvAt) (va n : Nat) : List Byte := (List.range n).map (fun i => BitVec.ofNat 8 (k.rd s (va + i) 1))
/-- A check: its code where it fails. -/
def need (c : Bool) (code : Nat) : Except Nat Unit := if c then .ok () else .error code
/-- A range translates with a permission, or code 2, and no word of it is uncorrectable, or code 5. -/
def KvAt.range (s : State) (k : KvAt) (va n perm : Nat) : Except Nat Unit :=
  if !k.ok s va n perm then .error 2 else if k.bad s va n then .error 5 else .ok ()
/-- Copies bytes of the partition's memory, eight at a time. -/
def KvAt.copy (k : KvAt) (src dst : Nat) : Nat → State → State
  | 0, s => s
  | n + 1, s => KvAt.copy k (src + 8) (dst + 8) n (k.wr s dst 8 (k.rd s src 8))

/-! ### Sequence descriptors (Table 18-5) -/

def KvAt.dw (s : State) (k : KvAt) (i : Nat) : W64 := BitVec.ofNat 64 (k.rd s (k.sd + 8 * i) 8)
def KvAt.put (s : State) (k : KvAt) (i lo len v : Nat) : State := k.wr s (k.sd + 8 * i) 8 (setBits (k.dw s i) lo len v).toNat
def KvAt.clen (s : State) (k : KvAt) : Nat := bits (k.dw s 0) 32 32
def KvAt.slen (s : State) (k : KvAt) : Nat := bits (k.dw s 0) 0 32
def KvAt.truelen (s : State) (k : KvAt) : Nat := bits (k.dw s 1) 32 32
def KvAt.groups (s : State) (k : KvAt) : Nat := bits (k.dw s 2) 56 8 + 1
def KvAt.maxb (s : State) (k : KvAt) : Nat := bits (k.dw s 7) 0 32
def KvAt.paged (s : State) (k : KvAt) : Bool := bitOf (k.dw s 10) 1
def KvAt.psel (s : State) (k : KvAt) : Nat := bits (k.dw s 10) 0 1
def KvAt.penb (s : State) (k : KvAt) : Nat := bits (k.dw s 10) 32 32
/-- The address in bits [51:6] of a dword: PLIST, RMAP, SCORE, PEN0 and PEN1. -/
def KvAt.ptr (s : State) (k : KvAt) (i : Nat) : Nat := bits (k.dw s i) 6 46 * 64
def KvAt.listLen (s : State) (k : KvAt) : Nat := k.groups s * k.maxb s
def KvAt.entryAt (s : State) (k : KvAt) (i : Nat) : Nat := k.ptr s 2 + 4 * i
/-- The list entry of block b of group g. -/
def KvAt.entry (s : State) (k : KvAt) (g b : Nat) : Nat := k.rd s (k.entryAt s (g * k.maxb s + b)) 4
def KvAt.setEntry (s : State) (k : KvAt) (g b v : Nat) : State := k.wr s (k.entryAt s (g * k.maxb s + b)) 4 v
def KvAt.rmap (s : State) (k : KvAt) (b : Nat) : Nat := k.rd s (k.ptr s 3 + 4 * b) 4
def KvAt.setRmap (s : State) (k : KvAt) (b v : Nat) : State := k.wr s (k.ptr s 3 + 4 * b) 4 v
def KvAt.score (s : State) (k : KvAt) (b : Nat) : Nat := k.rd s (k.ptr s 4 + 4 * b) 4
def KvAt.setScore (s : State) (k : KvAt) (b v : Nat) : State := k.wr s (k.ptr s 4 + 4 * b) 4 v
/-- The page numbers that name no page (R389). -/
def noPage : Nat := 0xFFFFFFFF
def flashPage : Nat := 0xFFFFFFFE
/-- Reserved fields of a descriptor are 0. -/
def KvAt.reservedOk (s : State) (k : KvAt) : Bool :=
  k.dw s 11 == 0 && k.dw s 14 == 0 && k.dw s 15 == 0 && bits (k.dw s 2) 52 4 == 0 &&
  [2, 3, 4, 8, 9].all (fun i => bits (k.dw s i) 0 6 == 0 && (i == 2 || bits (k.dw s i) 52 12 == 0)) && bits (k.dw s 10) 2 30 == 0
/-- The committed penalty buffer, and the working one (R390). -/
def KvAt.penAt (s : State) (k : KvAt) (i : Nat) : Nat := k.ptr s (8 + i % 2)
/-- The working buffer becomes a copy of the committed one. -/
def KvAt.copyPen (s : State) (k : KvAt) : State :=
  k.copy (k.penAt s (k.psel s)) (k.penAt s (1 - k.psel s)) (k.penb s / 8) s

/-! ### Pages (R389, R392) -/

def isPage (s : State) (pkg e : Nat) : Bool := decide (e < kvPages s pkg)
def pageRef (s : State) (pkg k : Nat) : Nat := rdN s (kvRefAt s pkg k) 2
def setRef (s : State) (pkg k v : Nat) : State := wrN s (kvRefAt s pkg k) 2 v
def setDepth (s : State) (pkg d : Nat) : State := wr64 s (kvBase s pkg) (setBits (rd64 s (kvBase s pkg)) 0 24 d)
def pageAt (s : State) (pkg k : Nat) : Nat := kvPool s pkg + k * kvPageBytes s pkg
/-- Takes a page from the free stack with count 1; code 3 where none is free. -/
def allocPage (s : State) (pkg : Nat) : Except Nat (Nat × State) :=
  let d := kvDepth s pkg
  if d = 0 then .error 3
  else
    let k := rdN s (kvStackAt s pkg (d - 1)) 4
    .ok (k, setRef (setDepth s pkg (d - 1)) pkg k 1)
/-- Counts a page down; at 0 it goes onto the free stack. -/
def downPage (s : State) (pkg k : Nat) : State :=
  if !isPage s pkg k then s
  else
    let r := pageRef s pkg k
    if r ≤ 1 then
      let d := kvDepth s pkg
      setDepth (wrN (setRef s pkg k 0) (kvStackAt s pkg d) 4 k) pkg (d + 1)
    else setRef s pkg k (r - 1)
/-- Counts a page up; code 6 where the count would exceed 0xFFFF. -/
def upPage (s : State) (pkg k : Nat) : Except Nat State :=
  let r := pageRef s pkg k
  if 0xFFFF ≤ r then .error 6 else .ok (setRef s pkg k (r + 1))
/-- Whether a word of a page reads uncorrectable. -/
def pageBad (s : State) (pkg k : Nat) : Bool :=
  (List.range (kvPageBytes s pkg / 32)).any (fun i => (getPkg s pkg).poison.contains (pageAt s pkg k / 32 + i))
/-- Goes through a list, each element changing the state or ending the record with a code. -/
def eachKv {α : Type} (f : α → State → Except Nat State) : List α → State → Except Nat State
  | [], s => .ok s
  | a :: r, s => match f a s with
    | .ok s => eachKv f r s
    | .error c => .error c
/-- The pairs of groups and blocks in ascending group and block order. -/
def groupBlocks (groups : Nat) (blocks : List Nat) : List (Nat × Nat) := (List.range groups).flatMap (fun g => blocks.map (fun b => (g, b)))
/-- Counts the page of a list entry down and sets the entry to none. -/
def dropEntry (k : KvAt) (x : Nat × Nat) (s : State) : State :=
  let e := k.entry s x.1 x.2
  k.setEntry (downPage s k.pkg e) x.1 x.2 noPage
/-- The blocks from `a` up to, and without, `b`. -/
def blocksFrom (a b : Nat) : List Nat := (List.range (b - a)).map (fun i => a + i)

/-! ### The queue (R391) -/

/-- The record at the head of the queue. -/
def kvHead (s : State) (pkg : Nat) : Option KvRec := (getPkg s pkg).kvq.head?
def KvRec.w (r : KvRec) (i : Nat) : W64 := r.d.getD i 0
/-- The operand bits that a record of an operation must leave 0. -/
def KvRec.reservedOk (r : KvRec) : Bool :=
  let z1 (m : W64) : Bool := r.w 1 &&& m == 0
  let z2 (m : W64) : Bool := r.w 2 &&& m == 0
  let adr : W64 := 0xFFF000000000003F
  bits (r.w 0) 52 4 == 0 && bits (r.w 0) 0 6 == 0 && bits (r.w 3) 0 48 == 0 &&
  (if r.op = 2 then z1 0xFFFFFFFFFFFFFF80 && r.w 2 == 0
   else if r.op = 3 then z1 0xFFFFFFFFFFFFFF80
   else if r.op = 4 then z1 adr && r.w 2 == 0
   else if r.op = 6 ∨ r.op = 7 then z1 adr && z2 0xFFFF0000
   else if r.op = 8 then z1 0xFFFFFFFFFFFF0000 && r.w 2 == 0
   else if r.op = 9 then z1 0xFFFFFF00 && z2 0x00FFFF80E0000000
   else r.w 1 == 0 && r.w 2 == 0)
/-- The step of an operation by its number. -/
def kvOpEvent : Nat → Option Instr
  | 1 => some .alloc
  | 2 => some .append
  | 3 => some .commit
  | 4 => some .fork
  | 5 => some .free
  | 6 => some .lookup
  | 7 => some .insert
  | 8 => some .evict
  | 9 => some .stage
  | 10 => some .pageout
  | 11 => some .pagein
  | _ => none
/-- Completion of the head record: results, DONE and CODE, KVERR, its counter (R345, R391). -/
def endKv (s : State) (pkg : Nat) (r : KvRec) (code : Nat) (res : List W64) : State :=
  let s := (res.zipIdx).foldl (fun s x => (writeWord s (r.pa + 40 + 8 * x.2) 8 x.1.toNat).1) s
  let s := (writeWord s (r.pa + 32) 8 (2 ^ 63 + code * 2 ^ 48)).1
  let s := if code = 0 then s else setReg s (ccWin pkg 0x320) (BitVec.ofNat 64 (2 ^ 63 + code * 2 ^ 48 + r.pa / 64 % 2 ^ 40 * 64))
  let s := if bitOf (r.w 3) 63 then raiseCc s (bits (r.w 3) 52 11) (bits (r.w 3) 48 4) 1 else s
  soon (modPkg s pkg (fun p => { p with kvq := p.kvq.tail, kvWait := none, kvSaved := [] })) .heldWriteTaken [pkg, 5]
/-- Sets the head record to work after a time of the environment's; an unassigned operation, and
a record that read uncorrectable, ends at once. -/
def kvNext (pkg : Nat) : Nat → State → State
  | 0, s => s
  | n + 1, s => match kvHead s pkg with
    | none => s
    | some r => match kvOpEvent r.op with
      | none => kvNext pkg n (endKv s pkg r (if r.op = 256 then 5 else 1) [])
      | some ev =>
        let (d, s) := takeDelay s
        schedule s (s.now + 1 + d) ev [pkg]
/-- Ends the head record and sets the next one to work. -/
def kvDone (s : State) (pkg : Nat) (r : KvRec) (code : Nat) (res : List W64) : State :=
  kvNext pkg 65 (endKv s pkg r code res)
/-- The record at a physical address enters the queue; none while it is full. -/
def readKv (s : State) (pkg rcb : Nat) (sys : Bool) (pa : Nat) : Option State :=
  if 64 ≤ (getPkg s pkg).kvq.length then none
  else
    let ok := (List.range 8).all (fun i => readable s (pa + 8 * i))
    let u := (List.range 8).foldl (fun s i => noteRead s (pa + 8 * i)) s
    let d := (List.range 8).map (fun i => dwordAt s (pa + 8 * i))
    let r : KvRec := { op := if ok then bits (d.getD 0 0) 56 8 else 256, part := partOf s rcb, sys := sys, pa := pa, d := d }
    let idle := (getPkg s pkg).kvq == []
    let s := modPkg u pkg (fun p => { p with kvq := p.kvq ++ [r] })
    some (if idle then kvNext pkg 65 s else s)
/-- A write of KVQ by a core (R314, R391, R441). -/
def writeKvq (s : State) (pkg src : Nat) (sys : Bool) (v : W64) : Option State :=
  let s := setReg s (ccWin pkg 0x300) v
  let rcb := if src < 2048 then regionOf s src else 0
  if rcb = 0 then some (dropWrite s pkg rcb 0x05 9 src v)
  else if v.toNat % 64 ≠ 0 then some (dropWrite s pkg rcb 0x03 9 src v)
  else
    let va := bits v 6 46 * 64
    let s := noteWalk s pkg (partOf s rcb) va
    match xlateUnit s pkg (partOf s rcb) va 0 true, xlateUnit s pkg (partOf s rcb) va 1 true with
    | none, _ => some (dropWrite s pkg rcb 0x04 9 src v)
    | some _, none => some (dropWrite s pkg rcb 0x05 9 src v)
    | some _, some pa => readKv s pkg rcb sys pa
/-- A write of KVQP, for the partition that KVPART names. -/
def writeKvqp (s : State) (pkg : Nat) (v : W64) : Option State :=
  readKv (setReg s (ccWin pkg 0x310) v) pkg (bits (getReg s (ccWin pkg 0x308)) 6 40 * 64) true (bits v 6 40 * 64)
/-- `kvq` [pkg, src, value, level]. -/
def execKvq (s : State) : Host.Outcome State Fault Refusal :=
  .next (takeOrHold s (arg s 0 % 4) 5 [0, arg s 1, arg s 2, arg s 3] (fun s => writeKvq s (arg s 0 % 4) (arg s 1) (arg s 3 == 1) (argW s 2)))
/-- `kvqp` [pkg, value]. -/
def execKvqp (s : State) : Host.Outcome State Fault Refusal :=
  .next (takeOrHold s (arg s 0 % 4) 5 [1, 2048, arg s 1, 1] (fun s => writeKvqp s (arg s 0 % 4) (argW s 1)))

/-! ### What every operation checks first (R392, R395) -/

/-- The place of the head record's sequence, once its fields, its descriptor and its list have been checked. -/
def kvGate (s : State) (pkg : Nat) (r : KvRec) : Except Nat KvAt := do
  let k : KvAt := { pkg := pkg, part := r.part, sd := bits (r.w 0) 6 46 * 64 }
  need r.reservedOk 1
  k.range s k.sd 128 3
  need (k.reservedOk s) 1
  need (!k.paged s || r.op == 11) 7
  k.range s (k.ptr s 2) (4 * k.listLen s) 3
  return k
/-- The remap and score arrays of a sequence translate and read well. -/
def arraysOk (s : State) (k : KvAt) : Except Nat Unit := do
  k.range s (k.ptr s 3) (4 * k.maxb s) 3
  k.range s (k.ptr s 4) (4 * k.maxb s) 3
/-- The penalty buffers of a sequence: a committed one `c` is read, the other written. -/
def pensOk (s : State) (k : KvAt) (c : Nat) : Except Nat Unit := do
  k.range s (k.penAt s c) (k.penb s) 1
  need (k.ok s (k.penAt s (c + 1)) (k.penb s) 2) 2
/-- The ranges that a record reaches by virtual address beside its descriptor and its list (Table 18-6). -/
def kvRanges (s : State) (k : KvAt) (r : KvRec) : List (Nat × Nat) :=
  let arrays := [(k.ptr s 3, 4 * k.maxb s), (k.ptr s 4, 4 * k.maxb s)]
  let pens := [(k.penAt s 0, k.penb s), (k.penAt s 1, k.penb s)]
  let at1 := bits (r.w 1) 6 46 * 64
  (k.ptr s 2, 4 * k.listLen s) ::
    (if r.op = 1 ∨ r.op = 3 then pens
     else if r.op = 4 then (at1, 128) :: arrays ++ pens
     else if r.op = 6 then arrays ++ [(at1, 4 * min (bits (r.w 2) 32 32) (2 ^ 20))]
     else if r.op = 7 then arrays ++ [(at1, 64 * min (bits (r.w 2) 32 32 + bits (r.w 2) 0 16) (k.maxb s))]
     else if r.op = 2 ∨ r.op = 8 then arrays else [])
/-- The walks of some ranges, up to the first that does not translate (R336). -/
def KvAt.walks (k : KvAt) : List (Nat × Nat) → State → State
  | [], s => s
  | x :: r, s =>
    let u := if x.2 = 0 then s else (List.range ((x.1 + x.2 - 1) / 4096 + 1 - x.1 / 4096)).foldl (fun s i =>
      noteWalk s k.pkg k.part ((x.1 / 4096 + i) * 4096)) s
    if k.ok s x.1 x.2 0 then k.walks r u else u
/-- What the page manager's translations for a record do beside answering (R336, R438). -/
def kvNoted (s : State) (pkg : Nat) (r : KvRec) : State :=
  let k : KvAt := { pkg := pkg, part := r.part, sd := bits (r.w 0) 6 46 * 64 }
  if !r.reservedOk then s
  else if !k.ok s k.sd 128 0 || !k.reservedOk s || (k.paged s && r.op != 11) then k.walks [(k.sd, 128)] s
  else k.walks ((k.sd, 128) :: kvRanges s k r) s
/-- Performs the head record where it is of an operation and nothing is waited for: its results and its state, or its code. -/
def kvRun (s : State) (pkg op : Nat) (f : KvRec → KvAt → Except Nat (List W64 × State)) : State :=
  match kvHead s pkg, (getPkg s pkg).kvWait with
  | some r, none =>
    if r.op ≠ op then s
    else
      let s := kvNoted s pkg r
      match (kvGate s pkg r).bind (f r) with
      | .ok (res, s) => kvDone s pkg r 0 res
      | .error c => kvDone s pkg r c []
  | _, _ => s

/-! ### ALLOC, APPEND, COMMIT, FREE (Table 18-6) -/

/-- `alloc` [pkg]. -/
def execAlloc (s : State) : Host.Outcome State Fault Refusal :=
  .next (kvRun s (arg s 0 % 4) 1 (fun _ k => do
    pensOk s k 0
    let s := (List.range (k.listLen s)).foldl (fun s i => k.wr s (k.entryAt s i) 4 noPage) s
    let s := k.put (k.put (k.put (k.put (k.put s 0 0 64 0) 1 32 32 0) 7 32 32 0) 6 0 64 0) 10 0 2 0
    return ([], k.copyPen s)))

/-- Makes room in one block of one group: a page where there is none, a copy of a shared one. -/
def appendBlock (k : KvAt) (x : Nat × Nat) (s : State) : Except Nat State :=
  let e := k.entry s x.1 x.2
  if !isPage s k.pkg e then do
    let (p, s) ← allocPage s k.pkg
    return k.setEntry s x.1 x.2 p
  else if 1 < pageRef s k.pkg e then do
    need (!pageBad s k.pkg e) 5
    let (p, s) ← allocPage s k.pkg
    let s := copyDwords (pageAt s k.pkg e) (pageAt s k.pkg p) (kvPageBytes s k.pkg / 8) s
    return k.setEntry (downPage s k.pkg e) x.1 x.2 p
  else .ok s
/-- `append` [pkg]. -/
def execAppend (s : State) : Host.Outcome State Fault Refusal :=
  .next (kvRun s (arg s 0 % 4) 2 (fun r k => do
    let n := bits (r.w 1) 0 7
    let at0 := k.clen s + k.slen s
    need (decide (1 ≤ n) && decide (n ≤ 64) && decide (at0 + n ≤ 16 * k.maxb s)) 4
    arraysOk s k
    let blocks := blocksFrom (at0 / 16) ((at0 + n - 1) / 16 + 1)
    let fresh := blocks.filter (fun b => !isPage s k.pkg (k.entry s 0 b))
    let off := (k.truelen s - k.clen s) / 16
    let s ← eachKv (appendBlock k) (groupBlocks (k.groups s) blocks) s
    let s := fresh.foldl (fun s b => k.setScore (k.setRmap s b (b + off)) b 0) s
    return ([], k.put s 0 0 32 (k.slen s + n))))

/-- `commit` [pkg]. -/
def execCommit (s : State) : Host.Outcome State Fault Refusal :=
  .next (kvRun s (arg s 0 % 4) 3 (fun r k => do
    let n := bits (r.w 1) 0 7
    let c := k.clen s
    let l := k.slen s
    need (decide (n ≤ l)) 4
    pensOk s k (k.psel s + 1)
    let drop := blocksFrom ((c + n + 15) / 16) ((c + l + 15) / 16)
    let s := (groupBlocks (k.groups s) drop).foldl (fun s x => dropEntry k x s) s
    let s := k.put (k.put (k.put s 0 32 32 (c + n)) 1 32 32 (k.truelen s + n)) 6 0 64 (r.w 2).toNat
    let s := k.put (k.put s 0 0 32 0) 10 0 1 (1 - k.psel s)
    return ([], k.copyPen s)))

/-- `free` [pkg]. -/
def execFree (s : State) : Host.Outcome State Fault Refusal :=
  .next (kvRun s (arg s 0 % 4) 5 (fun _ k => do
    let s := (groupBlocks (k.groups s) (List.range (k.maxb s))).foldl (fun s x => dropEntry k x s) s
    return ([], k.put s 0 0 64 0)))

/-! ### FORK (R399) -/

/-- A shared page of the parent's block goes into the child's list. -/
def forkBlock (p c : KvAt) (x : Nat × Nat) (s : State) : Except Nat State := do
  let e := p.entry s x.1 x.2
  let s ← if isPage s p.pkg e then upPage s p.pkg e else .ok s
  return c.setEntry s x.1 x.2 e
/-- `fork` [pkg]. -/
def execFork (s : State) : Host.Outcome State Fault Refusal :=
  .next (kvRun s (arg s 0 % 4) 4 (fun r p => do
    let c : KvAt := { p with sd := bits (r.w 1) 6 46 * 64 }
    c.range s c.sd 128 3
    need (c.reservedOk s) 1
    need (!c.paged s) 7
    need (c.groups s == p.groups s && c.maxb s == p.maxb s) 4
    c.range s (c.ptr s 2) (4 * c.listLen s) 3
    arraysOk s p
    arraysOk s c
    p.range s (p.penAt s (p.psel s)) (p.penb s) 1
    need (c.ok s (c.penAt s 0) (p.penb s) 2 && c.ok s (c.penAt s 1) (p.penb s) 2) 2
    let n := (p.clen s + 15) / 16
    let f := bits (p.dw s 7) 32 32 + 1
    let s := p.put s 7 32 32 f
    let s := (List.range (c.listLen s)).foldl (fun s i => c.wr s (c.entryAt s i) 4 noPage) s
    let s ← eachKv (forkBlock p c) (groupBlocks (p.groups s) (List.range n)) s
    let s := (List.range n).foldl (fun s b => c.setScore (c.setRmap s b (p.rmap s b)) b (p.score s b)) s
    let s := c.put (c.put (c.put s 0 32 32 (p.clen s)) 0 0 32 0) 1 32 32 (p.truelen s)
    let key := p.dw s 5
    let s := c.put s 5 0 64 (bits key 0 32 + Nat.xor (bits key 32 32) (f % 2 ^ 32) * 2 ^ 32)
    let s := c.put (c.put s 6 0 64 (p.dw s 6).toNat) 7 32 32 0
    let from_ := p.penAt s (p.psel s)
    let s := c.copy from_ (c.penAt s 1) (p.penb s / 8) (c.copy from_ (c.penAt s 0) (p.penb s / 8) s)
    return ([], c.put s 10 0 2 0)))

/-! ### The prefix table (R396, R397) -/

def getPx (s : State) (pkg e : Nat) : Prefix := (getPkg s pkg).px.get ⟨false, 0, 0, 0⟩ e
def setPx (s : State) (pkg e : Nat) (x : Prefix) : State := modPkg s pkg (fun p => { p with px := p.px.ins e x })
/-- A dword of PXENT (R396). -/
def pxent (s : State) (pkg e i : Nat) : W64 :=
  let x := getPx s pkg e
  if i = 0 then BitVec.ofNat 64 (b2n x.valid * 2 ^ 63 + x.groups % 256)
  else if i = 1 then x.hash.setWidth 64 else if i = 2 then (x.hash >>> 64).setWidth 64 else BitVec.ofNat 64 x.stamp
/-- The hash chain from a start over blocks of 16 ids. -/
def chainHash (h : List Byte) : List (List Byte) → List (List Byte)
  | [] => []
  | ids :: r =>
    let h' := shake256 (h ++ ids) 16
    h' :: chainHash h' r
/-- The hashes of the first `n` blocks of an id list. -/
def KvAt.hashes (s : State) (k : KvAt) (ids n : Nat) : List (List Byte) :=
  chainHash (k.bytes s (k.sd + 96) 16) ((List.range n).map (fun i => k.bytes s (ids + 64 * i) 64))
/-- The entry that holds a hash. -/
def findPx (s : State) (pkg : Nat) (h : List Byte) : Option Nat :=
  (List.range 64).find? (fun e => (getPx s pkg e).valid && (getPx s pkg e).hash == BitVec.ofNat 128 (leNat h))
/-- Marks an entry used. -/
def stampPx (s : State) (pkg e : Nat) : State :=
  let n := (getPkg s pkg).pxStamp + 1
  setPx (modPkg s pkg (fun p => { p with pxStamp := n })) pkg e { getPx s pkg e with stamp := n }
/-- The entries that the longest cached prefix hits. -/
def hitPx (s : State) (pkg groups : Nat) : List (List Byte) → List Nat
  | [] => []
  | h :: r => match findPx s pkg h with
    | some e => if (getPx s pkg e).groups + 1 = groups then e :: hitPx s pkg groups r else []
    | none => []
/-- `lookup` [pkg]. -/
def execLookup (s : State) : Host.Outcome State Fault Refusal :=
  .next (kvRun s (arg s 0 % 4) 6 (fun r k => do
    let ids := bits (r.w 1) 6 46 * 64
    let n := bits (r.w 2) 32 32
    let chunk := bits (r.w 2) 0 16
    need (k.clen s == 0 && k.slen s == 0 && decide (1 ≤ n) && decide (n ≤ 2 ^ 20) && decide (16 ≤ chunk) && decide (chunk ≤ 4096) &&
      chunk % 16 == 0) 4
    arraysOk s k
    k.range s ids (4 * n) 1
    let hits := hitPx s k.pkg (k.groups s) (k.hashes s ids ((n - 1) / 16))
    let l := hits.length
    need (decide (l ≤ k.maxb s)) 4
    let s ← eachKv (fun (x : Nat × Nat) s => do
      let page := rdN s (kvRecordAt s k.pkg (hits.getD x.2 0) x.1) 4
      let s ← upPage s k.pkg page
      return k.setEntry s x.1 x.2 page) ((List.range l).flatMap (fun b => (List.range (k.groups s)).map (fun g => (g, b)))) s
    let s := (List.range l).foldl (fun s b => k.setScore (k.setRmap s b b) b 0) s
    let s := hits.foldl (fun s e => stampPx s k.pkg e) s
    let s := k.put (k.put s 0 32 32 (16 * l)) 1 32 32 (16 * l)
    return ([BitVec.ofNat 64 l, BitVec.ofNat 64 (n - 16 * l), BitVec.ofNat 64 ((n - 16 * l + chunk - 1) / chunk)], s)))

/-- Takes the pages of a prefix entry out of the counts. -/
def dropPx (s : State) (pkg e : Nat) : State :=
  let x := getPx s pkg e
  if !x.valid then s
  else
    let s := (List.range (x.groups + 1)).foldl (fun s g => downPage s pkg (rdN s (kvRecordAt s pkg e g) 4)) s
    setPx s pkg e { x with valid := false }
/-- The entry for a new hash: the lowest free one, else the one with the oldest stamp. -/
def victimPx (s : State) (pkg : Nat) : Nat :=
  match (List.range 64).find? (fun e => !(getPx s pkg e).valid) with
  | some e => e
  | none => (List.range 64).foldl (fun b e => if (getPx s pkg e).stamp < (getPx s pkg b).stamp then e else b) 0
/-- Enters one block of a sequence under its hash. -/
def insertBlock (k : KvAt) (x : List Byte × Nat) (s : State) : Except Nat State :=
  match findPx s k.pkg x.1 with
  | some e => .ok (stampPx s k.pkg e)
  | none => do
    let e := victimPx s k.pkg
    let s := dropPx s k.pkg e
    let s ← eachKv (fun g s => do
      let page := k.entry s g x.2
      let s ← upPage s k.pkg page
      return wrN s (kvRecordAt s k.pkg e g) 4 page) (List.range (k.groups s)) s
    return stampPx (setPx s k.pkg e ⟨true, k.groups s - 1, BitVec.ofNat 128 (leNat x.1), 0⟩) k.pkg e
/-- `insert` [pkg]. -/
def execInsert (s : State) : Host.Outcome State Fault Refusal :=
  .next (kvRun s (arg s 0 % 4) 7 (fun r k => do
    let ids := bits (r.w 1) 6 46 * 64
    let b0 := bits (r.w 2) 32 32
    let n := bits (r.w 2) 0 16
    need (decide (1 ≤ n) && decide (n ≤ 64) && decide (16 * (b0 + n) ≤ k.clen s) && decide (b0 + n ≤ k.maxb s)) 4
    arraysOk s k
    need ((List.range (b0 + n)).all (fun b => k.rmap s b == b)) 4
    need ((groupBlocks (k.groups s) (blocksFrom b0 (b0 + n))).all (fun x => isPage s k.pkg (k.entry s x.1 x.2))) 4
    k.range s ids (64 * (b0 + n)) 1
    let hs := (k.hashes s ids (b0 + n)).drop b0
    let s ← eachKv (insertBlock k) (hs.zip (blocksFrom b0 (b0 + n))) s
    return ([], s)))

/-! ### EVICT (R398) -/

/-- The rank of an FP32 score: minus 0 is plus 0, NaN above every number. -/
def scoreRank (v : Nat) : Nat :=
  if 0x7F800000 < v % 2 ^ 31 then 2 ^ 40 else if 2 ^ 31 ≤ v then 2 ^ 31 - v % 2 ^ 31 else 2 ^ 31 + v
/-- `evict` [pkg]. -/
def execEvict (s : State) : Host.Outcome State Fault Refusal :=
  .next (kvRun s (arg s 0 % 4) 8 (fun r k => do
    let n := bits (r.w 1) 0 16
    let c := k.clen s
    let sink := bits (k.dw s 1) 16 16
    let win := bits (k.dw s 1) 0 16
    need (k.slen s == 0 && decide (1 ≤ n) && decide (n ≤ 4096)) 4
    arraysOk s k
    let nb := (c + 15) / 16
    let free := (List.range nb).filter (fun b => decide (sink ≤ 16 * b) && decide (16 * (b + 1) + win ≤ c))
    need (decide (n ≤ free.length)) 4
    let out := (sortBy (fun a b => decide (scoreRank (k.score s a) ≤ scoreRank (k.score s b))) free).take n
    let keep := (List.range nb).filter (fun b => !out.contains b)
    let s := (groupBlocks (k.groups s) out).foldl (fun s x => dropEntry k x s) s
    let s := (keep.zipIdx).foldl (fun s x =>
      let s := (List.range (k.groups s)).foldl (fun s g => k.setEntry s g x.2 (k.entry s g x.1)) s
      k.setScore (k.setRmap s x.2 (k.rmap s x.1)) x.2 (k.score s x.1)) s
    let s := (groupBlocks (k.groups s) (blocksFrom keep.length nb)).foldl (fun s x => k.setEntry s x.1 x.2 noPage) s
    return ([], k.put s 0 32 32 (c - 16 * n))))

/-! ### STAGE (R394) -/

/-- The destination of page `i` of a STAGE; one past what a column address can say lies in no slice, as the last one that it can
say does, so that R343 refuses it (R273, R394). -/
def stageDst (dst i page : Nat) : Nat :=
  let a := dst + i * page
  if a < 2 ^ 29 then a else 0x1FFFFF80 + a % 128
/-- A descriptor for one page, submitted to the Dumbwaiter; none while its queue is full. -/
def submitPage (s : State) (pkg part : Nat) (sys : Bool) (col dst page : Nat) : Option State :=
  let a := pageAt s pkg page
  let lines := kvPageBytes s pkg / 128
  let d := [BitVec.ofNat 64 (a % 4096), BitVec.ofNat 64 (col * 2 ^ 32 + dst), BitVec.ofNat 64 (lines - 1), 0, 0, 0, 0, 0]
  enqueueDw s pkg part sys 0 d false true ((List.range (lines * 128 / 4096 + 2)).map (fun i => a / 4096 + i))
/-- `stage` [pkg]: the record's descriptors are submitted, and it ends once all of them have completed. -/
def execStage (s : State) : Host.Outcome State Fault Refusal :=
  let pkg := arg s 0 % 4
  match kvHead s pkg, (getPkg s pkg).kvWait with
  | some r, some (0, 0, c) => .next (kvDone s pkg r c [])
  | some r, none =>
    if r.op ≠ 9 then .next s
    else
      let s := kvNoted s pkg r
      let g := bits (r.w 1) 0 8
      let b0 := bits (r.w 1) 32 32
      let n := bits (r.w 2) 56 8 + 1
      match (do
        let k ← kvGate s pkg r
        need (decide (g < k.groups s) && decide (b0 + n ≤ k.maxb s)) 4
        need ((blocksFrom b0 (b0 + n)).all (fun b => isPage s pkg (k.entry s g b))) 4
        return k : Except Nat KvAt) with
      | .error c => .next (kvDone s pkg r c [])
      | .ok k =>
        let s := modPkg s pkg (fun p => { p with kvWait := some (0, n, 0) })
        let col := bits (r.w 2) 32 7
        .next ((List.range n).foldl (fun s i =>
          let dst := stageDst (bits (r.w 2) 0 29) i (kvPageBytes s pkg)
          let page := k.entry s g (b0 + i)
          takeOrHold s pkg 2 [3, r.part, b2n r.sys, col, dst, page] (fun s => submitPage s pkg r.part r.sys col dst page)) s)
  | _, _ => .next s

/-! ### Flash (R395) -/

/-- Where the next request of the flash ring stands, if the ring is in place. -/
def flashAt (s : State) (pkg : Nat) : Option Nat :=
  let v := getReg s (ccWin pkg 0x380)
  let off := bits v 6 26 * 64
  let n := 2 ^ (4 + bits v 32 4)
  if off < 0x1000000 ∨ 0x100000000 < off + 64 * n then none else some (cohPa pkg (off + 64 * ((getPkg s pkg).flNext % n)))
/-- Posts a request and waits for it: `way` 1 out, 2 in. -/
def postFlash (s : State) (k : KvAt) (a way : Nat) (saved : List Nat) : State :=
  let i := (getPkg s k.pkg).flNext
  let s := wr64 (wr64 s a (BitVec.ofNat 64 way)) (a + 8) (BitVec.ofNat 64 (k.pa s k.sd))
  let s := wr64 (wr64 s (a + 16) (BitVec.ofNat 64 (k.pa s (k.ptr s 2)))) (a + 24) (BitVec.ofNat 64 (k.listLen s))
  let s := wr64 (wr64 (wr64 (wr64 s (a + 32) 0) (a + 40) 0) (a + 48) 0) (a + 56) 0
  raiseInt (modPkg s k.pkg (fun p => { p with flNext := p.flNext + 1, kvWait := some (way, i % 2 ^ 32, 0), kvSaved := saved })) k.pkg 16
/-- Begins a record of the flash: checked, then posted. -/
def beginFlash (s : State) (pkg op : Nat) (f : KvAt → Nat → Except Nat State) : State :=
  match kvHead s pkg, (getPkg s pkg).kvWait with
  | some r, none =>
    if r.op ≠ op then s
    else
      let s := kvNoted s pkg r
      match (kvGate s pkg r).bind (fun k => match flashAt s pkg with
        | some a => f k a
        | none => .error 4) with
      | .ok s => s
      | .error c => kvDone s pkg r c []
  | _, _ => s
/-- `pageout` [pkg]. -/
def execPageout (s : State) : Host.Outcome State Fault Refusal :=
  .next (beginFlash s (arg s 0 % 4) 10 (fun k a => do
    need (k.slen s == 0) 4
    return postFlash s k a 1 []))
/-- `pagein` [pkg]: a page for every entry on flash, then the request. -/
def execPagein (s : State) : Host.Outcome State Fault Refusal :=
  .next (beginFlash s (arg s 0 % 4) 11 (fun k a => do
    need (k.paged s) 4
    let idx := (List.range (k.listLen s)).filter (fun i => k.rd s (k.entryAt s i) 4 == flashPage)
    let s ← eachKv (fun i s => do
      let (p, s) ← allocPage s k.pkg
      return k.wr s (k.entryAt s i) 4 p) idx s
    return postFlash s k a 2 idx))
/-- A write of FLDONE: the status of the request that is waited for completes its record; where its descriptor or its list no longer
translates or reads well, it ends with that code (Table 18-7). DEDUCED: log entry 49. -/
def writeFldone (s : State) (pkg : Nat) (v : W64) : State :=
  let s := setReg s (ccWin pkg 0x388) v
  match kvHead s pkg, (getPkg s pkg).kvWait with
  | some r, some (way, i, _) =>
    if way = 0 ∨ i ≠ bits v 0 32 then s
    else
      let k : KvAt := { pkg := pkg, part := r.part, sd := bits (r.w 0) 6 46 * 64 }
      let good := bits v 32 8 == 0
      let found : Except Nat Unit := do
        k.range s k.sd 128 3
        k.range s (k.ptr s 2) (4 * k.listLen s) 3
      match if good then found else .ok () with
      | .error c => kvDone s pkg r c []
      | .ok _ =>
      if way = 1 then
        if good then
          let s := (List.range (k.listLen s)).foldl (fun s i =>
            let e := k.rd s (k.entryAt s i) 4
            if isPage s pkg e then k.wr (downPage s pkg e) (k.entryAt s i) 4 flashPage else s) s
          kvDone (k.put s 10 1 1 1) pkg r 0 []
        else kvDone s pkg r 5 []
      else if good then kvDone (k.put s 10 1 1 0) pkg r 0 []
      else
        let s := (getPkg s pkg).kvSaved.reverse.foldl (fun s i =>
          if k.ok s (k.entryAt s i) 4 3 then k.wr (downPage s pkg (k.rd s (k.entryAt s i) 4)) (k.entryAt s i) 4 flashPage else s) s
        kvDone s pkg r 5 []
  | _, _ => s
/-- `fldone` [pkg, value]. -/
def execFldone (s : State) : Host.Outcome State Fault Refusal := .next (writeFldone s (arg s 0 % 4) (argW s 1))

end Sys2Proof.Machine
end

