-- ==== Sys2Proof/Machine/Fabric.lean ====
section
/-! DEFINITION. The card fabric: flits of a boundary element, credits, acknowledgements and resends, lane and link failures,
reroutes, and packages out of service (R423 to R427, R433 to R435). -/
namespace Sys2Proof.Machine
open Sys2Proof

def getLink (s : State) (pkg k : Nat) : Link := vget Link.reset (getPkg s pkg).links (k % 4)
def modLink (s : State) (pkg k : Nat) (f : Link → Link) : State :=
  modPkg s pkg (fun p => { p with links := vset p.links (k % 4) (f (vget Link.reset p.links (k % 4))) })
def linkErrReg (pkg k : Nat) : Nat := ccWin pkg (0x508 + 32 * (k % 4))
/-- LINKSTAT and LINKHOLD (Table 20-3). -/
def linkstat (s : State) (pkg k : Nat) : W64 :=
  let l := getLink s pkg k
  if !l.up && !l.rerouted then 0
  else BitVec.ofNat 64 (peerPkg pkg (k % 4) * 2 ^ 60 + k % 2 * 2 ^ 56 + l.width % 16 * 65536 + l.rate % 256 * 256 + b2n l.rerouted * 2 + b2n l.up)
def linkhold (s : State) (pkg k : Nat) : W64 := BitVec.ofNat 64 (getLink s pkg k).held.length
/-- A notice of a unit for no partition; its cause is named by no rule (R433, R441). Log entry 2. -/
def unitNotice (s : State) (pkg unit : Nat) : State :=
  let (v, s) := takeFree s
  faultLog s 0 pkg (v.toNat % 256) unit 0x7FF 0 0

/-! ### Sending (R425) -/

/-- The channel whose turn it is, of those whose first flit has reached the element: 2 before the others, then 1 and 0 in turn. -/
def Link.pickVc (l : Link) (now : Nat) : Option Nat :=
  let can (v : Nat) : Bool := (vget [] l.vcq v).head?.any (fun f => decide (f.since ≤ now)) && vget 0 l.credits v != 0
  if can 2 then some 2
  else if can 0 && (decide (1 ≤ l.sinceVc0) || !can 1) then some 0
  else if can 1 then some 1 else none
/-- The time that a message has spent since its flits reached a boundary element is its wait there; an active message carries it
(R25). DEDUCED: the cycles on the link count with it. Log entry 71. -/
def waitAtElement (s : State) (f : Flit) : State :=
  match f.deliver with
  | some (.amsendArrival, id :: _) => addWait s id (s.now - f.since)
  | _ => s
/-- A flit goes onto the wire towards the peer. -/
def launchFlit (s : State) (pkg k : Nat) : State :=
  arrive s (2 ^ 28 + 4 * pkg + k) .flitReceive [peerPkg pkg k, peerElem k, 1]
/-- `flitSend` [pkg, elem]. -/
def execFlitSend (s : State) : Host.Outcome State Fault Refusal :=
  let pkg := arg s 0 % 4
  let k := arg s 1 % 4
  let l := getLink s pkg k
  match if l.up then l.pickVc s.now else none with
  | none => .next s
  | some v =>
    match vget [] l.vcq v with
    | [] => .next s
    | f :: r =>
      let f := { f with lseq := l.next }
      let s := modLink s pkg k (fun l => { l with
        vcq := vset l.vcq v r, credits := vset l.credits v (vget 0 l.credits v - 1), next := (l.next + 1) % 65536,
        sinceVc0 := if v = 0 then 0 else if v = 1 then l.sinceVc0 + 1 else l.sinceVc0, held := l.held ++ [f], wire := l.wire ++ [f] })
      .next (scheduleOnce (launchFlit s pkg k) (s.now + 1) .flitSend [pkg, k])

/-! ### Receiving (R423, R424, R426) -/

/-- Whether a flit is malformed: a reserved TYPE or VC 3 (R424). -/
def Flit.malformed (f : Flit) : Bool := f.typ == 0 || decide (8 ≤ f.typ) || decide (3 ≤ f.vc)
/-- Passes the flits of a whole message on, in the direction in which they came, across the mesh to the other element; where the
links of that direction are lost, they turn back and go the other way round (R423, R433, R442). -/
def passOn (s : State) (pkg elem : Nat) (fs : List Flit) : State :=
  match fs with
  | [] => s
  | f :: _ =>
    let pair := if elem < 2 then 2 else 0
    let k := pair + (f.src + f.dst) % 2
    let k' := elemInstead s pkg k
    let s := fs.foldl waitAtElement s
    let fs := fs.map (fun f => { f with since := s.now + throughCycles elem k' })
    if (getLink s pkg k).rerouting then modLink s pkg k (fun l => { l with waiting := l.waiting ++ fs })
    else if linkOn s pkg k' then enqueueFlits s pkg k' f.vc fs else s
/-- A good flit enters the package: its message crosses the mesh to its home with its last flit, or is passed on (R442). -/
def takeFlit (s : State) (pkg elem : Nat) (f : Flit) : State :=
  if f.dstPkg = pkg then
    match f.deliver with
    | some (ev, args) =>
      arriveIn (waitAtElement s f) (crossCycles f.dstHome elem) (2 ^ 40 + (4 * pkg + elem) * 8192 + f.dstHome) ev args
    | none => s
  else
    let fs := vget [] (getLink s pkg elem).partials f.vc ++ [f]
    if f.len = 0 then passOn (modLink s pkg elem (fun l => { l with partials := vset l.partials f.vc [] })) pkg elem fs
    else modLink s pkg elem (fun l => { l with partials := vset l.partials f.vc fs })
/-- `flitReceive` [pkg, elem, good]: the next flit on the wire is taken, or discarded and sent again; a flit acknowledged before
is discarded. `good` is 0 for a link error, else 1 more than the UCIe retries that the flit took, which LINKERR counts (R427). -/
def execFlitReceive (s : State) : Host.Outcome State Fault Refusal :=
  let pkg := arg s 0 % 4
  let elem := arg s 1 % 4
  let sp := peerPkg pkg elem
  let se := peerElem elem
  let l := getLink s sp se
  match l.wire with
  | [] => .next s
  | f :: r =>
    if arg s 2 = 0 || f.malformed then
      let s := setReg s (linkErrReg pkg elem) (satAdd16 (getReg s (linkErrReg pkg elem)) 0 1)
      let s := setReg s (linkErrReg sp se) (satAdd16 (getReg s (linkErrReg sp se)) 16 1)
      let s := modLink s sp se (fun l => { l with resends := l.resends + 1 })
      if 16 ≤ l.resends + 1 then .next (soon s .linkLost [sp, se]) else .next (launchFlit s sp se)
    else
      let s := modLink s sp se (fun l => { l with wire := r })
      let s := if arg s 2 = 1 then s else setReg s (linkErrReg pkg elem) (satAdd16 (getReg s (linkErrReg pkg elem)) 32 (arg s 2 - 1))
      if f.lseq ≠ (getLink s pkg elem).expect then .next s
      else
        let s := modLink s pkg elem (fun l => { l with expect := (l.expect + 1) % 65536 })
        .next (takeFlit (arrive s (2 ^ 28 + 64 + 4 * pkg + elem) .flitAcknowledgement [sp, se, f.lseq]) pkg elem f)
/-- `flitAcknowledgement` [pkg, elem, lseq]: the flits up to it are let go and their credits return. -/
def execFlitAcknowledgement (s : State) : Host.Outcome State Fault Refusal :=
  let pkg := arg s 0 % 4
  let k := arg s 1 % 4
  let l := getLink s pkg k
  if !l.held.any (fun f => f.lseq == arg s 2) then .next s
  else
    let gone := l.held.takeWhile (fun f => f.lseq != arg s 2)
    let rest := l.held.drop (gone.length + 1)
    let freed := l.held.take (gone.length + 1)
    .next (soon (modLink s pkg k (fun l => { l with
      held := rest, resends := 0,
      credits := Vector.ofFn (fun i => vget 0 l.credits i.val + (freed.filter (fun f => f.vc == i.val)).length) })) .flitSend [pkg, k])

/-! ### Link faults (R433, R434) -/

/-- `laneFailure` [pkg, elem]: the module degrades to x8 at both ends. -/
def execLaneFailure (s : State) : Host.Outcome State Fault Refusal :=
  let pkg := arg s 0 % 4
  let k := arg s 1 % 4
  if !(getLink s pkg k).up then .next s
  else
    let s := modLink s pkg k (fun l => { l with width := 1 })
    let s := modLink s (peerPkg pkg k) (peerElem k) (fun l => { l with width := 1 })
    .next (unitNotice s pkg 8)
/-- One end of a lost link: it stops, and what it held goes, in order, to the element that replaces it. -/
def endLink (s : State) (pkg k expect : Nat) : State :=
  let l := getLink s pkg k
  let again := l.held.filter (fun f => decide ((f.lseq + 65536 - expect) % 65536 < 32768))
  let s := modLink s pkg k (fun l => { l with
    up := false, rerouted := true, width := 0, vcq := Vector.replicate 3 [], credits := Vector.replicate 3 16, held := [], wire := [],
    rerouting := true, partials := Vector.replicate 3 [] })
  let k' := elemInstead s pkg k
  let s := if linkOn s pkg k' then
      [0, 1, 2].foldl (fun s v =>
        let fs := again.filter (fun f => f.vc == v) ++ vget [] l.vcq v
        if fs = [] then s else enqueueFlits s pkg k' v fs) s
    else s
  let (d, s) := takeDelay s
  schedule s (s.now + 1 + d) .rerouteComplete [pkg, k]
/-- Whether a pair of links from a package to the next one is lost. -/
def pairLost (s : State) (n : Nat) : Bool := !linkOn s (n % 4) 0 && !linkOn s (n % 4) 1
/-- The packages that package 0 reaches over pairs that are not lost. -/
def reached (s : State) : List Nat :=
  let up := (List.range 4).takeWhile (fun i => (List.range i).all (fun j => !pairLost s j))
  let down := (List.range 4).filter (fun i => i == 0 || (List.range (4 - i)).all (fun j => !pairLost s (i + j)))
  (List.range 4).filter (fun i => up.contains i || down.contains i)
/-- `linkLost` [pkg, elem]: the loss of the link, of both links of its pair and of a second pair are three events of Table 20-7,
with an entry each. DEDUCED, log entry 51. -/
def execLinkLost (s : State) : Host.Outcome State Fault Refusal :=
  let pkg := arg s 0 % 4
  let k := arg s 1 % 4
  let q := peerPkg pkg k
  let j := peerElem k
  if !(getLink s pkg k).up then .next s
  else
    let e1 := (getLink s q j).expect
    let e2 := (getLink s pkg k).expect
    let s := endLink (endLink s pkg k e1) q j e2
    let s := unitNotice s pkg 8
    let a := if k < 2 then pkg else q
    let s := if pairLost s a then unitNotice s pkg 8 else s
    let s := if pairLost s a && [1, 2, 3].any (fun i => pairLost s (a + i)) then unitNotice s pkg 8 else s
    let cut := (List.range 4).filter (fun n => !(reached s).contains n && (getPkg s n).inService)
    .next (cut.foldl (fun s n => soon s .packageOutOfService [n]) s)
/-- `rerouteComplete` [pkg, elem]: messages held at their source are released (R434). -/
def execRerouteComplete (s : State) : Host.Outcome State Fault Refusal :=
  let pkg := arg s 0 % 4
  let k := arg s 1 % 4
  let l := getLink s pkg k
  let s := modLink s pkg k (fun l => { l with rerouting := false, waiting := [] })
  let k' := elemInstead s pkg k
  .next (if linkOn s pkg k' then
      [0, 1, 2].foldl (fun s v =>
        let fs := l.waiting.filter (fun f => f.vc == v)
        if fs = [] then s else enqueueFlits s pkg k' v fs) s
    else s)

/-! ### Packages out of service (R387, R435) -/

/-- The accesses of other packages to a package's homes come to their end: a load, a store or an atomic is refused, a message
bounces, and a request of a corridor or a barrier finds it broken. -/
def refuseFlights (s : State) (pkg : Nat) : State :=
  let l := s.flights.filter (fun p => pkgOfHome p.2.home == pkg && pkgOfCore p.2.core != pkg)
  let ids := l.map (fun p => p.1)
  let s := { s with agenda := s.agenda.filter (fun p => !(p.2.2.length == 1 && ids.contains (p.2.2.headD 0) &&
    (p.2.1 == .accessAtHome || p.2.1 == .amoStep || p.2.1 == .amsendArrival || p.2.1 == .reservationAtHome || p.2.1 == .commitAtHome ||
     p.2.1 == .releaseAtHome || p.2.1 == .barrierArrival || p.2.1 == .barrierExpect || p.2.1 == .accessReply || p.2.1 == .amsendReply))) }
  l.foldl (fun s p =>
    let f := p.2
    match f.kind with
    | .amsend =>
      let s := if f.performed then s else perform s p.1 0 (some (0x0B, 7, BitVec.ofNat 64 (3 * 2 ^ 62 + bits f.b 0 30)))
      schedule s (s.now + 1) .amsendReply [p.1]
    | .load => schedule (perform s p.1 0 (some (0x05, 0, f.va))) (s.now + 1) .accessReply [p.1]
    | .store => schedule (perform s p.1 0 (some (0x05, 0, f.va))) (s.now + 1) .accessReply [p.1]
    | .amo _ => schedule (perform s p.1 0 (some (0x05, 0, f.va))) (s.now + 1) .accessReply [p.1]
    | k => schedule s (s.now + 1) (if f.performed then .accessReply else arrivalOf k) [p.1]) s
/-- Breaks every barrier of a package, and the trees that have a node there (R431, R435). -/
def breakTrees (s : State) (pkg : Nat) : State :=
  (List.range 4).foldl (fun s n =>
    ((getPkg s n).bars.filter (fun b => b.2.exp != 0 && (n == pkg || (b.2.parent.any (fun x => x.1 == pkg)) ||
      b.2.children.any (fun x => x.1 == pkg)))).foldl (fun s b => breakBar s n b.1 none) s) s
/-- The other packages treat a package's homes and units as out of service; flits held for it carry nothing any more (R435). -/
def outOfService (s : State) (pkg : Nat) : State :=
  let s := modPkg s pkg (fun p => { p with inService := false })
  let s := breakTrees s pkg
  let s := { s with corrs := s.corrs.map (fun c => if pkgOfCore c.2.home = pkg then (c.1, { c.2 with broken := true }) else c) }
  let dead (f : Flit) : Bool := f.dstPkg == pkg
  let drop (f : Flit) : Flit := if dead f then { f with deliver := none } else f
  let s := (List.range 16).foldl (fun s i => modLink s (i / 4) (i % 4) (fun l => { l with
    held := l.held.map drop, wire := l.wire.map drop, vcq := l.vcq.map (fun q => q.filter (fun f => !dead f)), waiting := l.waiting.filter (fun f => !dead f),
    partials := l.partials.map (fun q => q.filter (fun f => !dead f)) })) s
  let s := refuseFlights s pkg
  let roots := s.parts.filter (fun p => p.parent == 0 && (regionCols p).any (fun c => pkgOfCol c == pkg))
  roots.foldl (fun s p => endPart s p.rcb true) s
/-- `packageOutOfService` [pkg]. -/
def execPackageOutOfService (s : State) : Host.Outcome State Fault Refusal := .next (outOfService s (arg s 0 % 4))

end Sys2Proof.Machine
end

