-- ==== Sys2Proof/Machine/Translation.lean ====
section
/-! DEFINITION. The translation unit's page walks and invalidations (R333 to R339). -/
namespace Sys2Proof.Machine
open Sys2Proof

/-! ### Walks (R336, R338) -/

/-- Starts the oldest queued walk where fewer than 8 run. -/
def nextWalk (s : State) (pkg : Nat) : State :=
  let ws := (getPkg s pkg).walks
  if 8 ≤ (ws.filter (fun w => w.running)).length then s
  else match ws.find? (fun w => !w.running && !w.failed) with
    | none => s
    | some w =>
      let (d, s) := takeDelay s
      let s := modPkg s pkg (fun p => { p with walks := p.walks.map (fun x => if x.id = w.id then { x with running := true } else x) })
      schedule s (s.now + 1 + d) .pageWalkComplete [pkg, w.id]
/-- `pageWalkComplete` [pkg, walk]: a walk reads its entries and ends; its leaf is cached for the die, or it has failed for
every requester (R336, R338). The die caches the 1,024 latest translations. -/
def execPageWalkComplete (s : State) : Host.Outcome State Fault Refusal :=
  let pkg := arg s 0 % 4
  match (getPkg s pkg).walks.find? (fun w => w.id == arg s 1 && w.running) with
  | none => .next s
  | some w =>
    let res := match ptRoot s pkg w.part with
      | some root => walkFrom s w.va 4 3 root
      | none => .bad
    let s := match ptRoot s pkg w.part with
      | some root => walkNotes s pkg w.va root
      | none => s
    let fail (s : State) : State := modPkg s pkg (fun p => { p with
      walks := (p.walks.map (fun x => if x.id = w.id then { x with running := false, failed := true } else x)).filter
        (fun x => !x.failed || x.served != []) })
    let s := match res with
      | .leaf base size perms =>
        let e : Tlb := { core := 2048, part := w.part, vbase := w.va / size * size, pbase := base, len := size, perms := perms }
        modPkg s pkg (fun p => { p with
          walks := p.walks.filter (fun x => x.id != w.id),
          tlb := p.tlb.filter (fun x => x.core != 2048) ++ e :: (p.tlb.filter (fun x => x.core == 2048)).take 1023 })
      | _ => fail s
    .next (nextWalk s pkg)

/-! ### Invalidations (R339) -/

/-- Drops the cached translations and the walks in scope; the invalidation ends some cycles later. -/
def invalidate (s : State) (pkg : Nat) (hit : Nat → Nat → Nat → Bool) : State :=
  let s := modPkg s pkg (fun p => { p with
    invals := p.invals + 1, tlb := p.tlb.filter (fun e => !hit e.part e.vbase e.len),
    walks := p.walks.filter (fun w => !hit w.part w.va 4096) })
  let (d, s) := takeDelay s
  nextWalk (schedule s (s.now + 1 + d) .invalidationComplete [pkg]) pkg
/-- XINVPART of a package. -/
def xinvPart (s : State) (pkg : Nat) : Nat := bits (getReg s (dieWin pkg uTrans 0x900)) 6 40 * 64
/-- `invalidatePage` [pkg, va]: the cached page that holds VA (R339). -/
def execInvalidatePage (s : State) : Host.Outcome State Fault Refusal :=
  let pkg := arg s 0 % 4
  let part := xinvPart s pkg
  let va := arg s 1 / 4096 * 4096
  .next (invalidate s pkg (fun q b n => q == part && decide (b ≤ va) && decide (va < b + n)))
/-- `invalidatePartition` [pkg]. -/
def execInvalidatePartition (s : State) : Host.Outcome State Fault Refusal :=
  let pkg := arg s 0 % 4
  let part := xinvPart s pkg
  .next (invalidate s pkg (fun q _ _ => q == part))
/-- `invalidateAll` [pkg]. -/
def execInvalidateAll (s : State) : Host.Outcome State Fault Refusal := .next (invalidate s (arg s 0 % 4) (fun _ _ _ => true))
/-- `invalidationComplete` [pkg]: BUSY returns to 0 once every invalidation has ended. -/
def execInvalidationComplete (s : State) : Host.Outcome State Fault Refusal :=
  .next (modPkg s (arg s 0 % 4) (fun p => { p with invals := p.invals - 1 }))
/-- A write of XINV (Table 15-6). -/
def writeXinv (s : State) (pkg : Nat) (v : W64) : State :=
  let s := setReg s (dieWin pkg uTrans 0x908) v
  match bits v 0 2 with
  | 0 => soon s .invalidatePage [pkg, bits v 12 40 * 4096]
  | 1 => soon s .invalidatePartition [pkg]
  | 2 => soon s .invalidateAll [pkg]
  | _ => s

/-! ### Range entries (R334) -/

/-- The bits of a range entry's dwords that a write changes (Table 15-3). -/
def rangeMask (i : Nat) : W64 :=
  if i = 0 then 0xFFFFFFFFFF000 else if i = 1 then 0x3FFFFFFFF000 else if i = 2 then 0xFFFFFFFFFF else 0x3FFFFFFFFFFE
/-- What a valid range entry covers: its partition, its base and its length. -/
def rangeOf (s : State) (pkg r : Nat) : Option (Nat × Nat × Nat) :=
  let reg (i : Nat) := getReg s (dieWin pkg uTrans (32 * r + 8 * i))
  if bitOf (reg 3) 5 then some (bits (reg 3) 6 40 * 64, bits (reg 0) 12 40 * 4096, 4096 * (bits (reg 2) 0 40 + 1)) else none
/-- A write of a range entry's dword: the cached translations it overlaps, as it was and as it is, are invalidated. -/
def writeRange (s : State) (pkg i : Nat) (v : W64) : State :=
  let r := i / 4 % 64
  let old := rangeOf s pkg r
  let s := setReg s (dieWin pkg uTrans (8 * (i % 256))) (v &&& rangeMask (i % 4))
  let new := rangeOf s pkg r
  let meets (e : Option (Nat × Nat × Nat)) (q b n : Nat) : Bool := match e with
    | some (part, base, len) => q == part && decide (b < base + len) && decide (base < b + n)
    | none => false
  invalidate s pkg (fun q b n => meets old q b n || meets new q b n)
/-- `rangeWrite` [pkg, dword, value]. -/
def execRangeWrite (s : State) : Host.Outcome State Fault Refusal := .next (writeRange s (arg s 0 % 4) (arg s 1) (argW s 2))
/-- XSTAT (Table 15-6). -/
def xstat (s : State) (pkg : Nat) : W64 :=
  let p := getPkg s pkg
  BitVec.ofNat 64 ((p.walks.filter (fun w => !w.running && !w.failed)).length * 2 ^ 32 +
    (p.walks.filter (fun w => w.running)).length * 256 + b2n (p.invals != 0))

end Sys2Proof.Machine
end

