-- ==== Sys2Proof/Machine/Trust.lean ====
section
/-! DEFINITION. Key slots, firmware checks and attestation, the commands of the management interface, starts and wakes, part
losses and map-out, Dormant, throttling, and board test (R285, R286, R400 to R402, R405 to R420). -/
namespace Sys2Proof.Machine
open Sys2Proof

/-! ### Key slots (R400 to R402) -/

def ksloadReg (pkg : Nat) : Nat := dwWin pkg 0x80
def ksstatReg (pkg : Nat) : Nat := dwWin pkg 0x88
def ksownReg (pkg k : Nat) : Nat := dwWin pkg (0x100 + 16 * k)
/-- Whether a running descriptor uses a key slot. -/
def keyInUse (s : State) (pkg k : Nat) : Bool :=
  (getPkg s pkg).dwq.any (fun e => e.running.isSome && e.gcm && e.code == 0 && e.slotNo == k)
def clearKey (s : State) (pkg k : Nat) : State := modPkg s pkg (fun p => { p with keys := p.keys.ins k ⟨0, false⟩ })
/-- KSSTAT and KSOWN as they read. -/
def ksstat (s : State) (pkg : Nat) : W64 :=
  let p := getPkg s pkg
  setBits (getReg s (ksstatReg pkg)) 63 1 (b2n (p.keyBusy.isSome || p.keyHeld != []))
def ksown (s : State) (pkg k : Nat) : W64 := setBits (getReg s (ksownReg pkg k)) 0 1 (b2n (keySlot s pkg k).loaded)
/-- The key-encryption key of a package, derived from its fused secret (R409). Log entry 15. -/
def kek (pkg : Nat) : List Byte := shake256 (leBytes 32 (Config.fusedSecret pkg).toNat ++ Config.kekLabel) 32
/-- `ksload` [pkg, value]: held while a running descriptor uses the slot, or another load is under way. -/
def execKsload (s : State) : Host.Outcome State Fault Refusal :=
  let pkg := arg s 0 % 4
  let v := argW s 1
  if keyInUse s pkg (bits v 0 6) || (getPkg s pkg).keyBusy.isSome then
    .next (modPkg s pkg (fun p => { p with keyHeld := p.keyHeld ++ [(64, v)] }))
  else
    let s := modPkg (setReg s (ksloadReg pkg) v) pkg (fun p => { p with keyBusy := some v })
    let (d, s) := takeDelay s
    .next (schedule s (s.now + 1 + d) .keyBlobUnwrap [pkg])
/-- `keyBlobUnwrap` [pkg] (R401). -/
def execKeyBlobUnwrap (s : State) : Host.Outcome State Fault Refusal :=
  let pkg := arg s 0 % 4
  match (getPkg s pkg).keyBusy with
  | none => .next s
  | some v =>
    let k := bits v 0 6
    let pa := bits v 6 40 * 64
    let inWindow := match placeOf pa with
      | .cc p off => p == pkg && decide (0x1000000 ≤ off)
      | _ => false
    let ok := inWindow && (List.range 8).all (fun i => readable s (pa + 8 * i))
    let blob := (List.range 64).map (fun i => memByte s (backing (pa + i)))
    let aad := blob.drop 60
    let (plain, good) := gcmOpen (kek pkg) (blob.take 12) aad ((blob.drop 12).take 32) ((blob.drop 44).take 16)
    let s := modPkg s pkg (fun p => { p with keyBusy := none })
    let res (r : Nat) (s : State) : State := setReg s (ksstatReg pkg) (BitVec.ofNat 64 (k * 256 + r))
    let s := if !ok then res 2 (clearKey s pkg k)
      else if good && leNat aad == k then
        res 0 (modPkg s pkg (fun p => { p with keys := p.keys.ins k ⟨BitVec.ofNat 256 (leNat plain), true⟩ }))
      else res 1 (clearKey s pkg k)
    .next (retryKeys s pkg)
/-- `ksown` [pkg, key, value]: a write sets the owner and clears the key. -/
def execKsown (s : State) : Host.Outcome State Fault Refusal :=
  let pkg := arg s 0 % 4
  let k := arg s 1 % 64
  if keyInUse s pkg k then .next (modPkg s pkg (fun p => { p with keyHeld := p.keyHeld ++ [(k, argW s 2)] }))
  else .next (clearKey (setReg s (ksownReg pkg k) (argW s 2 &&& 0x3FFFFFFFFFC0)) pkg k)

/-! ### Firmware and identity (R405, R407) -/

/-- The bytes of a number of 64 bits. -/
def le8 (v : W64) : List Byte := leBytes 8 v.toNat
/-- The identity key's 57-byte secret (R407). -/
def identKey (pkg : Nat) : List Byte :=
  shake256 (leBytes 32 (Config.fusedSecret pkg).toNat ++ [0x49, 0x44, 0x45, 0x4E, 0x54]) 57
/-- Whether the boot ROM accepts a firmware image at an address (R405). -/
def imageOk (s : State) (pkg pa : Nat) : Bool :=
  let h := rdBytes s (backing pa) 256
  let body := rdBytes s (backing (pa + 256)) (leNat ((h.drop 16).take 8))
  let pub := (h.drop 24).take 57
  leNat (h.take 8) == 0x524548574F4D4C4C && leNat (shake256 pub 32) == Config.vendorRootHash.toNat &&
  decide ((getPkg s pkg).minver.toNat ≤ leNat ((h.drop 8).take 8)) && (h.drop 195).all (fun b => b == 0) &&
  edVerify pub (h.take 81 ++ h.drop 195 ++ body) ((h.drop 81).take 114)
/-- The report over a nonce, with its signature (R407). -/
def attestation (s : State) (pkg : Nat) (nonce : List Byte) : List Byte :=
  let p := getPkg s pkg
  let hashes := (List.range 8).flatMap (fun i => leBytes 32 (p.trusted.getD i 0).toNat)
  let m := nonce ++ (p.measure ++ List.replicate 64 0).take 64 ++ le8 p.version ++ le8 p.minver ++ hashes
  m ++ edSign (identKey pkg) m

/-! ### Commands (R413, Table 19-5) -/

/-- An answer that no rule gives: a free value. Log entry 2. -/
def openAnswer (s : State) (pkg : Nat) : State :=
  let (v, s) := takeFree s
  answer s pkg v
/-- `status` [pkg]: a package that has stopped for a restart counts as running. -/
def execStatus (s : State) : Host.Outcome State Fault Refusal :=
  let pkg := arg s 0 % 4
  let p := getPkg s pkg
  let st := match p.st with
    | .porch => 1
    | .dormant => 3
    | _ => 2
  .next (answer s pkg (BitVec.ofNat 64 (st * 2 ^ 56 + p.failStep % 256 * 256 + p.failCode % 256)))
/-- `selftest` [pkg]: 32 dwords. -/
def execSelftest (s : State) : Host.Outcome State Fault Refusal :=
  let pkg := arg s 0 % 4
  .next ((List.range 32).foldl (fun s i => answer s pkg (Config.selfTestWord pkg i)) s)
/-- `log` [pkg, entry]: the entry's four dwords, then the kept ATTLOG values. -/
def execLog (s : State) : Host.Outcome State Fault Refusal :=
  let pkg := arg s 0 % 4
  let base := getReg s (ccWin pkg 0x040)
  let a := cohPa pkg (bits base 5 27 * 32 + 32 * (arg s 1 % 2 ^ (bits base 0 4 + 6)))
  let l := (List.range 4).map (fun i => rd64 s (a + 8 * i)) ++ (getPkg s pkg).keptLogs
  .next (l.foldl (fun s v => answer s pkg v) s)
/-- `attest` [pkg, addr]: the report goes to the coherent memory after the nonce. -/
def execAttest (s : State) : Host.Outcome State Fault Refusal :=
  let pkg := arg s 0 % 4
  let a := arg s 1
  let off := a - ccWin pkg 0
  let s := if ccWin pkg 0x1000000 ≤ a ∧ off + 514 ≤ 2 ^ 32 then
      wrBytes s (cohPa pkg (off + 32)) (attestation s pkg (rdBytes s (cohPa pkg off) 32)) else s
  .next (openAnswer s pkg)
/-- `recover` [pkg, addr]: an image the ROM would accept becomes the firmware, and a cold start follows. -/
def execRecover (s : State) : Host.Outcome State Fault Refusal :=
  let pkg := arg s 0 % 4
  let s := openAnswer s pkg
  if imageOk s pkg (arg s 1) then
    let h := rdBytes s (backing (arg s 1)) 256
    let n := leNat ((h.drop 16).take 8)
    let img := h ++ rdBytes s (backing (arg s 1 + 256)) n
    let s := modPkg s pkg (fun p => { p with version := BitVec.ofNat 64 (leNat ((h.drop 8).take 8)), measure := shake256 img 64 })
    let (f, s) := takeDelay s
    let (c, s) := takeDelay s
    .next (schedule s (s.now + 1) .coldStart [pkg, f, c])
  else .next s
/-- `minver` [pkg]: MINVER rises to the running VERSION, and never falls. -/
def execMinver (s : State) : Host.Outcome State Fault Refusal :=
  let pkg := arg s 0 % 4
  .next (openAnswer (modPkg s pkg (fun p => { p with minver := if p.minver.toNat < p.version.toNat then p.version else p.minver })) pkg)
/-- `unknownCommand` [pkg, value]. -/
def execUnknownCommand (s : State) : Host.Outcome State Fault Refusal := .next (answer s (arg s 0 % 4) 0xFFFFFFFFFFFFFFFF)

/-! ### What a start clears (R409, R412) -/

/-- Whether a physical address is of a package's memories. -/
def ofPkg (pkg pa : Nat) : Bool := placeOf pa != .none && pkgOfPlace (placeOf pa) == pkg
/-- The cores, columns and messages of a package go, with the launches it had taken in and its partitions (R387). -/
def clearDies (s : State) (pkg : Nat) : State :=
  let s := outOfService s pkg
  let mine := s.parts.filter (fun p => p.launchPkg == pkg)
  let s := { s with parts := s.parts.filter (fun p => p.launchPkg != pkg || p.originYX.isSome) }
  let s := (List.range 4).foldl (fun s n => if (getPort s pkg n).part.any (fun r => mine.any (fun p => p.rcb == r)) then dropPort s pkg n else s) s
  { s with
    slots := s.slots.filter (fun e => pkgOfCore (e.1 / 8) != pkg), cores := s.cores.filter (fun e => pkgOfCore e.1 != pkg),
    cols := s.cols.filter (fun e => pkgOfCol e.1 != pkg), flights := s.flights.filter (fun e => pkgOfCore e.2.core != pkg),
    corrs := s.corrs.filter (fun e => pkgOfCore e.2.home != pkg) }
/-- Window registers of a package at their cold-start values; a warm start keeps the control-complex window. -/
def clearRegs (s : State) (pkg : Nat) (cold : Bool) : State :=
  let keep (pa : Nat) : Bool := match placeOf pa with
    | .coreReg c _ => pkgOfCore c != pkg
    | .unit p u off => p != pkg || (!cold && (u == uGddr || u == uDw && decide (off < 0x80)))
    | .cc p _ => p != pkg || !cold
    | _ => true
  { s with wregs := s.wregs.filter (fun e => keep e.1) }
/-- The die's units of a package after a start: no record, no cached translation, no barrier, no key. -/
def clearUnits (s : State) (pkg : Nat) : State :=
  modPkg s pkg (fun p => { p with
    dep := [], heldDone := [], heldWrites := [], tlb := [], walks := [], invals := 0, bars := [], keys := [], keyHeld := [],
    keyBusy := none })
/-- A package's links come up, retrained, with nothing held and no flit older than the rejoin, at both ends (R409, R435). -/
def trainLinks (s : State) (pkg : Nat) : State :=
  let fresh (l : Link) : Link := { Link.reset with width := 2, rate := 32, up := true, waiting := l.waiting }
  (List.range 4).foldl (fun s k =>
    let s := modLink (modLink s pkg k fresh) (peerPkg pkg k) (peerElem k) fresh
    soon (soon s .rerouteComplete [pkg, k]) .rerouteComplete [peerPkg pkg k, peerElem k]) s
/-- The package stays on the Porch: it counts as out of service, and answers commands (R413). -/
def toPorch (s : State) (pkg step code : Nat) : State :=
  outOfService (modPkg s pkg (fun p => { p with st := .porch, failStep := step, failCode := code })) pkg
/-- Whether a start's step fails: 1 to 7 lead to the Porch (R409). -/
def startFails (s : State) : Bool := decide (1 ≤ arg s 1) && decide (arg s 1 ≤ 7)

/-! ### Map-out (R286) -/

/-- Words of a range of a slice hold no data: a reader finds them poisoned until they are loaded again. -/
def loseSlice (s : State) (core lo hi : Nat) : State :=
  let a := slicePa core lo / 8
  let n := (hi - lo) / 8
  let below := s.syn.takeWhile (fun e => decide (e.1 < a))
  let above := (s.syn.drop below.length).dropWhile (fun e => decide (e.1 < a + n))
  { s with syn := below ++ (List.range n).map (fun i => (a + i, (0xFF : Byte))) ++ above }
/-- A core and its slice go out of service, a column fault where a partition has the column (R271). -/
def coreOut (s : State) (core : Nat) : State :=
  let r := ccWin (pkgOfCore core) (0x200 + 8 * (core % 512 / 64))
  soon (setReg s r (setBits (getReg s r) (core % 64) 1 0)) .columnFault [colOfCore core]
/-- ATTCAP of every core of a package: its slice as the layers in service make it, and 0 where the core is out of service (R4). -/
def setAttcaps (s : State) (pkg : Nat) : State :=
  let cap := 0x300000 * (layersIn s pkg).length
  if cap = 0x1800000 ∧ (List.range 512).all (fun i => inSvc s (pkg * 512 + i)) then s
  else (List.range 512).foldl (fun s i =>
    setReg s (coreWin (pkg * 512 + i) 0x080) (BitVec.ofNat 64 (if inSvc s (pkg * 512 + i) then cap else 0))) s
/-- Maps one lost part out: (core, layer, bank, kind), kind 0 a bank, 1 a Chimney, 2 a layer. -/
def mapOut (s : State) (pkg : Nat) (x : Nat × Nat × Nat × Nat) : State :=
  let (core, layer, bank, kind) := x
  let idx := (layersIn s pkg).findIdx (fun l => l == layer)
  if kind = 1 then coreOut s core
  else if kind = 2 then
    if !(layersIn s pkg).contains layer then s
    else
      let s := setReg s (ccWin pkg 0x240) (setBits (getReg s (ccWin pkg 0x240)) layer 1 0)
      (List.range 512).foldl (fun s i => loseSlice s (pkg * 512 + i) (0x300000 * idx) 0x1800000) s
  else if (getPkg s pkg).spare.contains (core * 8 + layer) then coreOut s core
  else
    let s := modPkg s pkg (fun p => { p with spare := (core * 8 + layer) :: p.spare })
    let lo := 0x300000 * idx + 0x60000 * bank
    loseSlice s core lo (lo + 0x60000)
/-- The layers of which banks have been lost in four or more slices of the die, whichever restart mapped them out (Table 12-5). -/
def lostLayers (s : State) (pkg : Nat) : List Nat :=
  (layersIn s pkg).filter (fun l => decide (4 ≤
    (((getPkg s pkg).lostEver.filter (fun x => x.2.2.2 == 0 && x.2.1 == l)).map (fun x => x.1)).eraseDups.length))
/-- `partLoss` [core, layer, bank, kind]: issue stops, the logs are kept, and the package restarts warm (R285). A part that is lost
already changes nothing until the restart has mapped it out. -/
def execPartLoss (s : State) : Host.Outcome State Fault Refusal :=
  let core := arg s 0 % 2048
  let pkg := pkgOfCore core
  let part := (core, arg s 1 % 8, arg s 2 % 8, arg s 3)
  if (getPkg s pkg).lost.contains part then .next s
  else
    let logs := (List.range 512).filterMap (fun i =>
      let v := getReg s (coreWin (pkg * 512 + i) 0x098)
      if v = 0 then none else some v)
    let s := modPkg s pkg (fun p => { p with
      st := .stopped, lost := p.lost ++ [part], lostEver := p.lostEver ++ [part], keptLogs := logs })
    let (f, s) := takeDelay s
    let (c, s) := takeDelay s
    let (d, s) := takeDelay s
    .next (schedule (soon s .packageOutOfService [pkg]) (s.now + 1 + d) .warmStart [pkg, f, c])

/-! ### Checks of retained contents (R409 to R411) -/

/-- The sampled check: which lines it reads is open; a bad word that it meets poisons its line and counts (R285). -/
def sampledCheck (s : State) (pkg : Nat) : State :=
  (s.syn.filter (fun e => ofPkg pkg (8 * e.1) && !(decodeSyn e.2.toNat == .good) && !(decodeSyn e.2.toNat == .corrected) &&
    !(decodeSyn e.2.toNat == .attic 1))).foldl (fun s e =>
      let (hit, s) := takeFreeBit s
      if hit then
        (List.range 16).foldl (fun s i => { s with syn := s.syn.ins (e.1 / 16 * 16 + i) 0xFF }) (reportAttic s (8 * e.1))
      else s) s
/-- A prefix entry with a page that holds a poisoned granule is dropped, its pages counted down. A granule that has become
uncorrectable is in its channel's table since its `gddrBurstError`, so the scrub enters no other (R332, R410). -/
def scrubPool (s : State) (pkg : Nat) : State :=
  (List.range 64).foldl (fun s e =>
    let x := getPx s pkg e
    if x.valid && (List.range (x.groups + 1)).any (fun g => pageBad s pkg (rdN s (kvRecordAt s pkg e g) 4)) then dropPx s pkg e else s) s
/-- Whether a recorded descriptor's destination holds a poisoned line; lines of replaced or remapped banks are. -/
def spanPoisoned (s : State) (e : DwEnt) : Bool :=
  (List.range e.lines).any (fun j =>
    let (c, off) := e.line j
    s.syn.any (fun w => decide (slicePa c off / 8 ≤ w.1) && decide (w.1 < slicePa c off / 8 + 16) && w.2 == 0xFF))
/-- Reissues, in recording order, the recorded descriptors whose destination needs it; INTSTAT[5] follows the last (R411). -/
def reload (s : State) (pkg : Nat) : State :=
  let l := (getPkg s pkg).residency.filter (spanPoisoned s)
  if l = [] then setReg s (ccWin pkg 0) (getReg s (ccWin pkg 0) ||| 0x20)
  else
    l.foldl (fun s e =>
      let (op, s) := takeId s
      soon (modPkg s pkg (fun p => { p with
        reloading := true, dwq := p.dwq ++ [{ e with
          op := op, record := true, running := none, code := 0, cut := false, landed := 0, counted := 0, buf := [], bad := false }] })) .dumbwaiterStart [pkg]) s

/-! ### Starts and wakes (R409 to R412) -/

/-- `coldStart` [pkg, failing step, code]: the memories are tested and trained, so that they hold nothing, and the journals are
cleared. -/
def execColdStart (s : State) : Host.Outcome State Fault Refusal :=
  let pkg := arg s 0 % 4
  if startFails s then .next (toPorch s pkg (arg s 1) (arg s 2))
  else
    let s := clearRegs (clearDies s pkg) pkg true
    let s := modPkg s pkg (fun p => { Pkg.reset with
      trusted := p.trusted, minver := p.minver, version := p.version, measure := p.measure, links := p.links, tapIr := p.tapIr, tapDr := p.tapDr, tapOut := p.tapOut, boundary := p.boundary, pins := p.pins })
    let s := { s with
      mem := s.mem.filter (fun c => !ofPkg pkg c.1), syn := s.syn.filter (fun e => !ofPkg pkg (8 * e.1)),
      localBad := s.localBad.filter (fun e => !ofPkg pkg (8 * e.1)), accBad := s.accBad.filter (fun e => !ofPkg pkg (16 * e)) }
    .next (trainLinks s pkg)
/-- `warmStart` [pkg, failing step, code]: the lost parts are mapped out, the windows are cleared but for the control
complex's, and the recorded weights are loaded again. -/
def execWarmStart (s : State) : Host.Outcome State Fault Refusal :=
  let pkg := arg s 0 % 4
  if startFails s then .next (toPorch s pkg (arg s 1) (arg s 2))
  else
    let s := clearUnits (clearRegs (clearDies s pkg) pkg false) pkg
    let s := setReg s (ccWin pkg 0) 0
    let lost := (getPkg s pkg).lost
    let layers := lostLayers s pkg
    let s := lost.foldl (fun s x => mapOut s pkg x) s
    let s := layers.foldl (fun s l => mapOut s pkg (0, l, 0, 2)) s
    let s := sampledCheck (setAttcaps s pkg) pkg
    let s := scrubPool (modPkg s pkg (fun p => { p with
      st := .running, inService := true, failStep := 0, failCode := 0, lost := [], bankUnc := [], bankCor := [] })) pkg
    .next (reload (trainLinks s pkg) pkg)
/-- `wakeFromDormant` [pkg, failing step, code]: self-refresh ends, the retained contents are checked, keys must be loaded
again, and the accesses held at their source go on (R409, R417). -/
def execWakeFromDormant (s : State) : Host.Outcome State Fault Refusal :=
  let pkg := arg s 0 % 4
  if (getPkg s pkg).st ≠ .dormant then .next s
  else if startFails s then .next (toPorch s pkg (arg s 1) (arg s 2))
  else
    let s := modPkg s pkg (fun p => { p with st := .running, keys := [], failStep := 0, failCode := 0 })
    let held := (getPkg s pkg).dormantHeld
    let s := reload (scrubPool (sampledCheck s pkg) pkg) pkg
    .next (held.foldl (fun s h => if h.2.2 then schedule s s.now .registerWrite [h.1, h.2.1.toNat, 0] else s)
      (modPkg s pkg (fun p => { p with dormantHeld := [] })))

/-! ### Dormant (R415 to R417) -/

def sleepReg (pkg : Nat) : Nat := ccWin pkg 0x410
/-- Why a request of Dormant is refused, or 0. -/
def sleepReason (s : State) : Nat :=
  if !s.parts.all (fun p => p.state == 6) then 1
  else if (List.range 4).any (fun n => (getPkg s n).dwq != [] || (getPkg s n).kvq != []) then 2
  else if (List.range 4).any (fun n => (getPkg s n).kvWait.isSome) then 3 else 0
/-- A write of SLEEPCTL: 1 requests Dormant for the card. -/
def writeSleepctl (s : State) (pkg : Nat) (v : W64) : State :=
  if v ≠ 1 then s
  else
    let why := sleepReason s
    let s := setReg s (sleepReg pkg) (BitVec.ofNat 64 (why * 256))
    if why ≠ 0 then s
    else (List.range 4).foldl (fun s n => modPkg s n (fun p => if p.st = .running then { p with st := .dormant } else p)) s
/-- `sleepctl` [pkg, value]. -/
def execSleepctl (s : State) : Host.Outcome State Fault Refusal := .next (writeSleepctl s (arg s 0 % 4) (argW s 1))
/-- A wake event: every package that is Dormant starts to wake, with outcomes of the environment's (R416). -/
def wakeAll (s : State) : State :=
  (List.range 4).foldl (fun s n =>
    if (getPkg s n).st = .dormant && !s.agenda.any (fun p => p.2.1 == .wakeFromDormant && p.2.2.headD 9 == n) then
      let (f, s) := takeDelay s
      let (c, s) := takeDelay s
      let (d, s) := takeDelay s
      schedule s (s.now + 1 + d) .wakeFromDormant [n, f, c]
    else s) s
/-- `wakeFrame` [pkg, mac, udp, token]: a frame that matches the wake filter wakes the card. -/
def execWakeFrame (s : State) : Host.Outcome State Fault Refusal :=
  .next (if argW s 1 = Config.wakeMac ∧ argW s 2 = Config.wakeUdp ∧ argW s 3 = Config.wakeToken then wakeAll s else s)
/-- `mctpWakeMessage` [pkg]. -/
def execMctpWakeMessage (s : State) : Host.Outcome State Fault Refusal := .next (wakeAll s)
/-- `dormantAccess` [pkg, addr, value, store]: an access to a device address outside the control-complex registers is held at
its source while the card is Dormant, and wakes it; awake, a store is performed at once (R417). -/
def execDormantAccess (s : State) : Host.Outcome State Fault Refusal :=
  let pkg := arg s 0 % 4
  let reg := match placeOf (arg s 1) with
    | .cc _ off => decide (off < 0x1000000)
    | _ => false
  let st := arg s 3 == 1
  if (getPkg s pkg).st = .dormant && !reg then
    .next (wakeAll (modPkg s pkg (fun p => { p with dormantHeld := p.dormantHeld ++ [(arg s 1, argW s 2, st)] })))
  else .next (if st then schedule s s.now .registerWrite [arg s 1, arg s 2, 0] else s)

/-! ### Power, the mesh, board test (R408, R414, R419) -/

/-- PWRSTAT with a level and a power; a change of the level is signalled. -/
def setPower (s : State) (pkg level power : Nat) : State :=
  let old := (getPkg s pkg).throttle
  let s := setReg s (ccWin pkg 0x400) (BitVec.ofNat 64 (power % 65536 * 256 + level))
  if level = old then s else raiseInt (setThrottle s pkg level) pkg 0x40
/-- `throttleRaise` [pkg, power]. -/
def execThrottleRaise (s : State) : Host.Outcome State Fault Refusal :=
  .next (setPower s (arg s 0 % 4) (min 7 ((getPkg s (arg s 0 % 4)).throttle + 1)) (arg s 1))
/-- `throttleLower` [pkg, power]. -/
def execThrottleLower (s : State) : Host.Outcome State Fault Refusal :=
  .next (setPower s (arg s 0 % 4) ((getPkg s (arg s 0 % 4)).throttle - 1) (arg s 1))
/-- `meshHopFailure` [pkg]: a hop that fails for the fourth time loses its link, and the package restarts warm. -/
def execMeshHopFailure (s : State) : Host.Outcome State Fault Refusal :=
  let pkg := arg s 0 % 4
  let (f, s) := takeDelay s
  let (c, s) := takeDelay s
  let s := modPkg s pkg (fun p => { p with st := .stopped })
  .next (schedule (soon s .packageOutOfService [pkg]) (s.now + 1) .warmStart [pkg, f, c])
/-- The identification code of the board test port (R414). -/
def idCode : Nat := 0x0A471F53
/-- Free bits that a test port captures from the pins. Log entry 69. -/
def capturePins : Nat → State → List Bool × State
  | 0, s => ([], s)
  | n + 1, s =>
    let (b, s) := takeFreeBit s
    let (l, s) := capturePins n s
    (b :: l, s)
/-- What a test instruction captures into the register it selects, for a scan of `n` bits: EXTEST (0) and SAMPLE/PRELOAD (2) the
pins, IDCODE (1) its code, and every other instruction, as BYPASS, one 0. PRESUMED, log entry 69. -/
def tapCapture (s : State) (ir n : Nat) : List Bool × State :=
  if ir = 0 ∨ ir = 2 then capturePins n s
  else if ir = 1 then ((List.range 32).map (fun i => idCode.testBit i), s) else ([false], s)
/-- `boardTest` [pkg, ir, bits ...]: an instruction of the board test port, and the bits that are scanned in, the first first. What
was captured leaves first; SAMPLE/PRELOAD and EXTEST update the boundary register, and EXTEST drives the pins with it (R414). -/
def execBoardTest (s : State) : Host.Outcome State Fault Refusal :=
  let pkg := arg s 0 % 4
  let ir := arg s 1
  let input := (s.args.drop 2).map (fun b => b % 2 == 1)
  let (cap, s) := tapCapture s ir input.length
  let l := cap ++ input
  let dr := l.drop input.length
  .next (modPkg s pkg (fun p => { p with
    tapIr := ir, tapDr := dr, tapOut := l.take input.length,
    boundary := if ir = 0 ∨ ir = 2 then dr else p.boundary,
    pins := if ir = 0 then dr else [] }))

end Sys2Proof.Machine
end

