-- ==== Sys2Proof/Machine/Home.lean ====
section
/-! DEFINITION. What a load or store does at its home: memory, and the registers of the windows (R9, R10, R99, R101, R176, R274,
R328, R329, R378, R439, R440). -/
namespace Sys2Proof.Machine
open Sys2Proof

/-! ### The registers of the windows -/

/-- The bits that a register which only stores takes from a write, by its place; none for one that is read-only, has a
meaning of its own, or does not exist (Tables 6-10, 12-1, 14-4, 15-6, 15-8, 15-11, 18-1, 19-2). -/
def storeMask : Place → Option W64
  | .coreReg _ off =>
    if off = 0x000 ∨ off = 0x008 ∨ off = 0x010 then some 0xFFFFFFFFFFFFFFFF
    else if off = 0x018 then some 0xFFFFF
    else if off = 0x040 then some 0xFFFFFFFFFFFC0
    else if off = 0x088 then some 0x1FFFF80 else none
  | .unit _ u off =>
    if u = uTrans then
      if 0x800 ≤ off ∧ off < 0x900 then some (if off % 16 = 0 then 0x3FFFFFFFFFC1 else 0x3FFFFFFF0000)
      else if off = 0x900 then some 0x3FFFFFFFFFC0 else none
    else if u = uDw then if off = 0x008 then some 0x3FFFFFFFFFC0 else none
    else none
  | .cc _ off =>
    if off = 0x008 then some 0x7F
    else if off = 0x050 then some 0xFFFFFFFF
    else if 0x100 ≤ off ∧ off < 0x200 ∧ off % 64 = 0x30 then some 0xFFFFFFFFFFF80
    else if off = 0x308 then some 0x3FFFFFFFFFC0 else none
  | _ => none
/-- Whether a register clears the bits that are written as 1 (R9). -/
def isW1c : Place → Bool
  | .coreReg _ off => off == 0x020 || off == 0x030 || off == 0x038 || off == 0x090 || off == 0x098
  | .unit _ u off => (u == uTrans && off == 0x918) || (u == uDw && off == 0x020)
  | .cc _ off => off == 0 || off == 0x320 || (decide (0x500 ≤ off) && decide (off < 0x580) && off % 32 == 8)
  | _ => false
/-- Whether a register is of the action kind, which takes no word access (R439). -/
def isAction (p : Place) : Bool :=
  isW1c p ||
  match p with
  | .unit _ u off =>
    if u = uFoyer then off == 8 || off == 0x18 || off == 0x20 || (decide (0x40 ≤ off) && decide (off < 0x80) && off % 16 == 0)
    else if u = uTrans then off == 0x908
    else if u = uDw then off == 0 || off == 0x10 || off == 0x28 || off == 0x80 || (decide (0x100 ≤ off) && decide (off < 0x500) && off % 16 == 0)
    else if u = uBar then decide (off < 0x800) && (off % 32 == 0 || off % 32 == 0x18)
    else false
  | .cc _ off =>
    off == 0x10 || off == 0x20 || off == 0x28 || off == 0x30 || off == 0x40 || off == 0x300 || off == 0x310 || off == 0x340 ||
      off == 0x348 || off == 0x350 || off == 0x380 || off == 0x388 || off == 0x410 ||
      (decide (0x100 ≤ off) && decide (off < 0x200) && off % 64 == 0x28)
  | _ => false

/-- A read of a key-slot register: only the application cores may; the notice of another's names no core (R400, R441). -/
def readKey (s : State) (pkg src : Nat) (v : W64) : W64 × State :=
  if src = 2048 then (v, s)
  else
    let (c, s) := takeFree s
    (0, faultLog s 0 pkg (c.toNat % 256) 6 0x7FF 0 0)
/-- A read of a register of a die unit (Tables 14-4, 15-6, 15-8, 15-11, 19-1). -/
def readUnit (s : State) (src pkg u off : Nat) : W64 × State :=
  let r := getReg s (dieWin pkg u off)
  if u = uFoyer then
    if off = 0x08 then (r &&& 0x3FFFFFFFFFC0, s)
    else if off = 0x18 then (r &&& 0xFFFFFFFFFF0007, s)
    else if off = 0x20 then (r &&& 0xFFFFFFFFFFFE0, s)
    else if 0x40 ≤ off ∧ off < 0x80 ∧ off % 16 = 8 then (setBits r 0 2 (portState s pkg ((off - 0x40) / 16)), s)
    else (r, s)
  else if u = uTrans then
    if off = 0x908 then (r &&& 0xFFFFFFFFFF003, s) else if off = 0x910 then (xstat s pkg, s) else (r, s)
  else if u = uDw then
    if off = 0 then (r &&& 0xFFFFFFFFFFFC0, s)
    else if off = 0x10 ∨ off = 0x28 then (r &&& 0x3FFFFFFFFFC0, s)
    else if off = 0x18 then (dwstat s pkg, s)
    else if off = 0x80 then readKey s pkg src (r &&& 0x3FFFFFFFFFFF)
    else if off = 0x88 then readKey s pkg src (ksstat s pkg)
    else if 0x100 ≤ off ∧ off < 0x500 ∧ off % 16 = 0 then readKey s pkg src (ksown s pkg ((off - 0x100) / 16))
    else (r, s)
  else if u = uBar ∧ off < 0x800 then
    let b := getBar s pkg (off / 32)
    if off % 32 = 0 then (b.bcfg, s) else if off % 32 = 8 then (b.owner, s)
    else if off % 32 = 16 then (b.bstate, s) else (b.link, s)
  else (r, s)
/-- A read of a register of the control complex's window (Table 18-1, R379, R403, R415, R419, R427). -/
def readCc (s : State) (pkg off : Nat) : W64 × State :=
  let r := getReg s (ccWin pkg off)
  if off = 0x010 then popMbin s pkg
  else if off = 0x018 then (BitVec.ofNat 64 (getPkg s pkg).mbin.length, s)
  else if off = 0x020 ∨ off = 0x028 then (0, s)
  else if off = 0x030 then popMbout s pkg
  else if off = 0x038 then (BitVec.ofNat 64 (getPkg s pkg).mbout.length, s)
  else if 0x100 ≤ off ∧ off < 0x200 ∧ off % 64 = 0x28 then (0, s)
  else if off = 0x300 then (r &&& 0xFFFFFFFFFFFC0, s)
  else if off = 0x310 then (r &&& 0x3FFFFFFFFFC0, s)
  else if off = 0x318 then (kvstat s pkg, s)
  else if off = 0x388 then (r &&& 0xFFFFFFFFFF, s)
  else if 0x500 ≤ off ∧ off < 0x580 ∧ off % 32 = 0 then (linkstat s pkg ((off - 0x500) / 32), s)
  else if 0x500 ≤ off ∧ off < 0x580 ∧ off % 32 = 16 then (linkhold s pkg ((off - 0x500) / 32), s)
  else if 0x10000 ≤ off ∧ off < 0x10800 then (pxent s pkg ((off - 0x10000) / 32) (off % 32 / 8), s)
  else (r, s)
/-- A read of a register, of core `src` or of the application cores, 2048; an offset of no register reads 0 (R10). -/
def readWin (s : State) (src pa : Nat) : W64 × State :=
  match placeOf pa with
  | .unit p u off => readUnit s src p u off
  | .cc p off => readCc s p off
  | _ => (getReg s pa, s)

/-- A write of FOYERCTL; BYPASSK keeps its value where 0 is written, and lending is sampled from now on (Table 14-4). -/
def writeFoyerctl (s : State) (pkg : Nat) (v : W64) : State :=
  let a := dieWin pkg uFoyer 0
  let v := v &&& 0xFFFF002F
  let v := if bits v 0 4 = 0 then setBits v 0 4 (bits (getReg s a) 0 4) else v
  let s := setReg { s with agenda := s.agenda.filter (fun p => p.2 != (.lendingSample, [pkg])) } a v
  if lendPeriod s pkg = 0 then s else schedule s (s.now + lendPeriod s pkg) .lendingSample [pkg]
/-- A write of PREEMPT (R307). -/
def writePreempt (s : State) (pkg : Nat) (v : W64) : State :=
  let s := setReg s (dieWin pkg uFoyer 0x18) v
  let rcb := bits v 16 40 * 64
  match bits v 0 3 with
  | 1 => soon s .preempt [pkg, rcb]
  | 2 => soon s .preemptAndHold [pkg, rcb]
  | 3 => soon s .resume [pkg, rcb]
  | 4 => soon s .endPartition [pkg, rcb]
  | _ => s
/-- A write that a queue takes unless an earlier one is held before it. -/
def behindHeld (s : State) (pkg unit : Nat) (f : Option State) : Option State := if unitHeld s pkg unit then none else f
/-- A write of a key-slot register (R400, R401). -/
def writeKey (s : State) (pkg src : Nat) (ev : Instr) (args : List Nat) : State :=
  if src = 2048 then soon s ev args else (readKey s pkg src 0).2
/-- A write of a register of a die unit; none while it is held (R328). -/
def writeUnit (s : State) (src : Nat) (lvl : Bool) (pkg u off : Nat) (v : W64) : Option State :=
  if u = uFoyer then
    if off = 0 then some (writeFoyerctl s pkg v)
    else if off = 8 then some (writeLaunch s pkg v)
    else if off = 0x18 then some (writePreempt s pkg v)
    else if off = 0x20 then behindHeld s pkg 0 (writeRecq s pkg src v)
    else if 0x40 ≤ off ∧ off < 0x80 ∧ off % 16 = 0 then some (acceptSeed s pkg ((off - 0x40) / 16) v)
    else some s
  else if u = uTrans then
    if off < 0x800 then some (writeRange s pkg (off / 8) v)
    else if off = 0x908 then some (writeXinv s pkg v) else some s
  else if u = uDw then
    if off = 0 then behindHeld s pkg 2 (writeDwq s pkg src lvl v)
    else if off = 0x10 then behindHeld s pkg 2 (writeDwqp s pkg src v false)
    else if off = 0x28 then behindHeld s pkg 2 (writeDwqp s pkg src v true)
    else if off = 0x80 then some (writeKey s pkg src .ksload [pkg, v.toNat])
    else if off = 0x88 then some (if src = 2048 then s else (readKey s pkg src 0).2)
    else if 0x100 ≤ off ∧ off < 0x500 ∧ off % 16 = 0 then some (writeKey s pkg src .ksown [pkg, (off - 0x100) / 16, v.toNat])
    else some s
  else if u = uBar ∧ off < 0x800 then
    if off % 32 = 0 then some (writeBcfg s pkg (off / 32) v)
    else if off % 32 = 8 then some (modBar s pkg (off / 32) (fun b => { b with owner := v &&& 0x3FFFFFFFFFC1 }))
    else if off % 32 = 0x18 then some (writeBlink s pkg (off / 32) v) else some s
  else some s
/-- A write of a register of the control complex's window; none while it is held. -/
def writeCc (s : State) (src : Nat) (lvl : Bool) (pkg off : Nat) (v : W64) : Option State :=
  if off = 0x020 then behindHeld s pkg 6 (writeMbin s pkg v)
  else if off = 0x028 then behindHeld s pkg 7 (writeMbout s pkg v)
  else if off = 0x040 then some (writeFdbase s pkg v)
  else if 0x100 ≤ off ∧ off < 0x200 then
    let p := (off - 0x100) / 64
    if off % 64 = 0 then some (writeAjbase s pkg p v) else if off % 64 = 8 then some (writeCjbase s pkg p v)
    else if off % 64 = 0x18 then some (writeJcons s pkg p v) else if off % 64 = 0x28 then some (portDone s pkg p src v)
    else some s
  else if off = 0x300 then behindHeld s pkg 5 (writeKvq s pkg src lvl v)
  else if off = 0x310 then behindHeld s pkg 5 (writeKvqp s pkg v)
  else if off = 0x340 then some (writeKvReg s pkg off 0x3FFFFFFFF000 v)
  else if off = 0x348 then some (writeKvReg s pkg off 0xFFFFFF00FFFFFF v)
  else if off = 0x350 then some (writeKvReg s pkg off 0x3FFFFFFFFFC0 v)
  else if off = 0x380 then some (writeFlbase s pkg v)
  else if off = 0x388 then some (writeFldone s pkg v)
  else if off = 0x410 then some (writeSleepctl s pkg v)
  else some s
/-- A whole write of a register; none while it is held. A read-only register and an offset of none ignore it. -/
def writeWin (s : State) (src : Nat) (lvl : Bool) (pa : Nat) (v : W64) : Option State :=
  let p := placeOf pa
  match storeMask p with
  | some m => some (setReg s pa (v &&& m))
  | none =>
    if isW1c p then some (setReg s pa (getReg s pa &&& ~~~v))
    else match p with
      | .unit n u off => writeUnit s src lvl n u off v
      | .cc n off => writeCc s src lvl n off v
      | _ => some s

/-! ### A load or store at its home -/

/-- Whether an address is of memory, not of a register. -/
def isMemory : Place → Bool
  | .gddr .. => true
  | .slice .. => true
  | .localMem .. => true
  | .acc .. => true
  | .cc _ off => decide (0x1000000 ≤ off)
  | _ => false
/-- A write of memory by an agent of a partition: a local tag releases its entry (Table 6-2); a part write that meets an
uncorrectable dword writes nothing and is reported to the region's domain, with a cause that no rule names (R99, log 2). -/
def writeMemory (s : State) (part pa n v : Nat) : State :=
  let plain (s : State) : State :=
    match writeWord s pa n v with
    | (s, true) => s
    | (s, false) => freeNotice s part (pkgOfPlace (placeOf pa))
  match placeOf pa with
  | .localMem c off => if 0x3FE00 ≤ off then lbFree s c ((off - 0x3FE00) / 8) else plain s
  | _ => plain s
/-- A load of memory performed at its home, and its reply. -/
def loadAtHome (s : State) (id : Nat) (f : Flight) : State :=
  match errOf s f.pa f.va with
  | some (cause, v) => replyTo (perform (noteRead s f.pa) id 0 (some (cause, 0, v))) id f .accessReply
  | none => replyTo (perform (noteRead s f.pa) id (extendTo64 (wordAt s f.pa f.size) f.size) none) id f .accessReply
/-- An access of a register performed at its home; none while it is held. -/
def regAtHome (s : State) (id : Nat) (f : Flight) : Option State :=
  let pa := f.pa / 8 * 8
  if f.size = 4 ∧ isAction (placeOf pa) then some (replyTo (perform s id 0 (some (0x05, 0, f.va))) id f .accessReply)
  else if f.kind = .load then
    let (v, s) := readWin s f.core pa
    let v := if f.size = 4 then extendTo64 (v.toNat / 2 ^ (8 * (f.pa % 8)) % 2 ^ 32) 4 else v
    some (replyTo (perform s id v none) id f .accessReply)
  else
    let v := if f.size = 4 then mergeBytes (readWin s f.core pa).1 (f.pa % 8) 4 (f.b.toNat % 2 ^ 32) else f.b
    match writeWin s f.core f.lvl pa v with
    | none => none
    | some s => some (replyTo (perform s id 0 none) id f .accessReply)
/-- A load or store, and a barrier's request, reach their home. -/
def accessAt (s : State) (id : Nat) (f : Flight) : State :=
  if waitsBehind s id f then holdAtHome s id .accessAtHome
  else if f.kind = .barTry ∨ f.kind = .barWait then waitAtBarrier s id f
  else if homeRefuses s f then replyTo (perform s id 0 (some (0x05, 0, f.va))) id f .accessReply
  else
    let s := homeRestore s f
    if isMemory (placeOf f.pa) then
      if f.kind = .load then loadAtHome s id f
      else replyTo (perform (writeMemory s f.part f.pa f.size (f.b.toNat % 2 ^ (8 * f.size))) id 0 none) id f .accessReply
    else match regAtHome s id f with
      | some s => s
      | none => holdAtHome s id .accessAtHome
/-- `accessAtHome` [access] (R101, R103, R328, R329). -/
def execAccessAtHome (s : State) : Host.Outcome State Fault Refusal :=
  match flight? s (arg s 0) with
  | none => .next s
  | some f => .next (accessAt s (arg s 0) f)

/-! ### Held writes, and writes of the application cores -/

/-- A held write as its window takes it; none while it cannot. -/
def retryWrite (s : State) (pkg : Nat) (w : List Nat) : Option State :=
  let a (i : Nat) : Nat := w.getD i 0
  let v (i : Nat) : W64 := BitVec.ofNat 64 (a i)
  if a 0 = 0 then writeRecq s pkg (a 1) (v 2)
  else if a 0 = 2 then
    if a 1 = 0 then writeDwq s pkg (a 2) (a 4 == 1) (v 3)
    else if a 1 = 1 then writeDwqp s pkg (a 2) (v 3) false
    else if a 1 = 2 then writeDwqp s pkg (a 2) (v 3) true
    else submitPage s pkg (a 2) (a 3 == 1) (a 4) (a 5) (a 6)
  else if a 0 = 5 then
    if a 1 = 0 then writeKvq s pkg (a 2) (a 4 == 1) (v 3) else writeKvqp s pkg (v 3)
  else if a 0 = 6 then writeMbin s pkg (v 1)
  else if a 0 = 7 then writeMbout s pkg (v 1)
  else some s
/-- Takes the held writes of a unit in arrival order, as far as it can. -/
def retryWrites (pkg unit : Nat) : List (List Nat) → State → State
  | [], s => s
  | w :: r, s =>
    if w.headD 9 ≠ unit then retryWrites pkg unit r s
    else match retryWrite s pkg w with
      | none => s
      | some s => retryWrites pkg unit r (modPkg s pkg (fun p => { p with heldWrites := p.heldWrites.erase w }))
/-- A write by the application cores, whole (`half` 0) or of the low or high half; none while its queue or mailbox is full. -/
def appWrite (s : State) (pa : Nat) (v : W64) (half : Nat) : Option State :=
  let p := placeOf pa
  if isMemory p then
    some (if half = 0 then writeMemory s 0 pa 8 v.toNat
      else writeMemory s 0 (if half = 1 then pa else pa + 4) 4 (v.toNat % 2 ^ 32))
  else if half ≠ 0 ∧ isAction p then some s
  else
    writeWin s 2048 true pa (if half = 0 then v else mergeBytes (readWin s 2048 pa).1 (if half = 1 then 0 else 4) 4 (v.toNat % 2 ^ 32))
/-- Whether a window holds a write of the application cores: their later accesses to it wait behind that one (R103, R379). -/
def appHeld (l : List (List Nat)) (pa : Nat) : Bool :=
  l.any (fun w => w.headD 0 == 9 && homeNo (placeOf (w.getD 1 0)) == homeNo (placeOf pa))
/-- Takes the held writes of the application cores in order, as far as their windows can; `kept` stay held. -/
def retryApps (pkg : Nat) : List (List Nat) → List (List Nat) → State → State
  | [], _, s => s
  | w :: r, kept, s =>
    if w.headD 0 ≠ 9 then retryApps pkg r kept s
    else if appHeld kept (w.getD 1 0) then retryApps pkg r (w :: kept) s
    else match appWrite s (w.getD 1 0) (BitVec.ofNat 64 (w.getD 2 0)) (w.getD 3 0) with
      | none => retryApps pkg r (w :: kept) s
      | some s => retryApps pkg r kept (modPkg s pkg (fun p => { p with heldWrites := p.heldWrites.erase w }))
/-- `heldWriteTaken` [pkg, unit]: the held write of a queue or mailbox is taken (R316, R328, R341, R379, R391). -/
def execHeldWriteTaken (s : State) : Host.Outcome State Fault Refusal :=
  let pkg := arg s 0 % 4
  let s := if arg s 1 = 0 then retryDone pkg 256 s else s
  let s := retryWrites pkg (arg s 1) (getPkg s pkg).heldWrites s
  .next (retryApps pkg (getPkg s pkg).heldWrites [] s)
/-- `w1cClear` [addr, value]: a write by the application cores of a register of that kind (R9). -/
def execW1cClear (s : State) : Host.Outcome State Fault Refusal :=
  let pa := arg s 0 / 8 * 8
  .next (if isW1c (placeOf pa) then setReg s pa (getReg s pa &&& ~~~(argW s 1)) else s)
/-- Whether PCIe endpoint DMA of a package reaches an address: the coherent memory of its window, and nothing else (R381). -/
def dmaReaches (pkg pa : Nat) : Bool :=
  match placeOf pa with
  | .cc p off => p == pkg && decide (0x1000000 ≤ off)
  | _ => false
/-- `registerWrite` [addr, value, half]: a write by the application cores, one source to each window (log entry 71); or, with a
fourth operand 1 + package, one by PCIe endpoint DMA. -/
def execRegisterWrite (s : State) : Host.Outcome State Fault Refusal :=
  let pa := arg s 0 / 8 * 8
  let p := placeOf pa
  let pkg := pkgOfPlace p
  if placeRefuses s pkg 0 true pa ∨ (arg s 3 ≠ 0 ∧ !dmaReaches (arg s 3 - 1) pa) then .next s
  else
    let w := [9, pa, arg s 1, arg s 2]
    if arg s 3 = 0 ∧ appHeld (getPkg s pkg).heldWrites pa then .next (holdWrite s pkg w)
    else match appWrite s pa (argW s 1) (arg s 2) with
      | some s => .next s
      | none => .next (holdWrite s pkg w)

end Sys2Proof.Machine
end

