-- ==== Sys2Proof/Machine/Issue.lean ====
section
/-! DEFINITION. Which step comes next: a hardware step that is due, an instruction of a ready slot (fetched, decoded and
checked before it executes), or the passing of time (R30, R34 to R41, R55, R72, R109, R152, R159, R160). -/
namespace Sys2Proof.Machine
open Sys2Proof

/-! ### Readiness and the choice of a slot (R30, R81, R152) -/

/-- Whether a slot has something to issue: it runs, is not frozen or freezing, and nothing it stalls on is unchanged. -/
def wantsIssue (s : State) (t : Slot) : Bool :=
  (t.st == .run || t.st == .trap) && !t.freezing && t.stall != some s.ver

/-- Whether a yielding slot's wait is over: every other ready task slot of the core has issued since (R81). A slot that a yield of
its own holds is not ready. DEDUCED, log entry 70. -/
def yieldOver (s : State) (core slot : Nat) (t : Slot) : Bool :=
  match t.yielding with
  | none => true
  | some (due, seen) => decide (due ≤ s.now) || (List.range 4).all (fun k =>
      k == slot || seen.contains k ||
      (let u := getSlot s core k; !(wantsIssue s u && decide (u.ready ≤ s.now) && u.yielding.isNone)))

/-- The earliest cycle in which a slot could issue as things stand, if it wants to. -/
def issueCycle (s : State) (core slot : Nat) (t : Slot) : Option Nat :=
  let c := getCore s core
  let p := getPkg s (pkgOfCore core)
  if !wantsIssue s t || p.st != .running || !inSvc s core then none
  else
    let base := max t.ready c.nextIssue
    let base := if slot = 4 then (match c.hlast with | some h => max base (h + 2) | none => base) else base
    let base := if yieldOver s core slot t then base
      else (match t.yielding with | some (due, _) => max base due | none => base)
    if p.throttle = 0 then some base
    else if Config.throttleIssues p.throttle (max base s.now % 8) then some base else some (max base (s.now + 1))

def readyNow (s : State) (core slot : Nat) (t : Slot) : Bool :=
  match issueCycle s core slot t with
  | some c => decide (c ≤ s.now)
  | none => false

/-- The slot that issues: in the lowest-numbered core that can, the handler slot, else the first ready task slot after
the one that issued last (R152). -/
def pickSlot (s : State) : Option (Nat × Nat) :=
  match s.slots.find? (fun p => readyNow s (p.1 / 8) (p.1 % 8) p.2) with
  | none => none
  | some (k, _) =>
    let core := k / 8
    let rr := (getCore s core).rr
    if readyNow s core 4 (getSlot s core 4) then some (core, 4)
    else match [(rr + 1) % 4, (rr + 2) % 4, (rr + 3) % 4, rr % 4].find? (fun n => readyNow s core n (getSlot s core n)) with
      | some n => some (core, n)
      | none => some (core, k % 8)

/-- The next cycle in which anything can happen: a slot's issue or a step on the agenda; the next cycle if none. -/
def nextCycle (s : State) : Nat :=
  let cands := s.slots.filterMap (fun p => issueCycle s (p.1 / 8) (p.1 % 8) p.2)
  let cands := match s.agenda with
    | (d, _) :: _ => d :: cands
    | [] => cands
  match cands with
  | [] => s.now + 1
  | c :: r => max (s.now + 1) (r.foldl min c)

/-! ### Fetch (R72, R98, R109) -/

/-- The outcome of a fetch: a word, a wait, or a trap with its cause and value. -/
inductive Fetched where
  | word (w : W32)
  | wait (until_ : Option Nat)
  | trap (cause : Nat) (value : W64)
  deriving DecidableEq, Repr

/-- Reads the word of an instruction from its home; an uncorrectable word traps with the cause and value of its home. Log entry
16. -/
def fetchAt (s : State) (pa : Nat) (va : W64) : Fetched :=
  match errOf s pa va with
  | some (cause, v) => .trap cause v
  | none => .word (BitVec.ofNat 32 ((dwordAt s pa).toNat / 2 ^ (8 * (pa % 8))))

/-- Whether a home bars the fetch of an instruction by a slot: a slice at or above ATTCAP, or in the Pantry at task level
(R274). -/
def fetchBarred (s : State) (t : Slot) (pa : Nat) : Bool :=
  match placeOf pa with
  | .slice c off => decide (attcap s c ≤ off) || (!lvlOf t && decide (pantry s c ≤ off))
  | _ => false
/-- The word at an address of a slot: from its fetch buffer, else translated and read, which its checker sees (R153, R282). -/
def fetchWord (s : State) (core : Nat) (t : Slot) (va : W64) : Fetched × State :=
  match t.fbuf.find? (fun p => p.1 == va.toNat) with
  | some (_, w) => (.word w, s)
  | none =>
    match xlate s (pkgOfCore core) core (partOf s t.part) va.toNat with
    | (.wait u, s) => (.wait u, s)
    | (.none, s) => (.trap 0x04 va, s)
    | (.ok pa perms, s) =>
      if permits perms 4 (lvlOf t) && !fetchBarred s t pa then (fetchAt s pa va, noteRead s pa) else (.trap 0x05 va, s)

/-- The fetch buffer at the issue of the instruction at `pc`: its word, the next one if it can be had, and up to six
words below that it held (R109). -/
def refill (s : State) (core : Nat) (t : Slot) (w : W32) : List (Nat × W32) :=
  let p := t.pc.toNat
  let kept := t.fbuf.filter (fun q => decide (q.1 < p) && decide (p ≤ q.1 + 24))
  match (fetchWord s core t (t.pc + 4)).1 with
  | .word w' => kept ++ [(p, w), (p + 4, w')]
  | _ => kept ++ [(p, w)]

/-- The fetch of the next word into the buffer, if it can be had, as its home sees it (R109, R153). -/
def noteNext (s : State) (core : Nat) (t : Slot) : State :=
  match fetchWord s core t (t.pc + 4) with
  | (.word _, s) => s
  | _ => s

/-! ### Checks before an instruction executes -/

/-- What the scoreboard says of a register at issue: the write it must wait for, if any. -/
def pendingOn (t : Slot) (r : RFile × Nat) : List Pend := t.pend.filter (fun p => p.file == r.1 && p.idx == r.2)

/-- The first register, in operand order, whose producer's fixed latency has not run out, with the shortfall (R38, R40). -/
def shortOf (s : State) (t : Slot) : List (RFile × Nat) → Option (RFile × Nat × Nat)
  | [] => none
  | r :: l =>
    match (pendingOn t r).getLast? with
    | some p => if !p.var && r.1 != .csr then some (r.1, r.2, p.due - s.now) else shortOf s t l
    | none => shortOf s t l

/-- TRAPVAL after STALL_SHORT (Table 2-2). -/
def shortVal (file idx short addr : Nat) : W64 :=
  BitVec.ofNat 64 (addr * 2 ^ 32 + min short 255 * 256 + file * 64 + idx)
def fileNo : RFile → Nat
  | .x => 0
  | .v => 1
  | .k => 2
  | _ => 3

/-- What is to be done next. -/
inductive Plan where
  | quiet (s : State)
  | event (i : Instr) (s : State)
  | instr (i : Instr) (short : Bool) (s : State)
  | observe (i : Instr) (s : State)

/-- The bookkeeping after a slot's turn: where its instruction issued, the core's order of slots, the counts of the
handler's and of a draught trap's instructions, the other slots' yields, and the change number (R28, R81, R152, R160). -/
def afterIssue (t : State) : State :=
  if !t.issued then t
  else
    let core := t.curCore
    let slot := t.curSlot
    let t := modCore t core (fun c => { c with
      rr := if slot = 4 then c.rr else slot, hlast := if slot = 4 then some t.now else c.hlast, nextIssue := t.now + 1 })
    let t := (List.range 4).foldl (fun t k =>
      match (getSlot t core k).yielding with
      | some (d, l) => if k = slot then t else modSlot t core k (fun u => { u with yielding := some (d, slot :: l) })
      | none => t) t
    let t := if slot = 4 then modSlot t core 4 (fun u => { u with hcount := if u.st = .free then 0 else u.hcount + 1 })
      else match (getSlot t core slot).draught with
        | some n =>
          let t := modSlot t core slot (fun u => { u with draught := some (n + 1) })
          if 256 ≤ n + 1 then soon t .draughtInstructionLimit [core, slot] else t
        | none => t
    { t with ver := t.ver + 1, issued := false }

/-- The latency of an instruction that can take a trap is remembered for R79. -/
def noteLatency (i : Instr) (t : State) : State :=
  if t.issued && trapLatent i then
    let w := writesIn i
    let core := (getCore t t.curCore).csrPend.filter (fun p => w.contains (.csr, p.2.1))
    let due (u : Slot) := (u.pend.filter (fun p => !p.var && w.contains (p.file, p.idx))).foldl (fun a p => max a p.due) u.flagDue
    modMe t (fun u => { u with flagDue := core.foldl (fun a p => max a p.1) (due u) })
  else t
/-- What follows an instruction: an undersized wait is counted if it issued (R40), its latency is remembered, then the
bookkeeping of its turn. -/
def finishInstr (i : Instr) (short : Bool) (t : State) : State :=
  afterIssue (noteLatency i (if short && t.issued then modMe t (fun u => { u with waitchk := satAdd16 u.waitchk 16 1 }) else t))

/-! ### A pending error of an access that an instruction observes (R89, R99) -/

/-- The registers of an instruction: an error of an access pending on one of them is observed. -/
def observesErr (s : State) (i : Instr) (e : Err) : Bool :=
  match e.rd with
  | some r => (readsIn (me s) i ++ writesIn i).contains (.x, r)
  | none => false
/-- The state in which an instruction is tried to learn whether it would trap: outside a trap, with no cause recorded. -/
def trialState (s : State) : State :=
  let s := setReg s (coreWin s.curCore 0x020) 0
  modMe s (fun t => { t with status := setBits t.status 2 1 0, trapcause := 0xFFFFFFFFFFFFFFFF })
/-- The cause and unit of the trap that a trial took, if it took one. -/
def trialTrap (s p : State) : Option (Nat × Nat) :=
  if s.curSlot = 4 then
    let h := getReg p (coreWin s.curCore 0x020)
    if bitOf h 63 then some (bits h 56 6, 0) else none
  else
    let c := (getSlot p s.curCore s.curSlot).trapcause
    if c = 0xFFFFFFFFFFFFFFFF then none else some (bits c 0 6, bits c 12 4)
/-- Whether what an instruction does comes before the delivery of a pending error: a trap of a cause that R89 puts first, or the
wait for a translation, after which such a cause may still come. -/
def trialFirst (i : Instr) (s p : State) : Bool :=
  match trialTrap s p with
  | some (c, u) => u != 0 || [0x01, 0x02, 0x03, 0x04, 0x05, 0x0F].contains c
  | none => !p.issued && (match i with
    | .ldgW .. | .ldgD .. | .stgW .. | .stgD .. | .amoAdd .. | .amoAnd .. | .amoOr .. | .amoXor .. | .amoMin .. | .amoMax ..
    | .amoMinw .. | .amoMaxw .. | .amoSwap .. | .amoCas .. => true
    | _ => false)
/-- The oldest pending error that an instruction observes is delivered in its place (R99). -/
def deliverObserved (i : Instr) (s : State) : State := afterIssue ((deliverErr s (observesErr s i)).getD s)

/-- Delivers the oldest fault that the first instruction issued after a Chimney landing observes (R279, R283). The other
faults met by the same observation wait for the observing instruction to execute again after `tret`, so the instructions of
the handler do not observe them (R90). -/
def deliverIssueRec (s : State) : Option State :=
  let hidden (r : Rec) : Bool := r.obj != .issue || (inTrap (me s) && r.alt.isSome)
  match (me s).records.find? (fun r => !hidden r) with
  | none => none
  | some f => deliverRec (modMe s (fun t => { t with records := t.records.map (fun r =>
      if r.obj == .issue && r != f then { r with alt := some 0 } else r) })) (fun r => r == f)

/-- An index of `mrd` outside its descriptor's view (R89, R229). -/
def mrdIndexOf (s : State) : Instr → Option W64
  | .mrd _ _ m d k f => match vget none (me s).ac d.toNat with
    | some view =>
      if mrdOutside s k (xr s m).toNat (256 / fmtBits f.toNat) (viewRange view).2 then some (xr s m) else none
    | none => none
  | _ => none
/-- The cycles in which the pending writes land of the control registers that an instruction reads without naming them, and of
the core's spill registers where it names or reads those (R36). -/
def implicitDue (s : State) (i : Instr) : List Nat :=
  let named := (readsOf i ++ writesOf i).filterMap (fun r => if r.1 = .csr then some r.2 else none)
  ((me s).pend.filter (fun p => p.file == .csr && (implicitCsrs i).contains p.idx)).map (fun p => p.due) ++
  ((myCore s).csrPend.filter (fun p => (named ++ implicitCsrs i).contains p.2.1)).map (fun p => p.1)

/-- The checks on a decoded instruction, in the order of R89: a forbidden one in the handler slot, waits for the
scoreboard and for presence bits, the short wait, and pending errors that the instruction observes. -/
def checkInstr (s : State) (i : Instr) : Plan :=
  let t := me s
  let rd := readsIn t i
  let wr := writesIn i
  let both := rd ++ wr
  if s.curSlot = 4 ∧ handlerForbids i then .quiet (afterIssue (trapHere s 0x01 0 0))
  else if both.any (fun r => (pendingOn t r).any (fun p => p.var)) then .quiet (stallMe s)
  else
    let fixed := both.flatMap (fun r => (pendingOn t r).map (fun p => p.due)) ++ implicitDue s i
    if t.w7 ∧ fixed ≠ [] then .quiet (stallTo s (fixed.foldl max 0))
    else if waitsForFlags i ∧ s.now < t.flagDue then .quiet (stallTo s t.flagDue)
    else if waitsForFlags i ∧ (t.pend.any (fun p => p.var) ∨ (myCore s).chim.any (fun x => x.slot == s.curSlot)) then .quiet (stallMe s)
    else if s.curSlot ≠ 4 ∧ rd.any (fun r => r.1 == .x && decide (24 ≤ r.2) && !t.present.getLsbD (r.2 - 24)) then
      .quiet (stallMe s)
    else
      let short := shortOf s t rd
      match bitOf t.waitchk 0, short with
      | true, some (f, n, k) => .quiet (afterIssue (trapHere s 0x02 0 (shortVal (fileNo f) n k 0)))
      | _, _ =>
        match (regIndexOf t i).orElse (fun _ => mrdIndexOf s i) with
        | some v => .quiet (afterIssue (trapHere s 0x0F 0 v))
        | none =>
          match deliverIssueRec s with
          | some s => .quiet (afterIssue s)
          | none =>
            if t.errs.any (observesErr s i) then .observe i s else .instr i (short.isSome && bitOf t.waitchk 1) s

/-- The state in which a slot's turn begins: its due writes have landed, and it is the current slot. -/
def beginTurn (s : State) (core slot : Nat) : State :=
  let s := { s with curCore := core, curSlot := slot, issued := false }
  let s := modCore s core (fun c => c.landDue s.now)
  modSlot s core slot (fun t => { t.landDue (slot == 4) s.now with stall := none, yielding := none })

/-- A slot's turn: fetch, decode and check its next instruction. -/
def turn (s : State) (core slot : Nat) : Plan :=
  let s := beginTurn s core slot
  if slot = 4 ∧ 256 ≤ (getSlot s core 4).hcount then .event .handlerLongAbort { s with args := [core] }
  else
    match fetchWord s core (me s) (me s).pc with
    | (.wait (some c), s) => .quiet (stallTo s c)
    | (.wait none, s) => .quiet (stallMe s)
    | (.trap cause v, s) => .quiet (afterIssue (trapHere s cause 0 v))
    | (.word w, s) =>
      let s := modMe (noteNext s core (me s)) (fun t => { t with fbuf := refill s core t w })
      match decode w with
      | .error _ => .quiet (afterIssue (trapHere s 0x01 0 (w.setWidth 64)))
      | .ok i => checkInstr s i

/-- Whether a step ends a drain, whose draught markers reach the column's slots behind the cycle's issues: a trap of the same
cycle is taken first (R28). -/
def endsCycle : Instr → Bool
  | .drainEnd => true
  | .drainAllowanceExpiry => true
  | _ => false
/-- The next cycle after this one in which the base die scrubs a dword, given by its number, and its core and offset; none for a dword
of which a scrub changes nothing (R284). -/
def nextScrub (s : State) (x : Nat × Byte) : Option (Nat × Nat × Nat) :=
  match placeOf (8 * x.1), decodeSyn x.2.toNat with
  | .slice c off, .corrected => some (s.now + 1 + (Config.scrubCycle c off + 2 ^ 34 * (s.now + 1) - (s.now + 1)) % 2 ^ 34, c, off)
  | .slice c off, .attic k =>
    if k = 1 then none
    else some (s.now + 1 + (Config.scrubCycle c off + 2 ^ 34 * (s.now + 1) - (s.now + 1)) % 2 ^ 34, c, off)
  | _, _ => none
/-- Time passes: to the next cycle in which something is to be done, or to the next scrub of a dword that it changes, which is then
on the agenda (R284). Log entry 72. -/
def passTime (s : State) : State :=
  let l := s.syn.filterMap (nextScrub s)
  let t := l.foldl (fun t x => min t x.1) (nextCycle s)
  (l.filter (fun x => x.1 == t)).foldl (fun s x => schedule s t .atticScrub [x.2.1, x.2.2]) { s with now := t }
/-- What happens next: a step that is due, else the turn of the slot that issues, else time passes. -/
def plan (s : State) : Plan :=
  match s.agenda with
  | (due, ev, args) :: r =>
    if due ≤ s.now ∧ (endsCycle ev = false ∨ pickSlot s = none) then .event ev { s with agenda := r, args := args, ver := s.ver + 1, issued := false }
    else match pickSlot s with
      | some (core, slot) => turn s core slot
      | none => .quiet (passTime s)
  | [] =>
    match pickSlot s with
    | some (core, slot) => turn s core slot
    | none => .quiet (passTime s)

end Sys2Proof.Machine
end

