-- ==== Sys2Proof/Machine/Dispatch.lean ====
section
/-! DEFINITION. One arm for each constructor of Instr: the direct call of its meaning. -/
namespace Sys2Proof.Machine
open Sys2Proof

def exec (i : Instr) (s : State) : Host.Outcome State Fault Refusal :=
  match i with
  | .add w d a b => Sys2Proof.Machine.execAdd w d a b s
  | .sub w d a b => Sys2Proof.Machine.execSub w d a b s
  | .and w d a b => Sys2Proof.Machine.execAnd w d a b s
  | .or w d a b => Sys2Proof.Machine.execOr w d a b s
  | .xor w d a b => Sys2Proof.Machine.execXor w d a b s
  | .sll w d a b => Sys2Proof.Machine.execSll w d a b s
  | .srl w d a b => Sys2Proof.Machine.execSrl w d a b s
  | .sra w d a b => Sys2Proof.Machine.execSra w d a b s
  | .slt w d a b => Sys2Proof.Machine.execSlt w d a b s
  | .slto w d a b => Sys2Proof.Machine.execSlto w d a b s
  | .min w d a b => Sys2Proof.Machine.execMin w d a b s
  | .max w d a b => Sys2Proof.Machine.execMax w d a b s
  | .minw w d a b => Sys2Proof.Machine.execMinw w d a b s
  | .maxw w d a b => Sys2Proof.Machine.execMaxw w d a b s
  | .mul w d a b => Sys2Proof.Machine.execMul w d a b s
  | .mulh w d a b => Sys2Proof.Machine.execMulh w d a b s
  | .mulhw w d a b => Sys2Proof.Machine.execMulhw w d a b s
  | .div w d a b => Sys2Proof.Machine.execDiv w d a b s
  | .divw w d a b => Sys2Proof.Machine.execDivw w d a b s
  | .rem w d a b => Sys2Proof.Machine.execRem w d a b s
  | .remw w d a b => Sys2Proof.Machine.execRemw w d a b s
  | .clz w d a => Sys2Proof.Machine.execClz w d a s
  | .ctz w d a => Sys2Proof.Machine.execCtz w d a s
  | .popc w d a => Sys2Proof.Machine.execPopc w d a s
  | .sext w d a c => Sys2Proof.Machine.execSext w d a c s
  | .zext w d a c => Sys2Proof.Machine.execZext w d a c s
  | .addsh w d a b vs => Sys2Proof.Machine.execAddsh w d a b vs s
  | .csel w d a b c => Sys2Proof.Machine.execCsel w d a b c s
  | .chcfg w c a b l => Sys2Proof.Machine.execChcfg w c a b l s
  | .chidx w d c l => Sys2Proof.Machine.execChidx w d c l s
  | .addi w d a vi => Sys2Proof.Machine.execAddi w d a vi s
  | .andi w d a vi => Sys2Proof.Machine.execAndi w d a vi s
  | .ori w d a vi => Sys2Proof.Machine.execOri w d a vi s
  | .xori w d a vi => Sys2Proof.Machine.execXori w d a vi s
  | .slti w d a vi => Sys2Proof.Machine.execSlti w d a vi s
  | .slli w d a vs => Sys2Proof.Machine.execSlli w d a vs s
  | .srli w d a vs => Sys2Proof.Machine.execSrli w d a vs s
  | .srai w d a vs => Sys2Proof.Machine.execSrai w d a vs s
  | .bfx w d a l p => Sys2Proof.Machine.execBfx w d a l p s
  | .bfi w d a l p => Sys2Proof.Machine.execBfi w d a l p s
  | .lih w d vi => Sys2Proof.Machine.execLih w d vi s
  | .jal w d o => Sys2Proof.Machine.execJal w d o s
  | .jalr w d a vi => Sys2Proof.Machine.execJalr w d a vi s
  | .beq w a b o => Sys2Proof.Machine.execBeq w a b o s
  | .bne w a b o => Sys2Proof.Machine.execBne w a b o s
  | .blt w a b o => Sys2Proof.Machine.execBlt w a b o s
  | .bge w a b o => Sys2Proof.Machine.execBge w a b o s
  | .blo w a b o => Sys2Proof.Machine.execBlo w a b o s
  | .bhs w a b o => Sys2Proof.Machine.execBhs w a b o s
  | .chloop w c o => Sys2Proof.Machine.execChloop w c o s
  | .ld w d a vs o => Sys2Proof.Machine.execLd w d a vs o s
  | .ldz w d a vs o => Sys2Proof.Machine.execLdz w d a vs o s
  | .st w b a vs o => Sys2Proof.Machine.execSt w b a vs o s
  | .ldgW w d a c o => Sys2Proof.Machine.execLdgW w d a c o s
  | .ldgD w d a c o => Sys2Proof.Machine.execLdgD w d a c o s
  | .stgW w b a c o => Sys2Proof.Machine.execStgW w b a c o s
  | .stgD w b a c o => Sys2Proof.Machine.execStgD w b a c o s
  | .ldbit w d a n => Sys2Proof.Machine.execLdbit w d a n s
  | .stbit w a b n => Sys2Proof.Machine.execStbit w a b n s
  | .amoAdd w d a b c vs => Sys2Proof.Machine.execAmoAdd w d a b c vs s
  | .amoAnd w d a b c vs => Sys2Proof.Machine.execAmoAnd w d a b c vs s
  | .amoOr w d a b c vs => Sys2Proof.Machine.execAmoOr w d a b c vs s
  | .amoXor w d a b c vs => Sys2Proof.Machine.execAmoXor w d a b c vs s
  | .amoMin w d a b c vs => Sys2Proof.Machine.execAmoMin w d a b c vs s
  | .amoMax w d a b c vs => Sys2Proof.Machine.execAmoMax w d a b c vs s
  | .amoMinw w d a b c vs => Sys2Proof.Machine.execAmoMinw w d a b c vs s
  | .amoMaxw w d a b c vs => Sys2Proof.Machine.execAmoMaxw w d a b c vs s
  | .amoSwap w d a b c vs => Sys2Proof.Machine.execAmoSwap w d a b c vs s
  | .amoCas w d a b c vs => Sys2Proof.Machine.execAmoCas w d a b c vs s
  | .amsend w a b m n c => Sys2Proof.Machine.execAmsend w a b m n c s
  | .nput w a d vs t => Sys2Proof.Machine.execNput w a d vs t s
  | .nclr w t => Sys2Proof.Machine.execNclr w t s
  | .ccinc w a n => Sys2Proof.Machine.execCcinc w a n s
  | .ccset w a n => Sys2Proof.Machine.execCcset w a n s
  | .waitlt w a n => Sys2Proof.Machine.execWaitlt w a n s
  | .csrr w d r => Sys2Proof.Machine.execCsrr w d r s
  | .csrw w d a r => Sys2Proof.Machine.execCsrw w d a r s
  | .csrs w d a r => Sys2Proof.Machine.execCsrs w d a r s
  | .csrc w d a r => Sys2Proof.Machine.execCsrc w d a r s
  | .tret w => Sys2Proof.Machine.execTret w s
  | .done w => Sys2Proof.Machine.execDone w s
  | .yield w => Sys2Proof.Machine.execYield w s
  | .isync w => Sys2Proof.Machine.execIsync w s
  | .fenceTask w => Sys2Proof.Machine.execFenceTask w s
  | .fenceCore w => Sys2Proof.Machine.execFenceCore w s
  | .fenceCol w => Sys2Proof.Machine.execFenceCol w s
  | .fenceDie w => Sys2Proof.Machine.execFenceDie w s
  | .fencePkg w => Sys2Proof.Machine.execFencePkg w s
  | .fenceCard w => Sys2Proof.Machine.execFenceCard w s
  | .spl w g f e c => Sys2Proof.Machine.execSpl w g f e c s
  | .fil w g f e c => Sys2Proof.Machine.execFil w g f e c s
  | .svc w vi => Sys2Proof.Machine.execSvc w vi s
  | .brk w vi => Sys2Proof.Machine.execBrk w vi s
  | .vadd w t d a b k => Sys2Proof.Machine.execVadd w t d a b k s
  | .vsub w t d a b k => Sys2Proof.Machine.execVsub w t d a b k s
  | .vmul w t d a b k => Sys2Proof.Machine.execVmul w t d a b k s
  | .vmin w t d a b k => Sys2Proof.Machine.execVmin w t d a b k s
  | .vmax w t d a b k => Sys2Proof.Machine.execVmax w t d a b k s
  | .vabs w t d a k => Sys2Proof.Machine.execVabs w t d a k s
  | .vneg w t d a k => Sys2Proof.Machine.execVneg w t d a k s
  | .vadds w t d a b k => Sys2Proof.Machine.execVadds w t d a b k s
  | .vsubs w t d a b k => Sys2Proof.Machine.execVsubs w t d a b k s
  | .vmulh w t d a b k => Sys2Proof.Machine.execVmulh w t d a b k s
  | .vand w t d a b k => Sys2Proof.Machine.execVand w t d a b k s
  | .vor w t d a b k => Sys2Proof.Machine.execVor w t d a b k s
  | .vxor w t d a b k => Sys2Proof.Machine.execVxor w t d a b k s
  | .vsll w t d a b k => Sys2Proof.Machine.execVsll w t d a b k s
  | .vsrl w t d a b k => Sys2Proof.Machine.execVsrl w t d a b k s
  | .vsra w t d a b k => Sys2Proof.Machine.execVsra w t d a b k s
  | .vceq w t d a b k => Sys2Proof.Machine.execVceq w t d a b k s
  | .vcne w t d a b k => Sys2Proof.Machine.execVcne w t d a b k s
  | .vclt w t d a b k => Sys2Proof.Machine.execVclt w t d a b k s
  | .vcle w t d a b k => Sys2Proof.Machine.execVcle w t d a b k s
  | .vredsum w t d a k => Sys2Proof.Machine.execVredsum w t d a k s
  | .vredmin w t d a k => Sys2Proof.Machine.execVredmin w t d a k s
  | .vredmax w t d a k => Sys2Proof.Machine.execVredmax w t d a k s
  | .vsel w t d a b k => Sys2Proof.Machine.execVsel w t d a b k s
  | .vdiv w t d a b k => Sys2Proof.Machine.execVdiv w t d a b k s
  | .vsqrt w t d a k => Sys2Proof.Machine.execVsqrt w t d a k s
  | .vcvt w d a vs k c => Sys2Proof.Machine.execVcvt w d a vs k c s
  | .vpack w d a f k p => Sys2Proof.Machine.execVpack w d a f k p s
  | .vunpack w d a f k p => Sys2Proof.Machine.execVunpack w d a f k p s
  | .vbscale w d a f k p => Sys2Proof.Machine.execVbscale w d a f k p s
  | .vbhdr w d a f k p => Sys2Proof.Machine.execVbhdr w d a f k p s
  | .vmov w d a k => Sys2Proof.Machine.execVmov w d a k s
  | .vbcast w d a c => Sys2Proof.Machine.execVbcast w d a c s
  | .vperm w d a b k => Sys2Proof.Machine.execVperm w d a b k s
  | .vslideup w d a m k => Sys2Proof.Machine.execVslideup w d a m k s
  | .vslidedn w d a m k => Sys2Proof.Machine.execVslidedn w d a m k s
  | .vxget w d a vi c => Sys2Proof.Machine.execVxget w d a vi c s
  | .vxput w d a vi c => Sys2Proof.Machine.execVxput w d a vi c s
  | .vrget w d a k => Sys2Proof.Machine.execVrget w d a k s
  | .vmand w d a b => Sys2Proof.Machine.execVmand w d a b s
  | .vmor w d a b => Sys2Proof.Machine.execVmor w d a b s
  | .vmxor w d a b => Sys2Proof.Machine.execVmxor w d a b s
  | .vmnot w d a => Sys2Proof.Machine.execVmnot w d a s
  | .vmset w d a => Sys2Proof.Machine.execVmset w d a s
  | .vmget w d a => Sys2Proof.Machine.execVmget w d a s
  | .vfmaF32 w d a b c => Sys2Proof.Machine.execVfmaF32 w d a b c s
  | .vfmaF16 w d a b c => Sys2Proof.Machine.execVfmaF16 w d a b c s
  | .vfmaBf16 w d a b c => Sys2Proof.Machine.execVfmaBf16 w d a b c s
  | .vfnmaF32 w d a b c => Sys2Proof.Machine.execVfnmaF32 w d a b c s
  | .vfnmaF16 w d a b c => Sys2Proof.Machine.execVfnmaF16 w d a b c s
  | .vfnmaBf16 w d a b c => Sys2Proof.Machine.execVfnmaBf16 w d a b c s
  | .vmaccS32 w d a b c => Sys2Proof.Machine.execVmaccS32 w d a b c s
  | .vmaccW32 w d a b c => Sys2Proof.Machine.execVmaccW32 w d a b c s
  | .vld w d a o => Sys2Proof.Machine.execVld w d a o s
  | .vst w vs a o => Sys2Proof.Machine.execVst w vs a o s
  | .vexp2 w d a k t => Sys2Proof.Machine.execVexp2 w d a k t s
  | .vlog2 w d a k t => Sys2Proof.Machine.execVlog2 w d a k t s
  | .vrcp w d a k t => Sys2Proof.Machine.execVrcp w d a k t s
  | .vrsqrt w d a k t => Sys2Proof.Machine.execVrsqrt w d a k t s
  | .vtanh w d a k t => Sys2Proof.Machine.execVtanh w d a k t s
  | .vsin w d a k t => Sys2Proof.Machine.execVsin w d a k t s
  | .vcos w d a k t => Sys2Proof.Machine.execVcos w d a k t s
  | .vsigm w d a k t => Sys2Proof.Machine.execVsigm w d a k t s
  | .mwr w a n d => Sys2Proof.Machine.execMwr w a n d s
  | .mlds w a b n => Sys2Proof.Machine.execMlds w a b n s
  | .mswap w => Sys2Proof.Machine.execMswap w s
  | .mstr w a b n d g c => Sys2Proof.Machine.execMstr w a b n d g c s
  | .macfg w a f d => Sys2Proof.Machine.execMacfg w a f d s
  | .marel w f d => Sys2Proof.Machine.execMarel w f d s
  | .mgang w a b => Sys2Proof.Machine.execMgang w a b s
  | .mwait w => Sys2Proof.Machine.execMwait w s
  | .mrd w v m d k f => Sys2Proof.Machine.execMrd w v m d k f s
  | .gpatch w a b => Sys2Proof.Machine.execGpatch w a b s
  | .gcell w a b f => Sys2Proof.Machine.execGcell w a b f s
  | .grd w a d => Sys2Proof.Machine.execGrd w a d s
  | .gclk w a n => Sys2Proof.Machine.execGclk w a n s
  | .gstep w a m c n => Sys2Proof.Machine.execGstep w a m c n s
  | .grun w m c n => Sys2Proof.Machine.execGrun w m c n s
  | .ghalt w n => Sys2Proof.Machine.execGhalt w n s
  | .gsave w a b m c k => Sys2Proof.Machine.execGsave w a b m c k s
  | .grest w a b m c k => Sys2Proof.Machine.execGrest w a b m c k s
  | .gstat w a d => Sys2Proof.Machine.execGstat w a d s
  | .ginj w vs k => Sys2Proof.Machine.execGinj w vs k s
  | .gtap w d vs k => Sys2Proof.Machine.execGtap w d vs k s
  | .qrsv w d n => Sys2Proof.Machine.execQrsv w d n s
  | .qpush w a b l m n => Sys2Proof.Machine.execQpush w a b l m n s
  | .qpop w d n => Sys2Proof.Machine.execQpop w d n s
  | .qrel w n => Sys2Proof.Machine.execQrel w n s
  | .qflush w a n => Sys2Proof.Machine.execQflush w a n s
  | .qmark w a n => Sys2Proof.Machine.execQmark w a n s
  | .qmarkH w a n => Sys2Proof.Machine.execQmarkH w a n s
  | .ald w a b n => Sys2Proof.Machine.execAld w a b n s
  | .ast w a b n => Sys2Proof.Machine.execAst w a b n s
  | .aopRed w a n e => Sys2Proof.Machine.execAopRed w a n e s
  | .aopCmpx w a n e => Sys2Proof.Machine.execAopCmpx w a n e s
  | .aopSacc w a n e => Sys2Proof.Machine.execAopSacc w a n e s
  | .aopDot w a n e => Sys2Proof.Machine.execAopDot w a n e s
  | .vproj w a m c k q => Sys2Proof.Machine.execVproj w a m c k q s
  | .vprojLap2 w a b m c => Sys2Proof.Machine.execVprojLap2 w a b m c s
  | .hmerge w a m c => Sys2Proof.Machine.execHmerge w a m c s
  | .hread w a d => Sys2Proof.Machine.execHread w a d s
  | .snorm w a => Sys2Proof.Machine.execSnorm w a s
  | .sdraw w a d => Sys2Proof.Machine.execSdraw w a d s
  | .slabel w a b => Sys2Proof.Machine.execSlabel w a b s
  | .cqpush w a n e c h => Sys2Proof.Machine.execCqpush w a n e c h s
  | .cqpushNb w a d n e c h => Sys2Proof.Machine.execCqpushNb w a d n e c h s
  | .wmwait w a n => Sys2Proof.Machine.execWmwait w a n s
  | .barArrive w a m => Sys2Proof.Machine.execBarArrive w a m s
  | .barExpect w a m => Sys2Proof.Machine.execBarExpect w a m s
  | .barWait w a m => Sys2Proof.Machine.execBarWait w a m s
  | .barTry w d m => Sys2Proof.Machine.execBarTry w d m s
  | .trapEntry => Sys2Proof.Machine.execTrapEntry s
  | .draughtInstructionLimit => Sys2Proof.Machine.execDraughtInstructionLimit s
  | .slotFreeze => Sys2Proof.Machine.execSlotFreeze s
  | .bindSeedTask => Sys2Proof.Machine.execBindSeedTask s
  | .bindStageTasks => Sys2Proof.Machine.execBindStageTasks s
  | .bindTileTask => Sys2Proof.Machine.execBindTileTask s
  | .accessAtHome => Sys2Proof.Machine.execAccessAtHome s
  | .accessReply => Sys2Proof.Machine.execAccessReply s
  | .amoStep => Sys2Proof.Machine.execAmoStep s
  | .amsendArrival => Sys2Proof.Machine.execAmsendArrival s
  | .letterboxAccept => Sys2Proof.Machine.execLetterboxAccept s
  | .amsendReply => Sys2Proof.Machine.execAmsendReply s
  | .handlerStart => Sys2Proof.Machine.execHandlerStart s
  | .handlerLongAbort => Sys2Proof.Machine.execHandlerLongAbort s
  | .copyStart => Sys2Proof.Machine.execCopyStart s
  | .copyComplete => Sys2Proof.Machine.execCopyComplete s
  | .nputLanding => Sys2Proof.Machine.execNputLanding s
  | .granuleSave => Sys2Proof.Machine.execGranuleSave s
  | .granuleRestore => Sys2Proof.Machine.execGranuleRestore s
  | .matrixOpBegin => Sys2Proof.Machine.execMatrixOpBegin s
  | .matrixOpComplete => Sys2Proof.Machine.execMatrixOpComplete s
  | .geyserBoundary => Sys2Proof.Machine.execGeyserBoundary s
  | .geyserClockHalt => Sys2Proof.Machine.execGeyserClockHalt s
  | .geyserLinkIncrement => Sys2Proof.Machine.execGeyserLinkIncrement s
  | .gsaveComplete => Sys2Proof.Machine.execGsaveComplete s
  | .grestComplete => Sys2Proof.Machine.execGrestComplete s
  | .reservationAtHome => Sys2Proof.Machine.execReservationAtHome s
  | .reservationGrant => Sys2Proof.Machine.execReservationGrant s
  | .commitAtHome => Sys2Proof.Machine.execCommitAtHome s
  | .releaseAtHome => Sys2Proof.Machine.execReleaseAtHome s
  | .linkedRelease => Sys2Proof.Machine.execLinkedRelease s
  | .drainEnd => Sys2Proof.Machine.execDrainEnd s
  | .drainAllowanceExpiry => Sys2Proof.Machine.execDrainAllowanceExpiry s
  | .draughtForward => Sys2Proof.Machine.execDraughtForward s
  | .columnFault => Sys2Proof.Machine.execColumnFault s
  | .readySlotTimeout => Sys2Proof.Machine.execReadySlotTimeout s
  | .aldLineLanding => Sys2Proof.Machine.execAldLineLanding s
  | .astLineWrite => Sys2Proof.Machine.execAstLineWrite s
  | .astAcknowledgement => Sys2Proof.Machine.execAstAcknowledgement s
  | .atticScrub => Sys2Proof.Machine.execAtticScrub s
  | .partLoss => Sys2Proof.Machine.execPartLoss s
  | .aopAccept => Sys2Proof.Machine.execAopAccept s
  | .aopBegin => Sys2Proof.Machine.execAopBegin s
  | .aopComplete => Sys2Proof.Machine.execAopComplete s
  | .launch => Sys2Proof.Machine.execLaunch s
  | .preempt => Sys2Proof.Machine.execPreempt s
  | .preemptAndHold => Sys2Proof.Machine.execPreemptAndHold s
  | .resume => Sys2Proof.Machine.execResume s
  | .endPartition => Sys2Proof.Machine.execEndPartition s
  | .recq => Sys2Proof.Machine.execRecq s
  | .heldWriteTaken => Sys2Proof.Machine.execHeldWriteTaken s
  | .portseed => Sys2Proof.Machine.execPortseed s
  | .admission => Sys2Proof.Machine.execAdmission s
  | .configComplete => Sys2Proof.Machine.execConfigComplete s
  | .lendingSample => Sys2Proof.Machine.execLendingSample s
  | .coreHandover => Sys2Proof.Machine.execCoreHandover s
  | .recordCompletion => Sys2Proof.Machine.execRecordCompletion s
  | .partitionHalted => Sys2Proof.Machine.execPartitionHalted s
  | .restoreComplete => Sys2Proof.Machine.execRestoreComplete s
  | .modelSwitch => Sys2Proof.Machine.execModelSwitch s
  | .switchRebind => Sys2Proof.Machine.execSwitchRebind s
  | .columnRestart => Sys2Proof.Machine.execColumnRestart s
  | .invalidatePage => Sys2Proof.Machine.execInvalidatePage s
  | .invalidatePartition => Sys2Proof.Machine.execInvalidatePartition s
  | .invalidateAll => Sys2Proof.Machine.execInvalidateAll s
  | .invalidationComplete => Sys2Proof.Machine.execInvalidationComplete s
  | .rangeWrite => Sys2Proof.Machine.execRangeWrite s
  | .pageWalkComplete => Sys2Proof.Machine.execPageWalkComplete s
  | .dwq => Sys2Proof.Machine.execDwq s
  | .dwqp => Sys2Proof.Machine.execDwqp s
  | .dwqr => Sys2Proof.Machine.execDwqr s
  | .dumbwaiterStart => Sys2Proof.Machine.execDumbwaiterStart s
  | .dumbwaiterComplete => Sys2Proof.Machine.execDumbwaiterComplete s
  | .dumbwaiterChannelFault => Sys2Proof.Machine.execDumbwaiterChannelFault s
  | .bcfgWrite => Sys2Proof.Machine.execBcfgWrite s
  | .blinkWrite => Sys2Proof.Machine.execBlinkWrite s
  | .barrierArrival => Sys2Proof.Machine.execBarrierArrival s
  | .barrierExpect => Sys2Proof.Machine.execBarrierExpect s
  | .barrierDecrement => Sys2Proof.Machine.execBarrierDecrement s
  | .barrierPhaseComplete => Sys2Proof.Machine.execBarrierPhaseComplete s
  | .barrierGroupRelease => Sys2Proof.Machine.execBarrierGroupRelease s
  | .barrierWindowClose => Sys2Proof.Machine.execBarrierWindowClose s
  | .arrivalToken => Sys2Proof.Machine.execArrivalToken s
  | .releaseToken => Sys2Proof.Machine.execReleaseToken s
  | .breakToken => Sys2Proof.Machine.execBreakToken s
  | .gddrBurstError => Sys2Proof.Machine.execGddrBurstError s
  | .hmergeSourceAnswer => Sys2Proof.Machine.execHmergeSourceAnswer s
  | .hmergeApply => Sys2Proof.Machine.execHmergeApply s
  | .vprojComplete => Sys2Proof.Machine.execVprojComplete s
  | .mbin => Sys2Proof.Machine.execMbin s
  | .mbinpop => Sys2Proof.Machine.execMbinpop s
  | .mbout => Sys2Proof.Machine.execMbout s
  | .mboutpop => Sys2Proof.Machine.execMboutpop s
  | .fdbase => Sys2Proof.Machine.execFdbase s
  | .flbase => Sys2Proof.Machine.execFlbase s
  | .kvpool => Sys2Proof.Machine.execKvpool s
  | .kvsize => Sys2Proof.Machine.execKvsize s
  | .kvref => Sys2Proof.Machine.execKvref s
  | .ajbase => Sys2Proof.Machine.execAjbase s
  | .cjbase => Sys2Proof.Machine.execCjbase s
  | .jcons => Sys2Proof.Machine.execJcons s
  | .portdone => Sys2Proof.Machine.execPortdone s
  | .seedReport => Sys2Proof.Machine.execSeedReport s
  | .kvq => Sys2Proof.Machine.execKvq s
  | .kvqp => Sys2Proof.Machine.execKvqp s
  | .alloc => Sys2Proof.Machine.execAlloc s
  | .append => Sys2Proof.Machine.execAppend s
  | .commit => Sys2Proof.Machine.execCommit s
  | .fork => Sys2Proof.Machine.execFork s
  | .free => Sys2Proof.Machine.execFree s
  | .lookup => Sys2Proof.Machine.execLookup s
  | .insert => Sys2Proof.Machine.execInsert s
  | .evict => Sys2Proof.Machine.execEvict s
  | .stage => Sys2Proof.Machine.execStage s
  | .pageout => Sys2Proof.Machine.execPageout s
  | .pagein => Sys2Proof.Machine.execPagein s
  | .fldone => Sys2Proof.Machine.execFldone s
  | .ksload => Sys2Proof.Machine.execKsload s
  | .keyBlobUnwrap => Sys2Proof.Machine.execKeyBlobUnwrap s
  | .ksown => Sys2Proof.Machine.execKsown s
  | .status => Sys2Proof.Machine.execStatus s
  | .selftest => Sys2Proof.Machine.execSelftest s
  | .log => Sys2Proof.Machine.execLog s
  | .attest => Sys2Proof.Machine.execAttest s
  | .recover => Sys2Proof.Machine.execRecover s
  | .minver => Sys2Proof.Machine.execMinver s
  | .unknownCommand => Sys2Proof.Machine.execUnknownCommand s
  | .coldStart => Sys2Proof.Machine.execColdStart s
  | .warmStart => Sys2Proof.Machine.execWarmStart s
  | .wakeFromDormant => Sys2Proof.Machine.execWakeFromDormant s
  | .sleepctl => Sys2Proof.Machine.execSleepctl s
  | .wakeFrame => Sys2Proof.Machine.execWakeFrame s
  | .mctpWakeMessage => Sys2Proof.Machine.execMctpWakeMessage s
  | .dormantAccess => Sys2Proof.Machine.execDormantAccess s
  | .throttleRaise => Sys2Proof.Machine.execThrottleRaise s
  | .throttleLower => Sys2Proof.Machine.execThrottleLower s
  | .meshHopFailure => Sys2Proof.Machine.execMeshHopFailure s
  | .flitSend => Sys2Proof.Machine.execFlitSend s
  | .flitReceive => Sys2Proof.Machine.execFlitReceive s
  | .flitAcknowledgement => Sys2Proof.Machine.execFlitAcknowledgement s
  | .laneFailure => Sys2Proof.Machine.execLaneFailure s
  | .linkLost => Sys2Proof.Machine.execLinkLost s
  | .rerouteComplete => Sys2Proof.Machine.execRerouteComplete s
  | .packageOutOfService => Sys2Proof.Machine.execPackageOutOfService s
  | .w1cClear => Sys2Proof.Machine.execW1cClear s
  | .registerWrite => Sys2Proof.Machine.execRegisterWrite s
  | .localMemoryScrub => Sys2Proof.Machine.execLocalMemoryScrub s
  | .boardTest => Sys2Proof.Machine.execBoardTest s

end Sys2Proof.Machine
end

