-- ==== Sys2Proof/Machine/Step.lean ====
section
/-! DEFINITION. One step of the card, and the placing of an instruction where the next step fetches it. -/
namespace Sys2Proof.Machine
open Sys2Proof

/-- One step: a hardware step that is due, one instruction of a ready slot, or the passing of time. -/
def step (s : State) : Host.Outcome State Fault Refusal :=
  match plan s with
  | .quiet t => .next t
  | .event i t => exec i t
  | .instr i short t =>
    match exec i t with
    | .next u => .next (finishInstr i short u)
    | o => o
  | .observe i t =>
    match exec i (trialState t), exec i t with
    | .next p, .next u => .next (if trialFirst i t p then finishInstr i false u else deliverObserved i t)
    | _, o => o

/-- Stores an instruction where the next step fetches it: core 0, slot 0, at virtual address 0, which range entry 0 of
package 0's translation unit maps for fetch to the first page of its GDDR-7. Log entry 17. -/
def State.withFetchWord (s : State) (_nbits w : Nat) : State :=
  let s := { s with agenda := [] }
  let s := modPkg s 0 (fun p => { p with st := .running, throttle := 0, poison := p.poison.filter (· != 0) })
  let s := setReg s (ccWin 0 0x200) (getReg s (ccWin 0 0x200) ||| 1)
  let s := setReg s (dieWin 0 uTrans 0) 0
  let s := setReg s (dieWin 0 uTrans 8) 0
  let s := setReg s (dieWin 0 uTrans 16) 0
  let s := setReg s (dieWin 0 uTrans 24) 0x38
  let s := modCore s 0 (fun c => { c with rr := 3, nextIssue := s.now })
  let s := modSlot s 0 4 (fun t => { t with stall := some s.ver })
  let s := modSlot s 0 0 (fun t => { t with
    st := if bitOf t.status 0 then .trap else .run, pc := 0, part := 0, fbuf := [], ready := s.now, stall := none, pend := [],
    w7 := false, present := 0xFF, errs := [], records := [], freezing := false, yielding := none, flagDue := 0 })
  wrN s 0 4 w

end Sys2Proof.Machine
end

