-- ==== Sys2Proof/Safety.lean ====
section
/-! DEFINITION. What counts as a safe step and a safe run, and the words in which statements say what a step leaves. -/
namespace Sys2Proof.Safety
open Sys2Proof Sys2Proof.Machine

/-- A step is safe when the machine goes on. -/
def StepSafe (s : State) : Prop := ∃ t, step s = .next t

/-- A run of `n` steps is safe when each of its steps is. -/
def RunSafe : Nat → State → Prop
  | 0, _ => True
  | n + 1, s => ∃ t, step s = .next t ∧ RunSafe n t

/-- Memory stands in canonical form: addresses strictly rise, and no listed byte is what an unlisted one reads as. -/
def MemCanonical (s : State) : Prop := memWf s.mem = true

/-! ### Registers as a later cycle finds them -/

/-- The issuing slot as its registers stand in cycle `n`: the writes due by then have landed (R35, R38). -/
def slotAt (s : State) (n : Nat) : Slot := (me s).landDue (s.curSlot == 4) n

/-- A slot but for what its going on to another instruction sets, and for the fixed-latency writes still to land. -/
def bare (u : Slot) : Slot :=
  { u with
    pc := 0, w7 := false, stall := none, ready := 0, pend := u.pend.filter (fun p => p.var) }

/-- A slot with a scalar register written: x0 is left alone (R64), and x24 to x31 become present (R169). -/
def putX (u : Slot) (d : Nat) (v : W64) : Slot :=
  if d = 0 then u else
    { u with
      x := vset u.x d v
      present := if 24 ≤ d then u.present ||| BitVec.ofNat 8 (2 ^ (d - 24)) else u.present }
/-- A slot with a vector register written. -/
def putV (u : Slot) (d : Nat) (v : W256) : Slot := { u with v := vset u.v d v }
/-- A slot with a mask register written. -/
def putK (u : Slot) (d : Nat) (v : W32) : Slot := { u with k := vset u.k d v }

/-! ### Frames -/

/-- Nothing but the issuing slot differs, and whether an instruction has issued in this turn. -/
def MineOnly (s t : State) : Prop :=
  { t with slots := s.slots, issued := s.issued } = s ∧
  ∀ key, key ≠ slotKey s.curCore s.curSlot → t.slots.find key = s.slots.find key

/-- The issuing slot has issued, stands at `target`, and issues again after its wait count and `more` cycles (R34, R36). -/
def Goes (s t : State) (w : BitVec 3) (target : W64) (more : Nat) : Prop :=
  t.issued = true ∧ (me t).pc = target ∧ (me t).w7 = (w == 7) ∧ (me t).stall = none ∧
  (me t).ready = s.now + 1 + (if w = 7 then 0 else w.toNat) + more

/-- The issuing slot has issued and stands at the next word. -/
def Onward (s t : State) (w : BitVec 3) : Prop := Goes s t w ((me s).pc + 4) 0

/-- An instruction completes with one register write: it goes on to the next word, what it writes is read from `lat`
cycles later, and nothing else differs. -/
def Writes (i : Instr) (s : State) (w : BitVec 3) (lat : Nat) (eff : Slot → Slot) : Prop :=
  ∃ t, exec i s = .next t ∧ Onward s t w ∧ MineOnly s t ∧
    ∀ n, bare (slotAt t n) = bare (if n < s.now + lat then slotAt s n else eff (slotAt s n))
/-- `Writes` to a scalar register. -/
def GivesX (i : Instr) (s : State) (w : BitVec 3) (d : BitVec 5) (lat : Nat) (v : W64) : Prop :=
  Writes i s w lat (fun u => putX u d.toNat v)
/-- `Writes` to a vector register. -/
def GivesV (i : Instr) (s : State) (w : BitVec 3) (d : BitVec 5) (lat : Nat) (v : W256) : Prop :=
  Writes i s w lat (fun u => putV u d.toNat v)
/-- `Writes` to a mask register. -/
def GivesK {n : Nat} (i : Instr) (s : State) (w : BitVec 3) (d : BitVec n) (lat : Nat) (v : W32) : Prop :=
  Writes i s w lat (fun u => putK u d.toNat v)

/-! ### Control transfers and chains -/

/-- Whether a word stands in the issuing slot's fetch buffer (R109). -/
def inBuffer (s : State) (target : W64) : Bool := (me s).fbuf.any (fun p => p.1 == target.toNat)

/-- An instruction completes by continuing at `target`, 3 cycles later and with an empty fetch buffer where the target is
not in it (R72); what it writes to a register is read from `lat` cycles later, and nothing else differs. -/
def Jumps (i : Instr) (s : State) (w : BitVec 3) (target : W64) (lat : Nat) (eff : Slot → Slot) : Prop :=
  ∃ t, exec i s = .next t ∧ Goes s t w target (if inBuffer s target then 0 else 3) ∧ MineOnly s t ∧
    ∀ n, bare (slotAt t n) = bare { (if n < s.now + lat then slotAt s n else eff (slotAt s n)) with
      fbuf := if inBuffer s target then (me s).fbuf else [] }

/-- A conditional branch: to the target where its condition holds, else on to the next word; it writes no register. -/
def Branches (i : Instr) (s : State) (w : BitVec 3) (o : BitVec 13) (c : Prop) : Prop :=
  (c → Jumps i s w ((me s).pc + 4 * o.signExtend 64) 0 id) ∧ (¬c → Writes i s w 0 id)

/-- Whether a level of a chain stands at its last iteration (R77). -/
def atLast (u : Slot) (c l : Nat) : Bool := (chainLevel u c l).i + 1 == (chainLevel u c l).n

/-- A level of a chain after the chain advances: a level moves when every active level below it wraps (R76). -/
def advanced (u : Slot) (c l : Nat) : Level :=
  let v := chainLevel u c l
  if l < activeDepth u c ∧ (List.range l).all (fun k => atLast u c k) then { v with i := if v.i + 1 = v.n then 0 else v.i + 1 } else v

/-! ### Traps -/

/-- The cycle in which the last pending fixed-latency write of the issuing slot lands, no earlier than the next. -/
def lastDue (s : State) : Nat := ((me s).pend.filter (fun p => !p.var)).foldl (fun a p => max a p.due) (s.now + 1)

/-- The entry of a precise trap of a task slot that is not in a trap already: its pending writes land, then TRAPCAUSE, TRAPPC and
TRAPVAL are written, PLVL takes LVL, LVL and INTRAP become 1, and the slot continues at the cause's stub of the trap vector, with
nothing else changed (R84 to R86, R41). -/
def TrapEntry (s t : State) (cause unit : Nat) (value pc : W64) : Prop :=
  t.issued = true ∧ MineOnly s t ∧
    me t = { slotAt s (lastDue s) with
      trapcause := BitVec.ofNat 64 (unit * 4096 + cause), trapval := value, trappc := pc &&& 0xFFFFFFFFFFFFC,
      status := (me t).status, pc := tvecOf s s.curCore s.curSlot + BitVec.ofNat 64 (64 * cause), st := .trap, fbuf := [],
      ready := lastDue s, w7 := false, stall := none, request := none, replied := none } ∧
    ∀ j, (me t).status.getLsbD j =
      if j = 0 ∨ j = 2 then true else if j = 1 then (slotAt s (lastDue s)).status.getLsbD 0
      else (slotAt s (lastDue s)).status.getLsbD j
/-- An instruction traps, by that entry from the state it met. -/
def Traps (i : Instr) (s : State) (cause unit : Nat) (value pc : W64) : Prop :=
  ∃ t, exec i s = .next t ∧ TrapEntry s t cause unit value pc

/-- Whether a task slot can take a trap that is not a double trap. -/
def canTrap (s : State) : Prop := s.curSlot < 4 ∧ inTrap (me s) = false

/-! ### Control registers -/

/-- No control-register or flag write of the issuing slot is still to land later than one made now (R79). -/
def csrQuiet (s : State) : Prop :=
  ∀ p ∈ (me s).pend, p.var = false → p.file = .csr ∨ p.file = .flags → p.due ≤ s.now + 2

/-- The value a `csrw`, `csrs` or `csrc` would produce in a register of the issuing slot (Table 3-7). -/
inductive CsrOp where
  | write | set | clear
  deriving DecidableEq, Repr
def CsrOp.new (op : CsrOp) (old v : W64) : W64 :=
  match op with
  | .write => v
  | .set => old ||| v
  | .clear => old &&& ~~~v
def CsrOp.instr (op : CsrOp) (w : BitVec 3) (d a : BitVec 5) (r : BitVec 11) : Instr :=
  match op with
  | .write => .csrw w d a r
  | .set => .csrs w d a r
  | .clear => .csrc w d a r

/-- Whether a write of `v` to a control register is one that the issuing slot's level allows: at task level no field that
only system level writes may change (R20, R21, R79). -/
def csrAllowed (s : State) (r : Nat) (v : W64) : Prop :=
  lvlOf (me s) = true ∨ (v ^^^ csrValue s r) &&& sysMask r = 0

/-! ### Local memory -/

/-- The `n` bytes at a byte address of the issuing core's local memory, the lowest address least significant (R6, R93). -/
def localBytesAt (s : State) (a : W64) (n : Nat) : Nat := rdN s (localPa s.curCore a.toNat) n

/-- A local access of `n` bytes that the issuing slot may make now: aligned, inside local memory, allowed by Table 6-2 at its
level, no access of its own still to be performed there (R102), the granules in place (R179), and, for a load, no line of
an `ald` still to land there (R278). -/
def LocalOk (s : State) (a : W64) (n al : Nat) (load dstore : Bool) : Prop :=
  s.curCore < 2048 ∧ a.toNat % al = 0 ∧ a.toNat + n ≤ 0x40000 ∧
  localAllowed s s.curCore s.curSlot (lvlOf (me s)) a.toNat n load dstore = true ∧
  ownPending s s.curCore s.curSlot = false ∧
  touch s s.curCore (partOf s (me s).part) (localGran a.toNat) = .ok ∧
  touch s s.curCore (partOf s (me s).part) (localGran (a.toNat + n - 1)) = .ok ∧
  (load = true → aldShort s s.curCore s.curSlot a.toNat n = none)

/-- No error stands in the local dwords that hold a range of bytes (R94). -/
def CleanLocal (s : State) (a : W64) (n : Nat) : Prop :=
  ∀ k, a.toNat / 8 ≤ k → k * 8 < a.toNat + n → s.localBad.find (localPa s.curCore (8 * k) / 8) = none

/-- An instruction completes by writing memory: every byte reads as `after` says, the slot goes on, and nothing else differs
but the error marks of local dwords, which a write of a whole dword clears (R94). -/
def Stores (i : Instr) (s : State) (w : BitVec 3) (after : Nat → Byte) : Prop :=
  ∃ t, exec i s = .next t ∧ Onward s t w ∧ (∀ x, memByte t x = after x) ∧
    { t with slots := s.slots, issued := s.issued, mem := s.mem, localBad := s.localBad } = s ∧
    (∀ k, t.localBad.find k = s.localBad.find k ∨ t.localBad.find k = none) ∧
    (∀ key, key ≠ slotKey s.curCore s.curSlot → t.slots.find key = s.slots.find key) ∧
    ∀ n, bare { slotAt t n with retry := false } = bare { slotAt s n with retry := false }

/-! ### Accesses that leave the core -/

/-- An access by virtual address that the issuing slot may make now: aligned, translated with the permissions it needs, at its own
core's home behind nothing that must be performed first, and for another home with room in the core's outbound queue (R97, R98,
R104). -/
def GlobalOk (s : State) (a : W64) (size need chain pa : Nat) : Prop :=
  a.toNat % size = 0 ∧
  (∃ perms, xlate s (pkgOfCore s.curCore) s.curCore
      (if s.curSlot = 4 then partOfCore s s.curCore else partOf s (me s).part) a.toNat = (.ok pa perms, s) ∧
    permits perms need (lvlOf (me s)) = true) ∧
  (homeNo (placeOf pa) = s.curCore →
    chainPred s s.curCore s.curSlot chain = none ∧ ownPending s s.curCore s.curSlot = false ∧
    ∀ p ∈ s.flights, ofSlot s.curCore s.curSlot p = true → p.2.home = s.curCore → p.2.performed = true ∨ p.2.sent = true) ∧
  (homeNo (placeOf pa) ≠ s.curCore → outboundFull s = false)

/-- An instruction completes by issuing an access: it stands under the next number with what it captured, the slot goes on
with its registers as `eff` leaves them, and no register, counter, byte of memory or other slot differs. A message alone counts the
time that it waits on its way (R25). -/
def Issues (i : Instr) (s : State) (w : BitVec 3) (f : Flight) (eff : Slot → Slot) : Prop :=
  ∃ t left wait, exec i s = .next t ∧ Onward s t w ∧ t.nextId = s.nextId + 1 ∧ (f.kind ≠ .amsend → wait = f.waitc) ∧
    t.flights.find s.nextId = some { f with pred := chainPred s s.curCore s.curSlot f.chain, sent := left, waitc := wait } ∧
    t.mem = s.mem ∧ t.wregs = s.wregs ∧ t.cores = s.cores ∧ t.cols = s.cols ∧ t.parts = s.parts ∧ t.corrs = s.corrs ∧
    (∀ key, key ≠ slotKey s.curCore s.curSlot → t.slots.find key = s.slots.find key) ∧
    ∀ n, bare (slotAt t n) = bare (eff (slotAt s n))

/-- A slot whose scalar register waits for a reply (R37); x0 waits for none. -/
def awaiting (u : Slot) (d : Nat) : Slot :=
  if d = 0 then u else { u with pend := { file := .x, idx := d, val := 0, due := 0, var := true } :: u.pend }

/-- The core's partition holds every granule of its core, with none of them in a frame of the Pantry (R179). -/
def GranulesHeld (s : State) : Prop := ∀ g,
  (myCore s).owner.get (partOfCore s s.curCore) g = partOfCore s s.curCore ∧
  (myCore s).saved.get false (savedKey (partOfCore s s.curCore) g) = false

/-! ### Vectors -/

/-- The width of an element of a vector type, .s8 .s16 .s32 .w8 .w16 .w32 .f16 .bf16 .f32 in order (R51, R180). -/
def elemWidth (t : BitVec 4) : Nat := [8, 16, 32, 8, 16, 32, 16, 16, 32].getD t.toNat 8
/-- An integer element as its type reads it: two's complement for .s8 to .s32 (R122). -/
def elemInt (t : BitVec 4) (x : Nat) : Int := if t.toNat < 3 then (BitVec.ofNat (elemWidth t) x).toInt else x
/-- An integer as the bits of an element: modulo 2 to the width (R184). -/
def elemBits (t : BitVec 4) (v : Int) : Nat := (BitVec.ofInt (elemWidth t) v).toNat

/-- A vector instruction completes lane by lane: active lanes take `f`, inactive ones keep the destination (R181), and
nothing else differs. -/
def GivesLanes (i : Instr) (s : State) (w : BitVec 3) (d : BitVec 5) (k : BitVec 3) (lat wd n : Nat) (f : Nat → Nat) : Prop :=
  ∃ v, GivesV i s w d lat v ∧
    ∀ j < n, lane v wd j = if (kr s k).getLsbD j then f j else lane (vr s d) wd j

/-- No control-register write of the issuing slot lands after a flag that it raises with latency `lat` (R79). -/
def flagsQuiet (s : State) (lat : Nat) : Prop :=
  ∀ p ∈ (me s).pend, p.var = false → p.file = .csr → p.due ≤ s.now + lat

/-- The flags of the active lanes together. -/
def flagsOf (s : State) (k : BitVec 3) (n : Nat) (f : Nat → Nat × Nat) : Nat :=
  (List.range n).foldl (fun a j => if (kr s k).getLsbD j then Nat.lor a (f j).2 else a) 0

/-- A vector instruction completes with a value and flags, both read from `lat` cycles later; the flags already set stay
(R138). `s'` is the state with the core's generator moved on by the instruction's draws (R133). -/
def GivesDrawn (i : Instr) (s s' : State) (w : BitVec 3) (d : BitVec 5) (lat : Nat) (v : W256) (fl : Nat) : Prop :=
  ∃ t, exec i s = .next t ∧ Onward s' t w ∧ MineOnly s' t ∧
    ∀ n, bare (slotAt t n) = bare { (if n < s.now + lat then slotAt s n else
      { putV (slotAt s n) d.toNat v with flags := (slotAt s n).flags ||| BitVec.ofNat 64 fl }) with
        flagDue := max (me s).flagDue (s.now + lat) }
/-- `GivesDrawn` for an instruction that draws nothing. -/
def GivesFlags (i : Instr) (s : State) (w : BitVec 3) (d : BitVec 5) (lat : Nat) (v : W256) (fl : Nat) : Prop :=
  GivesDrawn i s s w d lat v fl

/-- `GivesLanes` with the flags of the active lanes. -/
def GivesLanesF (i : Instr) (s : State) (w : BitVec 3) (d : BitVec 5) (k : BitVec 3) (lat wd n : Nat) (f : Nat → Nat × Nat) :
    Prop :=
  ∃ v, GivesFlags i s w d lat v (flagsOf s k n f) ∧
    ∀ j < n, lane v wd j = if (kr s k).getLsbD j then (f j).1 else lane (vr s d) wd j

/-- Whether an invalid operation in an active lane is to trap: FIE is set and some active lane raises NV (R137). -/
def invalidTraps (s : State) (k : BitVec 3) (n : Nat) (f : Nat → Nat × Nat) : Prop :=
  fieOf (me s) = true ∧ ∃ j < n, (kr s k).getLsbD j = true ∧ (f j).2 % 2 = 1
/-- TRAPVAL of FP_INVALID: a bit for each active lane that was invalid (R137). -/
def invalidSet (s : State) (k : BitVec 3) (n : Nat) (f : Nat → Nat × Nat) : Nat :=
  (List.range n).foldl (fun a j => if (kr s k).getLsbD j ∧ (f j).2 % 2 = 1 then a + 2 ^ j else a) 0

/-- A vector instruction that may raise flags: it traps FP_INVALID where an invalid operation is to trap, and completes with
its lanes and flags where none is (R84, R137). -/
def LanesOrTrap (i : Instr) (s : State) (w : BitVec 3) (d : BitVec 5) (k : BitVec 3) (lat wd n : Nat) (f : Nat → Nat × Nat) :
    Prop :=
  (¬ invalidTraps s k n f → flagsQuiet s lat → GivesLanesF i s w d k lat wd n f) ∧
  (canTrap s → invalidTraps s k n f → Traps i s 0x0E 0 (BitVec.ofNat 64 (invalidSet s k n f)) (me s).pc)

/-- The state after an instruction has drawn words for `n` elements, and the words, where it draws (R133). -/
def drawn (s : State) (draws : Bool) (n : Nat) : List Nat × State := if draws then drawWords s s.curCore n else ([], s)
/-- Whether a conversion of the issuing slot draws: MODE is 4 and it narrows a float (R132). -/
def convDraws (s : State) (src dst : Nat) : Bool :=
  (me s).rndmode.toNat % 8 == 4 &&
  match fpFmt src, fpFmt dst with
  | some a, some b => decide (b.mb < a.mb ∨ b.eb < a.eb)
  | _, _ => false
/-- The rounding of element `j` of a conversion: by its draw, or by the mode with stochastic rounding read as RNE. -/
def convRnd (s : State) (draws : Bool) (ws : List Nat) (j : Nat) : Rnd :=
  if draws then rndDraw (me s).rndmode (ws.getD j 0) else rndPlain (me s).rndmode

/-! ### Engines -/

/-- A record of `n` bytes that an instruction reads from its core's local memory at issue: aligned, inside the memory that
records may stand in, allowed at the slot's level, with its granule in place and no error in it (R165, R288, R359). -/
def RecordOk (s : State) (p : W64) (n : Nat) : Prop :=
  p.toNat % n = 0 ∧ p.toNat + n ≤ 0x3FE80 ∧ (lvlOf (me s) = true ∨ sysOnlyRange s s.curCore p.toNat n = false) ∧
  LocalOk s p n 1 true false ∧ CleanLocal s p n
/-- The dwords of such a record. -/
def recordAt (s : State) (p : W64) (n : Nat) : List W64 := rd64s s (localPa s.curCore p.toNat) n

/-- No line of an `ald` of the slot can trap STALL_SHORT before what an instruction checks of its record (R40). -/
def NoShort (s : State) : Prop := (me s).waitchk.getLsbD 0 = false ∨ (myCore s).chim = []

/-- Every step on the agenda of one state stands on another's too. -/
def KeepsAgenda (s t : State) : Prop := ∀ p ∈ s.agenda, p ∈ t.agenda
/-- A step stands on the agenda for a cycle, or for an earlier one where that cycle is the present one. -/
def Awaits (t : State) (due : Nat) (ev : Instr) (args : List Nat) : Prop :=
  (due, ev, args) ∈ t.agenda ∨ due = t.now ∧ ∃ d ≤ t.now, (d, ev, args) ∈ t.agenda

/-- An instruction completes by handing work to its core: the slot goes on with its registers as `eff` leaves them in a cycle, the
core is as `own` says, the steps `due` stand on the agenda beside those that stood there, and nothing else differs. `s'` is the state
with the core's generator moved on by the instruction's draws (R133). -/
def EngagesDrawn (i : Instr) (s s' : State) (w : BitVec 3) (eff : Nat → Slot → Slot) (own : Core → Core)
    (due : List (Nat × Instr × List Nat)) : Prop :=
  ∃ t, exec i s = .next t ∧ Onward s' t w ∧
    { t with slots := s'.slots, issued := s'.issued, cores := s'.cores, agenda := s'.agenda, nextId := s'.nextId } = s' ∧
    (∀ key, key ≠ slotKey s'.curCore s'.curSlot → t.slots.find key = s'.slots.find key) ∧
    myCore t = own (myCore s') ∧ (∀ c, c ≠ s'.curCore → t.cores.find c = s'.cores.find c) ∧
    KeepsAgenda s' t ∧ (∀ p ∈ due, Awaits t p.1 p.2.1 p.2.2) ∧ ∀ n, bare (slotAt t n) = bare (eff n (slotAt s' n))
/-- `EngagesDrawn` for an instruction that draws nothing. -/
def Engages (i : Instr) (s : State) (w : BitVec 3) (eff : Slot → Slot) (own : Core → Core) (due : List (Nat × Instr × List Nat)) :
    Prop := EngagesDrawn i s s w (fun _ => eff) own due

/-- An instruction does not issue now: its slot stays at it, and nothing else differs (R40, R152). -/
def Stalls (i : Instr) (s : State) : Prop :=
  ∃ t, exec i s = .next t ∧ t.issued = s.issued ∧ MineOnly s t ∧
    me t = { me s with ready := (me t).ready, stall := (me t).stall }

/-- An instruction sends a request and waits at it for the answer: the request stands under the next number, the slot stays,
and no register, byte of memory or other slot differs. -/
def Asks (i : Instr) (s : State) (f : Flight) : Prop :=
  ∃ t left, exec i s = .next t ∧ t.issued = s.issued ∧ me t = { me s with request := some s.nextId, stall := some s.ver } ∧
    t.flights.find s.nextId = some { f with sent := left } ∧ t.mem = s.mem ∧ t.wregs = s.wregs ∧
    ∀ key, key ≠ slotKey s.curCore s.curSlot → t.slots.find key = s.slots.find key
/-- An instruction whose request has been answered completes: the request ends, what it writes is read from `lat` cycles
later, and nothing else differs. -/
def Answered (i : Instr) (s : State) (w : BitVec 3) (lat : Nat) (eff : Slot → Slot) : Prop :=
  ∃ t, exec i s = .next t ∧ Onward s t w ∧ MineOnly s t ∧
    ∀ n, bare (slotAt t n) = bare { (if n < s.now + lat then slotAt s n else eff (slotAt s n)) with request := none, replied := none }

/-! ### Tasks and steps of the hardware -/

/-- A slot just bound to a task: its entry, the registers of Table 1-6, and the incarnation after the old one (R18, R24). -/
def NewTask (old u : Slot) (pc : W64) (slot coord stack : Nat) (x3 x4 : W64) (check : Bool) : Prop :=
  u.st = .run ∧ u.pc = pc ∧ u.status = 0 ∧ u.flags = 0 ∧ u.rndmode = 0 ∧ u.present = 0xFF ∧ u.v = Vector.replicate 32 0 ∧
  vget 0 u.k 0 = 0xFFFFFFFF ∧ (∀ r, 0 < r → r < 8 → vget 0 u.k r = 0) ∧
  (∀ r < 32, vget 0 u.x r = if r = 2 then BitVec.ofNat 64 (0x38000 - slot * (if stack = 0 then 4096 else stack))
    else if r = 3 then x3 else if r = 4 then x4 else 0) ∧
  u.taskid = BitVec.ofNat 64 (coord * 256 + slot) ∧ u.incarn = (if old.incarn = 255 then 1 else old.incarn + 1) ∧
  u.waitchk = (if check then 1 else 0) ∧ u.ac = Vector.replicate 8 none ∧ u.holdR = [] ∧ u.holdP = [] ∧ u.records = [] ∧ u.errs = []

/-- A step stands on the agenda, in whichever cycle. -/
def Listed (t : State) (ev : Instr) (args : List Nat) : Prop := (ev, args) ∈ t.agenda.map (·.2)
/-- The counters of a core, with one of them one higher (R161). -/
def RaisedOne (s t : State) (core n : Nat) (up : Bool) : Prop :=
  ∀ k < 16, vget 0 (getCore t core).cc k = vget 0 (getCore s core).cc k + (if up = true ∧ k = n then 1 else 0)

/-! ### Records of the page manager -/

/-- Two ranges, each a base and a length, do not meet. -/
def Apart (x y : Nat × Nat) : Prop := x.2 = 0 ∨ y.2 = 0 ∨ x.1 + x.2 ≤ y.1 ∨ y.1 + y.2 ≤ x.1
/-- A range lies in another. -/
def Within (x y : Nat × Nat) : Prop := x.2 = 0 ∨ y.1 ≤ x.1 ∧ x.1 + x.2 ≤ y.1 + y.2
/-- What a sequence's descriptor names: itself, its list, its remap and score arrays and its penalty buffers (Table 18-5). -/
def seqAreas (s : State) (k : KvAt) : List (Nat × Nat) :=
  [(k.sd, 128), (k.ptr s 2, 4 * k.listLen s), (k.ptr s 3, 4 * k.maxb s), (k.ptr s 4, 4 * k.maxb s), (k.penAt s 0, k.penb s),
    (k.penAt s 1, k.penb s)]
/-- The virtual range of `n` bytes from `lo` stands, by a range entry with RD and WR, at `pl` in the package's own GDDR-7, all
of it without an uncorrectable granule. -/
def Mapped (s : State) (pkg part lo n pl : Nat) : Prop :=
  pkg < 4 ∧ (getPkg s pkg).inService = true ∧ (getPkg s pkg).poison = [] ∧ lo % 4096 = 0 ∧ lo + n ≤ 2 ^ 52 ∧
  Within (pl, n) (gddrPa pkg 0, 0xB01000000) ∧
  ∀ va, lo ≤ va → va < lo + n → ∃ perms, (List.range 64).findSome? (rangeHit s pkg part va) = some (pl + (va - lo), perms) ∧ perms % 4 = 3
/-- A sequence stands, its areas apart, in a mapped range. -/
def SeqInPlace (s : State) (k : KvAt) (lo n : Nat) : Prop :=
  k.reservedOk s = true ∧ (∀ x ∈ seqAreas s k, Within x (lo, n)) ∧ (seqAreas s k).Pairwise Apart
/-- The only record of a package's queue, of an operation and with nothing waited for, names a sequence that stands in a mapped
range; the record, that range, the page manager's area and the pages stand apart in the package's GDDR-7. -/
def RecordStands (s : State) (pkg op : Nat) (r : KvRec) (k : KvAt) (lo n pl : Nat) : Prop :=
  let own : Nat × Nat := (gddrPa pkg 0, 0xB01000000)
  let areas := [(pl, n), (r.pa, 64), (kvBase s pkg, kvAreaLen s pkg), (kvPool s pkg, kvPages s pkg * kvPageBytes s pkg)]
  s.args = [pkg] ∧ (getPkg s pkg).kvq = [r] ∧ (getPkg s pkg).kvWait = none ∧ r.op = op ∧ r.reservedOk = true ∧ r.pa % 64 = 0 ∧
  k.pkg = pkg ∧ k.part = r.part ∧ k.sd = bits (r.w 0) 6 46 * 64 ∧ Mapped s pkg r.part lo n pl ∧ SeqInPlace s k lo n ∧
  (∀ x ∈ areas, Within x own) ∧ areas.Pairwise Apart
/-- The record at the head of the queue has completed: its results, DONE and CODE stand in it, its counter has risen, and it has
left the queue (R391). -/
def RecordDone (s t : State) (pkg : Nat) (r : KvRec) (code : Nat) (res : List W64) : Prop :=
  (getPkg t pkg).kvq = [] ∧ (getPkg t pkg).kvWait = none ∧ rd64 t (r.pa + 32) = BitVec.ofNat 64 (2 ^ 63 + code * 2 ^ 48) ∧
  (∀ i v, res[i]? = some v → rd64 t (r.pa + 40 + 8 * i) = v) ∧
  RaisedOne s t (bits (r.w 3) 52 11) (bits (r.w 3) 48 4) (bitOf (r.w 3) 63) ∧ t.slots = s.slots
/-- The record has ended with a code, and nothing but its status and KVERR has changed in memory and the registers (R392). -/
def RecordFails (i : Instr) (s : State) (pkg : Nat) (r : KvRec) (code : Nat) : Prop :=
  ∃ t, exec i s = .next t ∧ RecordDone s t pkg r code [] ∧
    (∀ x, x < r.pa + 32 ∨ r.pa + 40 ≤ x → memByte t x = memByte s x) ∧
    ∀ a, getReg t a = if a = ccWin pkg 0x320 then BitVec.ofNat 64 (2 ^ 63 + code * 2 ^ 48 + r.pa / 64 % 2 ^ 40 * 64) else getReg s a

end Sys2Proof.Safety
end

