-- ==== Sys2Proof/Certificates/Slice0/Obligations.lean ====
section
/-! DEFINITION. The statements for the provers: what the rules of the manual say an instruction, an event or the machine
does. -/
open Sys2Proof Sys2Proof.Machine Sys2Proof.Safety

/-- Tables 3-1, R64 and R65: every register operation of major 0x01 but the divisions, its result and its frame. A result is
read `lat` cycles later (Table 2-16), x0 as a destination is discarded, no flag or other register differs. Table 3-1, R64 and
R65: the counts of leading and trailing zero bits and of one bits, and the extensions. R66 and Table 3-2: quotients truncate
towards zero and saturate, remainders take the dividend's sign. -/
def Obligations.ScalarRegisterOperations : Prop :=
  (∀ (s : State) (w : BitVec 3) (d a b c : BitVec 5) (sh : BitVec 2),
    let x := xr s a
    let y := xr s b
    GivesX (.add w d a b) s w d 1 (x + y) ∧
    GivesX (.sub w d a b) s w d 1 (x - y) ∧
    GivesX (.and w d a b) s w d 1 (x &&& y) ∧
    GivesX (.or w d a b) s w d 1 (x ||| y) ∧
    GivesX (.xor w d a b) s w d 1 (x ^^^ y) ∧
    GivesX (.sll w d a b) s w d 1 (x <<< (y.toNat % 64)) ∧
    GivesX (.srl w d a b) s w d 1 (x >>> (y.toNat % 64)) ∧
    GivesX (.sra w d a b) s w d 1 (x.sshiftRight (y.toNat % 64)) ∧
    GivesX (.slt w d a b) s w d 1 (if x.slt y then 1 else 0) ∧
    GivesX (.slto w d a b) s w d 1 (if x.ult y then 1 else 0) ∧
    GivesX (.min w d a b) s w d 1 (if x.sle y then x else y) ∧
    GivesX (.max w d a b) s w d 1 (if x.sle y then y else x) ∧
    GivesX (.minw w d a b) s w d 1 (if x.ule y then x else y) ∧
    GivesX (.maxw w d a b) s w d 1 (if x.ule y then y else x) ∧
    GivesX (.mul w d a b) s w d 3 (x * y) ∧
    GivesX (.mulh w d a b) s w d 3 ((x.signExtend 128 * y.signExtend 128).extractLsb' 64 64) ∧
    GivesX (.mulhw w d a b) s w d 3 ((x.setWidth 128 * y.setWidth 128).extractLsb' 64 64) ∧
    GivesX (.addsh w d a b sh) s w d 1 (x + y <<< sh.toNat) ∧
    GivesX (.csel w d a b c) s w d 1 (if xr s c = 0 then y else x)) ∧
  (∀ (s : State) (w : BitVec 3) (d a c : BitVec 5),
    (∃ k ≤ 64, GivesX (.clz w d a) s w d 1 (BitVec.ofNat 64 k) ∧ (xr s a).toNat < 2 ^ (64 - k) ∧
      (k < 64 → 2 ^ (63 - k) ≤ (xr s a).toNat)) ∧
    (∃ k ≤ 64, GivesX (.ctz w d a) s w d 1 (BitVec.ofNat 64 k) ∧ (∀ j < k, (xr s a).getLsbD j = false) ∧
      (k < 64 → (xr s a).getLsbD k = true)) ∧
    GivesX (.popc w d a) s w d 1 (BitVec.ofNat 64 ((List.range 64).countP (fun j => (xr s a).getLsbD j))) ∧
    (c.toNat < 3 → GivesX (.sext w d a c) s w d 1 (((xr s a).setWidth (8 * 2 ^ c.toNat)).signExtend 64)) ∧
    (c.toNat < 3 → GivesX (.zext w d a c) s w d 1 (((xr s a).setWidth (8 * 2 ^ c.toNat)).setWidth 64))) ∧
  (∀ (s : State) (w : BitVec 3) (d a b : BitVec 5),
    let x := xr s a
    let y := xr s b
    GivesX (.div w d a b) s w d 20
      (if y = 0 then (if x.msb then BitVec.intMin 64 else BitVec.intMax 64)
       else if x = BitVec.intMin 64 ∧ y = -1 then BitVec.intMax 64 else x.sdiv y) ∧
    GivesX (.divw w d a b) s w d 20 (if y = 0 then BitVec.allOnes 64 else x / y) ∧
    GivesX (.rem w d a b) s w d 20 (if y = 0 then x else x.srem y) ∧
    GivesX (.remw w d a b) s w d 20 (if y = 0 then x else x % y))

/-- R64, R67 and R68, Table 3-3: the immediate forms, the bit-field moves and `lih`. -/
def Obligations.ImmediatesAndFields : Prop := ∀ (s : State) (w : BitVec 3) (d a : BitVec 5) (i : BitVec 13) (j : BitVec 11)
    (sh l p : BitVec 6) (u : BitVec 18),
  let x := xr s a
  GivesX (.addi w d a i) s w d 1 (x + i.signExtend 64) ∧
  GivesX (.andi w d a j) s w d 1 (x &&& j.signExtend 64) ∧
  GivesX (.ori w d a j) s w d 1 (x ||| j.signExtend 64) ∧
  GivesX (.xori w d a j) s w d 1 (x ^^^ j.signExtend 64) ∧
  GivesX (.slti w d a j) s w d 1 (if x.slt (j.signExtend 64) then 1 else 0) ∧
  GivesX (.slli w d a sh) s w d 1 (x <<< sh.toNat) ∧
  GivesX (.srli w d a sh) s w d 1 (x >>> sh.toNat) ∧
  GivesX (.srai w d a sh) s w d 1 (x.sshiftRight sh.toNat) ∧
  (p.toNat + l.toNat + 1 ≤ 64 → ∃ v : W64, GivesX (.bfx w d a l p) s w d 1 v ∧
    ∀ k, v.getLsbD k = (decide (k ≤ l.toNat) && x.getLsbD (p.toNat + k))) ∧
  (p.toNat + l.toNat + 1 ≤ 64 → ∃ v : W64, GivesX (.bfi w d a l p) s w d 1 v ∧
    ∀ k, v.getLsbD k = if p.toNat ≤ k ∧ k ≤ p.toNat + l.toNat then x.getLsbD (k - p.toNat) else (xr s d).getLsbD k) ∧
  GivesX (.lih w d u) s w d 1 (xr s d <<< 18 ||| u.setWidth 64)

/-- R73 to R76: setting up a level of a chain, its index, and the advance of a chain by `chloop`, which goes to its label
while the nest is unfinished; `chcfg` and `chloop` write no register. R43, R70 to R72: `jal`, `jalr` with an aligned target,
and the branches: where they go, when the next instruction may issue, the link, and nothing else. -/
def Obligations.ChainsAndBranches : Prop :=
  (∀ (s : State) (w : BitVec 3) (c a b d : BitVec 5) (l : BitVec 2) (o : BitVec 18),
    c.toNat < 4 → l.toNat < 3 →
    (∃ t, exec (.chcfg w c a b l) s = .next t ∧ Onward s t w ∧ MineOnly s t ∧
      (∀ k m, k < 4 → m < 3 → chainLevel (me t) k m =
        if k = c.toNat ∧ m = l.toNat then ⟨(xr s a).setWidth 32, xr s b, 0⟩ else chainLevel (me s) k m) ∧
      ∀ n, bare { slotAt t n with chains := (me s).chains } = bare (slotAt s n)) ∧
    GivesX (.chidx w d c l) s w d 1
      ((chainLevel (me s) c.toNat l.toNat).i.setWidth 64 * (chainLevel (me s) c.toNat l.toNat).s) ∧
    (∃ t, exec (.chloop w c o) s = .next t ∧ MineOnly s t ∧
      (let dest := (me s).pc + 4 * o.signExtend 64
       let again := decide (activeDepth (me s) c.toNat ≠ 0) && !chainLast (me s) c.toNat
       (if again then Goes s t w dest (if inBuffer s dest then 0 else 3) else Onward s t w) ∧
       (∀ k m, k < 4 → m < 3 → chainLevel (me t) k m =
         if k = c.toNat then advanced (me s) k m else chainLevel (me s) k m) ∧
       ∀ n, bare { slotAt t n with chains := (me s).chains } =
         bare { slotAt s n with fbuf := if again && !inBuffer s dest then [] else (me s).fbuf }))) ∧
  (∀ (s : State) (w : BitVec 3) (d a b : BitVec 5) (o : BitVec 18) (i : BitVec 13),
    let x := xr s a
    let y := xr s b
    let dest := x + i.signExtend 64
    Jumps (.jal w d o) s w ((me s).pc + 4 * o.signExtend 64) 1 (fun u => putX u d.toNat ((me s).pc + 4)) ∧
    (dest.toNat % 4 = 0 → Jumps (.jalr w d a i) s w dest 1 (fun u => putX u d.toNat ((me s).pc + 4))) ∧
    Branches (.beq w a b i) s w i (x = y) ∧
    Branches (.bne w a b i) s w i (x ≠ y) ∧
    Branches (.blt w a b i) s w i (x.slt y) ∧
    Branches (.bge w a b i) s w i (y.sle x) ∧
    Branches (.blo w a b i) s w i (x.ult y) ∧
    Branches (.bhs w a b i) s w i (y.ule x))

/-- R20, R78 and R151: `csrr` returns each control register of Table 1-7, 2 cycles later; the handler slot has no
incarnation, task or format registers, and they read 0 there. R78 and R79: a write that its level allows returns the old
value, and the register holds the new one 2 cycles later; SPILLBASE and OVFPTR are the core's. It rests on the model's
reading in log entry 22. R9, R10, R20, R21 and R130: the fields of each slot register that a write changes; LVL, read-only
and reserved fields keep their values, MODE 5 to 7 leave MODE as it stands, and read-only registers are left alone. -/
def Obligations.ControlRegisters : Prop :=
  (∀ (s : State) (w : BitVec 3) (d : BitVec 5) (r : BitVec 11) (v : W64),
    let u := me s
    let task (x : W64) : W64 := if s.curSlot = 4 then 0 else x
    (r, v) ∈ [((0x000 : BitVec 11), u.status), (0x001, u.trapcause), (0x002, u.trappc), (0x003, u.trapval), (0x004, u.waitchk),
      (0x005, task (u.incarn.setWidth 64)), (0x006, task u.taskid), (0x007, BitVec.ofNat 64 (s.curCore / 16)),
      (0x008, BitVec.ofNat 64 s.curCore), (0x010, task u.fmtA), (0x011, task u.fmtB), (0x012, task u.scaleA),
      (0x013, task u.scaleB), (0x018, u.rndmode), (0x019, u.flags), (0x020, (myCore s).spillbase), (0x021, (myCore s).ovfptr)] →
    GivesX (.csrr w d r) s w d 2 v) ∧
  (∀ (s : State) (w : BitVec 3) (d a : BitVec 5) (r : BitVec 11) (op : CsrOp),
    let old := csrValue s r.toNat
    let v := op.new old (xr s a)
    csrAllowed s r.toNat v →
    (r.toNat ≠ 0x020 → r.toNat ≠ 0x021 → csrQuiet s →
      Writes (op.instr w d a r) s w 2 (fun u => putX (u.putCsr (s.curSlot == 4) r.toNat v) d.toNat old)) ∧
    (r.toNat = 0x020 ∨ r.toNat = 0x021 → ∃ t, exec (op.instr w d a r) s = .next t ∧ Onward s t w ∧
      (∀ n, bare (slotAt t n) = bare (if n < s.now + 2 then slotAt s n else putX (slotAt s n) d.toNat old)) ∧
      (∀ n, s.now + 2 ≤ n → (r.toNat = 0x020 → ((myCore t).landDue n).spillbase = v &&& 0x3FFFFFC0) ∧
        (r.toNat = 0x021 → ((myCore t).landDue n).ovfptr = v &&& 0xFFFFFFFFFFFC0)) ∧
      t.mem = s.mem ∧ t.wregs = s.wregs)) ∧
  (∀ (u : Slot) (v : W64),
    u.putCsr false 0x000 v = { u with status := (u.status &&& ~~~0x3E) ||| (v &&& 0x3E) } ∧
    u.putCsr false 0x001 v = { u with trapcause := v &&& 0xF03F } ∧
    u.putCsr false 0x002 v = { u with trappc := v &&& 0xFFFFFFFFFFFFC } ∧
    u.putCsr false 0x003 v = { u with trapval := v } ∧
    u.putCsr false 0x004 v = { u with waitchk := v &&& 0xFFFF0003 } ∧
    u.putCsr false 0x005 v = u ∧ u.putCsr false 0x006 v = u ∧ u.putCsr false 0x007 v = u ∧ u.putCsr false 0x008 v = u ∧
    u.putCsr false 0x010 v = { u with fmtA := (u.fmtA &&& ~~~0x10F) ||| (v &&& 0x10F) } ∧
    u.putCsr false 0x011 v = { u with fmtB := (u.fmtB &&& ~~~0x10F) ||| (v &&& 0x10F) } ∧
    u.putCsr false 0x012 v = { u with scaleA := (u.scaleA &&& ~~~0x10003FFFC) ||| (v &&& 0x10003FFFC) } ∧
    u.putCsr false 0x013 v = { u with scaleB := (u.scaleB &&& ~~~0x10003FFFC) ||| (v &&& 0x10003FFFC) } ∧
    u.putCsr false 0x018 v = { u with rndmode :=
      if 5 ≤ v.toNat % 8 then (v &&& 0x80) ||| (u.rndmode &&& 7) else v &&& 0x87 } ∧
    u.putCsr false 0x019 v = { u with flags := v &&& 0x7F })

/-- R41, R80, R84 to R86: `svc` traps past itself and `brk` onto itself, by the entry every precise trap takes. R23 and R26:
a trap raised while INTRAP is 1 makes no entry; the slot becomes FREE at once, its registers, its incarnation counter and the
first trap's TRAPCAUSE, TRAPPC and TRAPVAL standing as they were. R71, R79, R83 and R89: the scalar instructions that trap: a
misaligned `jalr` target, which writes no link, a write of a system-only field at task level, and `tret` at task level. R83:
`tret` at system level continues at TRAPPC no earlier than 2 cycles later, later by the 3 cycles of R72 where TRAPPC is not
in the fetch buffer, takes LVL from PLVL, clears PLVL and INTRAP, and leaves TRAPCAUSE, TRAPPC, TRAPVAL and every register;
R28: a slot that took a DRAUGHT trap then freezes. R81 and R110: `yield` gives up issue until the others have issued or 8
cycles have passed, and freezes a slot that took a DRAUGHT trap (R28); `isync` empties the fetch buffer and the next
instruction issues no earlier than 3 cycles later. Neither changes a register or memory. -/
def Obligations.TrapsAndReturns : Prop :=
  (∀ (s : State) (w : BitVec 3) (i : BitVec 18), canTrap s →
    Traps (.svc w i) s 0x10 0 (i.setWidth 64) ((me s).pc + 4) ∧ Traps (.brk w i) s 0x11 0 (i.setWidth 64) (me s).pc) ∧
  (∀ (s : State) (w : BitVec 3) (i : BitVec 18), s.curSlot < 4 → inTrap (me s) = true →
    ∀ instr, instr = .svc w i ∨ instr = .brk w i → ∃ t, exec instr s = .next t ∧ t.issued = true ∧
      (me t).st = .free ∧ (me t).incarn = (me s).incarn ∧ (me t).x = (me s).x ∧ (me t).v = (me s).v ∧ (me t).k = (me s).k ∧
      (me t).trapcause = (me s).trapcause ∧ (me t).trappc = (me s).trappc ∧ (me t).trapval = (me s).trapval ∧
      (me t).origin = none) ∧
  (∀ (s : State) (w : BitVec 3) (d a : BitVec 5) (i : BitVec 13) (r : BitVec 11) (op : CsrOp),
    canTrap s →
    ((xr s a + i.signExtend 64).toNat % 4 ≠ 0 → Traps (.jalr w d a i) s 0x03 0 (xr s a + i.signExtend 64) (me s).pc) ∧
    (¬ csrAllowed s r.toNat (op.new (csrValue s r.toNat) (xr s a)) →
      Traps (op.instr w d a r) s 0x05 0 (r.setWidth 64) (me s).pc) ∧
    ((me s).status.getLsbD 0 = false → Traps (.tret w) s 0x05 0 0 (me s).pc)) ∧
  (∀ (s : State) (w : BitVec 3), s.curSlot < 4 → (me s).status.getLsbD 0 = true →
    ∃ t, exec (.tret w) s = .next t ∧ t.issued = true ∧
      (let dest := (me s).trappc
       me t = { me s with
         pc := dest, status := (me t).status, st := if (me s).status.getLsbD 1 then .trap else .run,
         fbuf := if inBuffer s dest then (me s).fbuf else [], ready := (me t).ready, pend := (me t).pend,
         w7 := w == 7, stall := none, draught := none, freezing := (me s).freezing || (me s).draught.isSome } ∧
       s.now + 2 + (if inBuffer s dest then 0 else 3) ≤ (me t).ready ∧
       (w.toNat < 2 → (me t).ready = s.now + 2 + (if inBuffer s dest then 0 else 3))) ∧
      ((∀ p ∈ (me s).pend, p.file = .csr → p.idx ≠ 0) → (me t).pend = (me s).pend) ∧
      (∀ j, (me t).status.getLsbD j =
        if j = 0 then (me s).status.getLsbD 1 else if j = 1 ∨ j = 2 then false else (me s).status.getLsbD j) ∧
      ((me s).draught = none → MineOnly s t) ∧
      ((me s).draught ≠ none → (Instr.slotFreeze, [s.curCore, s.curSlot]) ∈ t.agenda.map (·.2) ∧ t.mem = s.mem)) ∧
  (∀ (s : State) (w : BitVec 3),
    ((me s).draught = none → ∃ t, exec (.yield w) s = .next t ∧ Onward s t w ∧ MineOnly s t ∧
      (me t).yielding = some (s.now + 8, []) ∧
      ∀ n, bare { slotAt t n with yielding := none } = bare { slotAt s n with yielding := none }) ∧
    ((me s).draught ≠ none → ∃ t, exec (.yield w) s = .next t ∧ Onward s t w ∧ (me t).freezing = true ∧
      (Instr.slotFreeze, [s.curCore, s.curSlot]) ∈ t.agenda.map (·.2) ∧ t.mem = s.mem ∧
      ∀ n, bare { slotAt t n with yielding := none, draught := none, freezing := true } =
        bare { slotAt s n with yielding := none, draught := none, freezing := true }) ∧
    (∃ t, exec (.isync w) s = .next t ∧ MineOnly s t ∧ t.issued = true ∧ (me t).pc = (me s).pc + 4 ∧ (me t).fbuf = [] ∧
      (me t).w7 = (w == 7) ∧ s.now + 3 ≤ (me t).ready ∧ (w = 7 ∨ w.toNat < 3 → (me t).ready = s.now + 3) ∧ ∀ n, bare { slotAt t n with fbuf := [] } = bare { slotAt s n with fbuf := [] }))

/-- R93, R95, R96 and R203: loads, bit-field loads and vector loads from local memory, at task level a vector load of no
Letterbox tag; a straddling field costs a cycle, which `retry` says has passed. It rests on the model's reading in log
entries 18 and 61. R93 to R96 and R203: stores, bit-field stores and vector stores to local memory below the Letterbox tags:
exactly the bytes or bits of the access change. It rests on the model's reading in log entries 18 and 60. -/
def Obligations.LocalAccesses : Prop :=
  (∀ (s : State) (w : BitVec 3) (d a : BitVec 5) (sz : BitVec 2) (o : BitVec 11) (k : BitVec 6),
    let n := 2 ^ sz.toNat
    let addr := xr s a + o.signExtend 64 * BitVec.ofNat 64 n
    let vaddr := xr s a + o.signExtend 64 * 32
    let b := (xr s a).toNat
    let len := (b + k.toNat) / 8 + 1 - b / 8
    (LocalOk s addr n n true false → CleanLocal s addr n →
      GivesX (.ld w d a sz o) s w d 4 ((BitVec.ofNat (8 * n) (localBytesAt s addr n)).signExtend 64) ∧
      GivesX (.ldz w d a sz o) s w d 4 (BitVec.ofNat 64 (localBytesAt s addr n))) ∧
    (LocalOk s (BitVec.ofNat 64 (b / 8)) len 1 true false → CleanLocal s (BitVec.ofNat 64 (b / 8)) len → b < 0x200000 →
      (64 < b % 64 + k.toNat + 1 → (me s).retry = true) →
      ∃ t v, exec (.ldbit w d a k) s = .next t ∧ Onward s t w ∧ MineOnly s t ∧
        (∀ j, (v : W64).getLsbD j = (decide (j ≤ k.toNat) &&
          (memByte s (localPa s.curCore ((b + j) / 8))).getLsbD ((b + j) % 8))) ∧
        ∀ n, bare (slotAt t n) =
          bare { (if n < s.now + 5 then slotAt s n else putX (slotAt s n) d.toNat v) with retry := false }) ∧
    (LocalOk s vaddr 32 32 true false → CleanLocal s vaddr 32 → (lvlOf (me s) = true ∨ vaddr.toNat + 32 ≤ 0x3FE00) →
      GivesV (.vld w d a o) s w d 4 (BitVec.ofNat 256 (localBytesAt s vaddr 32)))) ∧
  (∀ (s : State) (w : BitVec 3) (c a : BitVec 5) (sz : BitVec 2) (o : BitVec 11) (k : BitVec 6),
    let n := 2 ^ sz.toNat
    let addr := xr s a + o.signExtend 64 * BitVec.ofNat 64 n
    let vaddr := xr s a + o.signExtend 64 * 32
    let b := (xr s a).toNat
    let len := (b + k.toNat) / 8 + 1 - b / 8
    (LocalOk s addr n n false (n == 8) → addr.toNat < 0x3FE00 → CleanLocal s addr n ∨ n = 8 →
      Stores (.st w c a sz o) s w (fun x =>
        let p := localPa s.curCore addr.toNat
        if p ≤ x ∧ x < p + n then (xr s c).extractLsb' (8 * (x - p)) 8 else memByte s x)) ∧
    (LocalOk s (BitVec.ofNat 64 (b / 8)) len 1 false false → CleanLocal s (BitVec.ofNat 64 (b / 8)) len → b / 8 + len ≤ 0x3FE00 →
      (64 < b % 64 + k.toNat + 1 → (me s).retry = true) →
      ∃ after, Stores (.stbit w a c k) s w after ∧ ∀ x j, j < 8 → (after x).getLsbD j =
        let p := localPa s.curCore 0
        if p * 8 + b ≤ x * 8 + j ∧ x * 8 + j ≤ p * 8 + b + k.toNat then (xr s c).getLsbD (x * 8 + j - (p * 8 + b))
        else (memByte s x).getLsbD j) ∧
    (LocalOk s vaddr 32 32 false false → vaddr.toNat < 0x3FE00 →
      Stores (.vst w c a o) s w (fun x =>
        let p := localPa s.curCore vaddr.toNat
        if p ≤ x ∧ x < p + 32 then (vr s c).extractLsb' (8 * (x - p)) 8 else memByte s x)))

/-- R93, R96, R98 and Table 6-2: a misaligned local or global access traps ALIGN; a local one that leaves local memory or
touches bytes its level may not reach traps PROT, and so does a vector load of a Letterbox tag at task level; both with the
address, and before anything changes, where no line of an `ald` can trap before them. It rests on the model's reading in log
entry 18. -/
def Obligations.AccessTraps : Prop := ∀ (s : State) (w : BitVec 3) (d a b : BitVec 5) (sz : BitVec 2) (o : BitVec 11)
    (ch : BitVec 2) (aw : BitVec 1),
  let n := 2 ^ sz.toNat
  let addr := xr s a + o.signExtend 64 * BitVec.ofNat 64 n
  let vaddr := xr s a + o.signExtend 64 * 32
  let addr4 := xr s a + o.signExtend 64 * 4
  let addr8 := xr s a + o.signExtend 64 * 8
  canTrap s → NoShort s →
  (addr.toNat % n ≠ 0 → ∀ i ∈ [Instr.ld w d a sz o, .ldz w d a sz o, .st w b a sz o], Traps i s 0x03 0 addr (me s).pc) ∧
  (vaddr.toNat % 32 ≠ 0 → ∀ i ∈ [Instr.vld w d a o, .vst w b a o], Traps i s 0x03 0 vaddr (me s).pc) ∧
  (addr.toNat % n = 0 → (0x40000 < addr.toNat + n ∨
      localAllowed s s.curCore s.curSlot (lvlOf (me s)) addr.toNat n true false = false) →
    ∀ i ∈ [Instr.ld w d a sz o, .ldz w d a sz o], Traps i s 0x05 0 addr (me s).pc) ∧
  (addr.toNat % n = 0 → (0x40000 < addr.toNat + n ∨
      localAllowed s s.curCore s.curSlot (lvlOf (me s)) addr.toNat n false (n == 8) = false) →
    Traps (.st w b a sz o) s 0x05 0 addr (me s).pc) ∧
  (vaddr.toNat % 32 = 0 → (0x40000 < vaddr.toNat + 32 ∨ lvlOf (me s) = false ∧ 0x3FE00 < vaddr.toNat + 32 ∨
      localAllowed s s.curCore s.curSlot (lvlOf (me s)) vaddr.toNat 32 true false = false) →
    Traps (.vld w d a o) s 0x05 0 vaddr (me s).pc) ∧
  (vaddr.toNat % 32 = 0 → (0x40000 < vaddr.toNat + 32 ∨
      localAllowed s s.curCore s.curSlot (lvlOf (me s)) vaddr.toNat 32 false false = false) →
    Traps (.vst w b a o) s 0x05 0 vaddr (me s).pc) ∧
  (addr4.toNat % 4 ≠ 0 → ∀ i ∈ [Instr.ldgW w d a ch o, .stgW w b a ch o], Traps i s 0x03 0 addr4 (me s).pc) ∧
  (addr8.toNat % 8 ≠ 0 → ∀ i ∈ [Instr.ldgD w d a ch o, .stgD w b a ch o], Traps i s 0x03 0 addr8 (me s).pc) ∧
  ((xr s a).toNat % (if aw = 1 then 8 else 4) ≠ 0 → ∀ i ∈ [Instr.amoAdd w d a b ch aw, .amoAnd w d a b ch aw,
    .amoOr w d a b ch aw, .amoXor w d a b ch aw, .amoMin w d a b ch aw, .amoMax w d a b ch aw, .amoMinw w d a b ch aw,
    .amoMaxw w d a b ch aw, .amoSwap w d a b ch aw, .amoCas w d a b ch aw], Traps i s 0x03 0 (xr s a) (me s).pc)

/-- R97, R98, R111 and R113: global loads, stores and atomics issue an access with what they read at issue; a destination
waits for the reply. It rests on the model's reading in log entries 5 and 28. Table 4-7, R111: the value each atomic writes
at its home from the old one. -/
def Obligations.GlobalAccesses : Prop :=
  (∀ (s : State) (w : BitVec 3) (d a b : BitVec 5) (ch : BitVec 2) (o : BitVec 11)
      (aw : BitVec 1) (pa : Nat),
    let addr4 := xr s a + o.signExtend 64 * 4
    let addr8 := xr s a + o.signExtend 64 * 8
    let home := homeNo (placeOf pa)
    let size := if aw = 1 then 8 else 4
    let amo (op : Nat) : Flight := { newFlight s (.amo op) home (xr s a) pa size ch.toNat with
      b := xr s b, c := xr s d, rd := some d.toNat }
    (GlobalOk s addr4 4 1 ch.toNat pa → Issues (.ldgW w d a ch o) s w
      { newFlight s .load home addr4 pa 4 ch.toNat with rd := some d.toNat } (awaiting · d.toNat)) ∧
    (GlobalOk s addr8 8 1 ch.toNat pa → Issues (.ldgD w d a ch o) s w
      { newFlight s .load home addr8 pa 8 ch.toNat with rd := some d.toNat } (awaiting · d.toNat)) ∧
    (GlobalOk s addr4 4 2 ch.toNat pa → Issues (.stgW w b a ch o) s w
      { newFlight s .store home addr4 pa 4 ch.toNat with b := xr s b } id) ∧
    (GlobalOk s addr8 8 2 ch.toNat pa → Issues (.stgD w b a ch o) s w
      { newFlight s .store home addr8 pa 8 ch.toNat with b := xr s b } id) ∧
    (GlobalOk s (xr s a) size 3 ch.toNat pa → (∃ c k, placeOf pa = .localMem c k ∨ placeOf pa = .slice c k) →
      ∀ p ∈ [(0, Instr.amoAdd w d a b ch aw), (1, .amoAnd w d a b ch aw), (2, .amoOr w d a b ch aw),
        (3, .amoXor w d a b ch aw), (4, .amoMin w d a b ch aw), (5, .amoMax w d a b ch aw), (6, .amoMinw w d a b ch aw),
        (7, .amoMaxw w d a b ch aw), (8, .amoSwap w d a b ch aw), (9, .amoCas w d a b ch aw)],
      Issues p.2 s w (amo p.1) (awaiting · d.toNat))) ∧
  (∀ (x b c : W64) (y e f : W32),
    amoNew 0 8 x.toNat b.toNat c.toNat = some (x + b).toNat ∧
    amoNew 1 8 x.toNat b.toNat c.toNat = some (x &&& b).toNat ∧
    amoNew 2 8 x.toNat b.toNat c.toNat = some (x ||| b).toNat ∧
    amoNew 3 8 x.toNat b.toNat c.toNat = some (x ^^^ b).toNat ∧
    amoNew 4 8 x.toNat b.toNat c.toNat = some (if b.slt x then b else x).toNat ∧
    amoNew 5 8 x.toNat b.toNat c.toNat = some (if x.slt b then b else x).toNat ∧
    amoNew 6 8 x.toNat b.toNat c.toNat = some (min x.toNat b.toNat) ∧
    amoNew 7 8 x.toNat b.toNat c.toNat = some (max x.toNat b.toNat) ∧
    amoNew 8 8 x.toNat b.toNat c.toNat = some b.toNat ∧
    amoNew 9 8 x.toNat b.toNat c.toNat = (if x = c then some b.toNat else none) ∧
    amoNew 0 4 y.toNat e.toNat f.toNat = some (y + e).toNat ∧
    amoNew 4 4 y.toNat e.toNat f.toNat = some (if e.slt y then e else y).toNat ∧
    amoNew 5 4 y.toNat e.toNat f.toNat = some (if y.slt e then e else y).toNat ∧
    amoNew 9 4 y.toNat e.toNat f.toNat = (if y = f then some e.toNat else none))

/-- R106 and Table 4-4: a fence completes without effect when no access of its slot in its reach is outstanding and none has
left an error, stalls while one is outstanding, and takes the oldest error that it reaches as its own trap (R99). It rests on
the model's reading in log entries 40 and 62. R98, R114 and R115: an active message reads 32 bytes of local memory at issue
and goes to the core its target names, through its core's outbound queue where that is another, for which a full queue makes
it stall. -/
def Obligations.FencesAndMessages : Prop :=
  (∀ (s : State) (w : BitVec 3),
    ∀ p ∈ [(0, Instr.fenceTask w), (1, .fenceCore w), (2, .fenceCol w), (3, .fenceDie w), (4, .fencePkg w), (5, .fenceCard w)],
      (fenceWaits s p.1 = false → (∀ e ∈ (me s).errs, fenceReaches p.1 s.curCore e.home = false) → Writes p.2 s w 0 id) ∧
      (fenceWaits s p.1 = true → Stalls p.2 s) ∧
      (canTrap s → fenceWaits s p.1 = false → ∀ older r younger, (me s).errs = older ++ r :: younger →
        (∀ e ∈ older, fenceReaches p.1 s.curCore e.home = false) → fenceReaches p.1 s.curCore r.home = true →
        ∃ t, exec p.2 s = .next t ∧
          TrapEntry (modMe s (fun u => { u with errs := older ++ younger })) t r.cause r.unit r.value (me s).pc)) ∧
  (∀ (s : State) (w : BitVec 3) (a b : BitVec 5) (m : BitVec 4) (n : BitVec 1) (ch : BitVec 2),
    LocalOk s (xr s b) 32 32 true false → CleanLocal s (xr s b) 32 → (xr s b).toNat + 32 ≤ 0x3FE80 →
    (lvlOf (me s) = true ∨ sysOnlyRange s s.curCore (xr s b).toNat 32 = false) →
    ((xr s a).toNat % 2048 ≠ s.curCore → outboundFull s = true → Stalls (.amsend w a b m n ch) s) ∧
    ((xr s a).toNat % 2048 = s.curCore ∨ outboundFull s = false → Issues (.amsend w a b m n ch) s w { newFlight s .amsend ((xr s a).toNat % 2048) 0 0 32 ch.toNat with
      b := xr s a, body := BitVec.ofNat 256 (localBytesAt s (xr s b) 32), cnt := if n = 1 then some m.toNat else none } id))

/-- R161 and R162: `ccinc` adds; `ccset` sets, before the increments of its own cycle, which the core remembers; `waitlt`
goes on once the counter has reached its operand and no recorded fault is observed on it, and stalls before. R90 and R162: a
`waitlt` that reaches its count delivers the oldest fault recorded on its counter as its own trap. It rests on the model's
reading in log entry 59. -/
def Obligations.CompletionCounters : Prop :=
  (∀ (s : State) (w : BitVec 3) (a : BitVec 5) (n : BitVec 4),
    let x : BitVec 16 := (xr s a).setWidth 16
    let own := fun (t : State) (k : Nat) => vget (0 : BitVec 16) (myCore t).cc k
    let since := fun (t : State) (k : Nat) =>
      ((myCore t).ccLog.filter (fun p => p.1 == s.now && p.2.1 == k)).foldl (fun y p => y + p.2.2) (0 : BitVec 16)
    (∃ t, exec (.ccinc w a n) s = .next t ∧ Onward s t w ∧
      (∀ k, k < 16 → own t k = (if k = n.toNat then own s k + x else own s k) ∧
        since t k = if k = n.toNat then since s k + x else since s k) ∧
      (∀ k, bare (slotAt t k) = bare (slotAt s k)) ∧ MineOnly s { t with cores := s.cores } ∧
      ∀ c, c ≠ s.curCore → t.cores.find c = s.cores.find c) ∧
    (∃ t, exec (.ccset w a n) s = .next t ∧ Onward s t w ∧
      (∀ k, k < 16 → own t k = (if k = n.toNat then x + since s k else own s k) ∧ since t k = since s k) ∧
      (∀ k, bare (slotAt t k) = bare (slotAt s k)) ∧ MineOnly s { t with cores := s.cores } ∧
      ∀ c, c ≠ s.curCore → t.cores.find c = s.cores.find c) ∧
    ((own s n.toNat - x).msb = false → (∀ r ∈ (me s).records, r.obj ≠ .cc n.toNat ∧ r.alt ≠ some n.toNat) →
      Writes (.waitlt w a n) s w 0 id) ∧
    ((own s n.toNat - x).msb = true → Stalls (.waitlt w a n) s)) ∧
  (∀ (s : State) (w : BitVec 3) (a : BitVec 5) (n : BitVec 4) (r : Rec)
      (older younger : List Rec),
    canTrap s → (vget (0 : BitVec 16) (myCore s).cc n.toNat - (xr s a).setWidth 16).msb = false →
    (me s).records = older ++ r :: younger → r.obj = .cc n.toNat ∨ r.alt = some n.toNat →
    (∀ q ∈ older, q.obj ≠ .cc n.toNat ∧ q.alt ≠ some n.toNat) →
    ∃ t, exec (.waitlt w a n) s = .next t ∧
      TrapEntry (modMe s (fun u => { u with records := older ++ younger })) t r.cause r.unit r.value (me s).pc)

/-- R169 to R171: `nput` sends its value to a slot above or below in the column, where it lands 4 cycles later and sets the
presence bit; it stalls while the register is present, while another value is on its way there, and, from above, while one
from below goes first; at a column's end, or to a FREE slot, it traps PROT; `nclr` clears a presence bit, of which the
handler slot has none. R171: a neighbour value lands in the register its tag names and makes it present; no other slot
changes. -/
def Obligations.NeighbourLinks : Prop :=
  (∀ (s : State) (w : BitVec 3) (a : BitVec 5) (dir : BitVec 1) (k : BitVec 2) (t3 : BitVec 3),
    let dest := if dir = 1 then s.curCore + 1 else s.curCore - 1
    let ends := if dir = 1 then s.curCore % 16 = 15 else s.curCore % 16 = 0
    let u := getSlot s dest k.toNat
    (¬ ends → u.st ≠ .free → u.present.getLsbD t3.toNat = false →
      (dir = 1 ∨ fromBelow s dest k t3 = false) →
      (∀ p ∈ s.agenda, p.2.1 = .nputLanding → p.2.2.take 3 ≠ [dest, k.toNat, t3.toNat]) →
      ∃ t, exec (.nput w a dir k t3) s = .next t ∧ Onward s t w ∧
        (s.now + 4, Instr.nputLanding, [dest, k.toNat, t3.toNat, (xr s a).toNat]) ∈ t.agenda ∧
        MineOnly s { t with agenda := s.agenda } ∧ ∀ n, bare (slotAt t n) = bare (slotAt s n)) ∧
    (¬ ends → u.st ≠ .free → u.present.getLsbD t3.toNat = true ∨ (dir = 0 ∧ fromBelow s dest k t3 = true) ∨
        (∃ p ∈ s.agenda, p.2.1 = .nputLanding ∧ p.2.2.take 3 = [dest, k.toNat, t3.toNat]) →
      Stalls (.nput w a dir k t3) s) ∧
    (canTrap s → ends ∨ u.st = .free →
      Traps (.nput w a dir k t3) s 0x05 0 (BitVec.ofNat 64 (dir.toNat * 128 + k.toNat * 32 + t3.toNat)) (me s).pc) ∧
    (s.curSlot < 4 → ∃ t, exec (.nclr w t3) s = .next t ∧ Onward s t w ∧ MineOnly s t ∧
      (∀ j, (me t).present.getLsbD j = ((me s).present.getLsbD j && decide (j ≠ t3.toNat))) ∧
      ∀ n, bare { slotAt t n with present := 0 } = bare { slotAt s n with present := 0 }) ∧
    (s.curSlot = 4 → Writes (.nclr w t3) s w 0 id)) ∧
  (∀ (s : State) (core k r : Nat) (v : W64), s.args = [core, k, r, v.toNat] → k < 4 →
    r < 8 → ∃ t, exec .nputLanding s = .next t ∧ getSlot t core k = putX (getSlot s core k) (24 + r) v ∧
      { t with slots := s.slots } = s ∧ ∀ key, key ≠ slotKey core k → t.slots.find key = s.slots.find key)

/-- R172 to R175: `spl` puts a group of registers away under its tag in the first place that has room (unallocated entries,
the bank of a FREE slot, the slot's quarter of the carve-out, the overflow area at OVFPTR), whence the group can be read
back, frees what the tag held, and leaves the registers and the other groups; where none has room it traps PROT with OVFPTR.
`fil` brings the group of the same file and length back as it stands in its place and frees the tag; a `fil` that names no
such group traps PROT with the tag, and one of a group with a dword that cannot be corrected traps with that dword's cause.
Both wait for pending writes of the group, and stall for a cycle and one more for every 32 bytes. It rests on the model's
reading in log entries 25 and 70. -/
def Obligations.SpillAndFill : Prop := ∀ (s : State) (w : BitVec 3) (g f : BitVec 5) (e : BitVec 1) (c : BitVec 4),
  let n := c.toNat + 1
  let isV := e == 1
  let nb := n * (if isV then 32 else 8)
  let mine (x : SpillGroup) : Bool := x.slot == s.curSlot && x.tag == g.toNat && x.isV == isV && x.vals.length == n
  let vals := (List.range n).map (fun i => if isV then (me s).rv (f.toNat + i) else ((me s).rx (f.toNat + i)).setWidth 256)
  let freed := freeTag s s.curCore s.curSlot g.toNat
  let acc := roomAcc freed s.curCore ((nb + 15) / 16)
  let bank := roomBank freed s.curCore nb
  let carve := roomCarve freed s.curCore s.curSlot nb
  let ovf := roomOvf freed s.curCore nb
  let first : Option (Nat × Nat) := (acc.map (fun a => (1, a))).orElse (fun _ => (bank.map (fun a => (2, a))).orElse (fun _ =>
    (carve.map (fun a => (3, a))).orElse (fun _ => ovf.map (fun a => (4, a)))))
  let others (t : State) : Prop := (∀ key, key ≠ slotKey s.curCore s.curSlot → t.slots.find key = s.slots.find key) ∧
    (∀ y ∈ (myCore s).spill, y.tag ≠ 32 → ¬ (y.slot = s.curSlot ∧ y.tag = g.toNat) → y ∈ (myCore t).spill)
  s.curCore < 2048 → s.curSlot < 4 → f.toNat + n ≤ 32 →
  (groupPending s isV f.toNat n ≠ [] → Stalls (.spl w g f e c) s ∧
    ((myCore s).spill.any mine = true → Stalls (.fil w g f e c) s)) ∧
  (groupPending s isV f.toNat n = [] →
    (∀ i < n, isV = false → 24 ≤ f.toNat + i → (me s).present.getLsbD (f.toNat + i - 24) = true) →
    (∀ place a, first = some (place, a) → ∃ t x, exec (.spl w g f e c) s = .next t ∧
      Goes s t w ((me s).pc + 4) (1 + (nb + 31) / 32) ∧ others t ∧
      (myCore t).spill.find? mine = some x ∧ x.vals = vals ∧ x.place = place ∧ x.addr = a ∧
      (myCore t).ovfptr = (if place = 4 then BitVec.ofNat 64 (a + (nb + 63) / 64 * 64) else (myCore freed).ovfptr) ∧
      (place = 4 → ∀ lo m pl, Mapped s (pkgOfCore s.curCore) (partOfCore s s.curCore) lo m pl → lo ≤ a → a + nb ≤ lo + m →
        (fetchGroup t s.curCore x).1 = vals) ∧
      (place ≠ 4 → (fetchGroup t s.curCore x).1 = vals ∧ (GranulesHeld s → t.wregs = s.wregs ∧
        ∀ p, (∀ q ∈ groupPas t s.curCore x 2, ∀ d, q = some d → p < d ∨ d + 8 ≤ p) → memByte t p = memByte s p)) ∧
      ∀ k, bare (slotAt t k) = bare (slotAt s k)) ∧
    (first = none → canTrap s → Traps (.spl w g f e c) s 0x05 0 (myCore s).ovfptr (me s).pc)) ∧
  (∀ x, (myCore s).spill.find? mine = some x → groupPending s isV f.toNat n = [] →
    ((fetchGroup s s.curCore x).2.1 = [] → ∃ t, exec (.fil w g f e c) s = .next t ∧
      Goes s t w ((me s).pc + 4) (1 + (nb + 31) / 32) ∧ others t ∧
      (∀ k, bare (slotAt t k) = bare ((List.range n).foldl (fun u i => if isV then putV u (f.toNat + i) ((fetchGroup s s.curCore x).1.getD i 0)
        else putX u (f.toNat + i) (((fetchGroup s s.curCore x).1.getD i 0).setWidth 64)) (slotAt s k))) ∧
      (∀ y ∈ (myCore t).spill, ¬ (y.slot = s.curSlot ∧ y.tag = g.toNat)) ∧ (GranulesHeld s → t.mem = s.mem)) ∧
    (∀ i l, (fetchGroup s s.curCore x).2.1 = i :: l → canTrap s → ∃ t, exec (.fil w g f e c) s = .next t ∧
      TrapEntry (fetchGroup s s.curCore x).2.2 t (groupErr s s.curCore x i).1 0 (groupErr s s.curCore x i).2 (me s).pc)) ∧
  (canTrap s → (myCore s).spill.find? mine = none →
    Traps (.fil w g f e c) s 0x05 0 (BitVec.ofNat 64 g.toNat) (me s).pc)

/-- R26 and R173: `done` retires a task that has nothing outstanding: the slot becomes FREE, its descriptors are unconfigured
and its spilled groups freed (their tag is then 32, which no instruction names), and its incarnation counter and registers
stay; R26 and R163: a slot of a corridor still held traps CORR_PROTO, and R159: in the handler slot `done` leaves the slot
idle. It rests on the model's reading in log entry 41. -/
def Obligations.TaskEnd : Prop := ∀ (s : State) (w : BitVec 3),
  openOps s s.curCore s.curSlot = [] → (me s).records = [] → (me s).barFaults = [] →
  (s.curSlot < 4 → heldEndpoint (me s) = none → fenceWaits s 5 = false → (me s).errs = [] →
    ∃ t, exec (.done w) s = .next t ∧ t.issued = true ∧ (me t).st = .free ∧ (me t).incarn = (me s).incarn ∧
      (me t).x = (me s).x ∧ (me t).v = (me s).v ∧ (me t).k = (me s).k ∧ (me t).ac = Vector.replicate 8 none ∧
      (me t).origin = none ∧ (∀ g ∈ (myCore t).spill, g.slot = s.curSlot → g.tag = 32)) ∧
  (∀ n, canTrap s → heldEndpoint (me s) = some n →
    Traps (.done w) s 0x0D 0 (BitVec.ofNat 64 (n + 0x1F * 256 + 9 * 65536)) (me s).pc) ∧
  (s.curSlot = 4 → fenceWaits s 5 = false → (me s).errs = [] →
    ∃ t, exec (.done w) s = .next t ∧ t.issued = true ∧ (me t).st = .free ∧ (me t).entry = none ∧
      (∀ e, (me s).entry = some e → e < 16 → (vget ⟨0, 0, 0, none, 0⟩ (myCore t).lb e).tag = 0))

/-- R180, R181, R184 and R185, Table 7-2: the integer operations that wrap, lane by lane under the mask. R184 and R185: the
saturating operations clamp to the type's range and set SAT where they do. -/
def Obligations.VectorIntegers : Prop :=
  (∀ (s : State) (w : BitVec 3) (t : BitVec 4) (d a b : BitVec 5) (k : BitVec 3),
    t.toNat < 6 →
    let wd := elemWidth t
    let n := 256 / wd
    let x (j : Nat) : Nat := lane (vr s a) wd j
    let y (j : Nat) : Nat := lane (vr s b) wd j
    let sx (j : Nat) : Int := elemInt t (x j)
    let sy (j : Nat) : Int := elemInt t (y j)
    GivesLanes (.vadd w t d a b k) s w d k 2 wd n (fun j => elemBits t (sx j + sy j)) ∧
    GivesLanes (.vsub w t d a b k) s w d k 2 wd n (fun j => elemBits t (sx j - sy j)) ∧
    GivesLanes (.vmul w t d a b k) s w d k 4 wd n (fun j => elemBits t (sx j * sy j)) ∧
    GivesLanes (.vmin w t d a b k) s w d k 2 wd n (fun j => if sx j ≤ sy j then x j else y j) ∧
    GivesLanes (.vmax w t d a b k) s w d k 2 wd n (fun j => if sx j ≤ sy j then y j else x j) ∧
    GivesLanes (.vabs w t d a k) s w d k 2 wd n (fun j => elemBits t |sx j|) ∧
    GivesLanes (.vneg w t d a k) s w d k 2 wd n (fun j => elemBits t (-sx j)) ∧
    GivesLanes (.vmulh w t d a b k) s w d k 4 wd n (fun j => elemBits t (sx j * sy j / 2 ^ wd)) ∧
    GivesLanes (.vand w t d a b k) s w d k 2 wd n (fun j => Nat.land (x j) (y j)) ∧
    GivesLanes (.vor w t d a b k) s w d k 2 wd n (fun j => Nat.lor (x j) (y j)) ∧
    GivesLanes (.vxor w t d a b k) s w d k 2 wd n (fun j => Nat.xor (x j) (y j)) ∧
    GivesLanes (.vsll w t d a b k) s w d k 2 wd n (fun j => x j * 2 ^ (y j % wd) % 2 ^ wd) ∧
    GivesLanes (.vsrl w t d a b k) s w d k 2 wd n (fun j => x j / 2 ^ (y j % wd)) ∧
    GivesLanes (.vsra w t d a b k) s w d k 2 wd n (fun j => elemBits t (sx j / 2 ^ (y j % wd)))) ∧
  (∀ (s : State) (w : BitVec 3) (t : BitVec 4) (d a b : BitVec 5) (k : BitVec 3),
    t.toNat < 6 → flagsQuiet s 2 →
    let wd := elemWidth t
    let lo : Int := if t.toNat < 3 then -2 ^ (wd - 1) else 0
    let hi : Int := if t.toNat < 3 then 2 ^ (wd - 1) - 1 else 2 ^ wd - 1
    let clamp (v : Int) : Nat × Nat := if v < lo then (elemBits t lo, 32) else if hi < v then (elemBits t hi, 32) else (elemBits t v, 0)
    let sx (j : Nat) : Int := elemInt t (lane (vr s a) wd j)
    let sy (j : Nat) : Int := elemInt t (lane (vr s b) wd j)
    GivesLanesF (.vadds w t d a b k) s w d k 2 wd (256 / wd) (fun j => clamp (sx j + sy j)) ∧
    GivesLanesF (.vsubs w t d a b k) s w d k 2 wd (256 / wd) (fun j => clamp (sx j - sy j)))

/-- R119 to R121, R136, R137, R147, R148, R184, R186 and R187: the float operations round the exact result of each active
lane, or trap FP_INVALID under FIE; `vabs` and `vneg` change the sign alone. R190 and R191: the fused operations round a
product and sum once, `vfnma` with the product negated; the dot products add four products of bytes to a 32-bit lane, modulo
2 to the 32; all under k0. -/
def Obligations.VectorFloats : Prop :=
  (∀ (s : State) (w : BitVec 3) (t : BitVec 4) (d a b : BitVec 5) (k : BitVec 3) (f : FpFmt),
    6 ≤ t.toNat → t.toNat < 9 → fpFmt (tyCode t) = some f →
    let wd := elemWidth t
    let n := 256 / wd
    let x (j : Nat) : Machine.Num := decodeFp f (lane (vr s a) wd j)
    let y (j : Nat) : Machine.Num := decodeFp f (lane (vr s b) wd j)
    let r := rndPlain (me s).rndmode
    let out (q : Machine.Num × Nat) : Nat × Nat := ((roundFp f r q.1).1, Nat.lor (roundFp f r q.1).2 q.2)
    LanesOrTrap (.vadd w t d a b k) s w d k 4 wd n (fun j => out (addNum r.mode (x j) (y j))) ∧
    LanesOrTrap (.vsub w t d a b k) s w d k 4 wd n (fun j => out (addNum r.mode (x j) (y j).neg)) ∧
    LanesOrTrap (.vmul w t d a b k) s w d k 4 wd n (fun j => out (mulNum (x j) (y j))) ∧
    LanesOrTrap (.vdiv w t d a b k) s w d k 14 wd n (fun j => out (divNum (x j) (y j))) ∧
    LanesOrTrap (.vsqrt w t d a k) s w d k 14 wd n (fun j => out (sqrtNum (x j))) ∧
    LanesOrTrap (.vmin w t d a b k) s w d k 2 wd n (fun j => out (minmaxNum false (x j) (y j), 0)) ∧
    LanesOrTrap (.vmax w t d a b k) s w d k 2 wd n (fun j => out (minmaxNum true (x j) (y j), 0)) ∧
    GivesLanes (.vabs w t d a k) s w d k 2 wd n (fun j =>
      if (x j).isNan then nanBits f false else lane (vr s a) wd j % 2 ^ (wd - 1)) ∧
    GivesLanes (.vneg w t d a k) s w d k 2 wd n (fun j =>
      let neg := !(lane (vr s a) wd j).testBit (wd - 1)
      if (x j).isNan then nanBits f neg else lane (vr s a) wd j % 2 ^ (wd - 1) + (if neg then 2 ^ (wd - 1) else 0))) ∧
  (∀ (s : State) (w : BitVec 3) (d a b c : BitVec 5),
    let r := rndPlain (me s).rndmode
    let fma (code : Nat) (negate : Bool) (j : Nat) : Nat × Nat :=
      let num (q : BitVec 5) : Machine.Num := decodeNum code (lane (vr s q) (fmtBits code) j)
      let e := fmaNum r.mode negate (num a) (num b) (num c)
      ((roundTo code r e.1).1, Nat.lor (roundTo code r e.1).2 e.2)
    let dot (signed : Bool) (j : Nat) : Nat :=
      let e (q : BitVec 5) (m : Nat) : Int :=
        if signed then (BitVec.ofNat 8 (lane (vr s q) 8 (4 * j + m))).toInt else lane (vr s q) 8 (4 * j + m)
      (((lane (vr s c) 32 j : Int) + e a 0 * e b 0 + e a 1 * e b 1 + e a 2 * e b 2 + e a 3 * e b 3) % 2 ^ 32).toNat
    LanesOrTrap (.vfmaF32 w d a b c) s w d 0 5 32 8 (fma 0x0D false) ∧
    LanesOrTrap (.vfmaF16 w d a b c) s w d 0 5 16 16 (fma 0x0B false) ∧
    LanesOrTrap (.vfmaBf16 w d a b c) s w d 0 5 16 16 (fma 0x0C false) ∧
    LanesOrTrap (.vfnmaF32 w d a b c) s w d 0 5 32 8 (fma 0x0D true) ∧
    LanesOrTrap (.vfnmaF16 w d a b c) s w d 0 5 16 16 (fma 0x0B true) ∧
    LanesOrTrap (.vfnmaBf16 w d a b c) s w d 0 5 16 16 (fma 0x0C true) ∧
    GivesLanes (.vmaccS32 w d a b c) s w d 0 5 32 8 (dot true) ∧
    GivesLanes (.vmaccW32 w d a b c) s w d 0 5 32 8 (dot false))

/-- R188 and Table 7-2: the compares write every bit of a mask register, and `vsel` every lane of its destination. R198 and
R199: the byte-lane moves under the mask, the broadcast, and reading and writing one element, which trap REG_INDEX on an
index outside. R200 and Table 7-8: the mask operations. -/
def Obligations.VectorComparesAndMoves : Prop :=
  (∀ (s : State) (w : BitVec 3) (t : BitVec 4) (d a b : BitVec 5) (k : BitVec 3),
    t.toNat < 9 →
    let wd := elemWidth t
    let n := 256 / wd
    let x (j : Nat) : Nat := lane (vr s a) wd j
    let y (j : Nat) : Nat := lane (vr s b) wd j
    let c (j : Nat) : Int := if t.toNat < 6 then Int.sign (elemInt t (x j) - elemInt t (y j))
      else cmpNum (decodeNum (tyCode t) (x j)) (decodeNum (tyCode t) (y j))
    let nan (j : Nat) : Bool := decide (6 ≤ t.toNat) && ((decodeNum (tyCode t) (x j)).isNan || (decodeNum (tyCode t) (y j)).isNan)
    let sets (i : Instr) (rel : Nat → Bool) : Prop :=
      ∃ m, GivesK i s w d 2 m ∧ ∀ j, m.getLsbD j = (decide (j < n) && (kr s k).getLsbD j && rel j)
    sets (.vceq w t d a b k) (fun j => !nan j && c j == 0) ∧
    sets (.vcne w t d a b k) (fun j => nan j || c j != 0) ∧
    sets (.vclt w t d a b k) (fun j => !nan j && decide (c j < 0)) ∧
    sets (.vcle w t d a b k) (fun j => !nan j && decide (c j ≤ 0)) ∧
    ∃ v, GivesV (.vsel w t d a b k) s w d 2 v ∧ ∀ j < n, lane v wd j = if (kr s k).getLsbD j then x j else y j) ∧
  (∀ (s : State) (w : BitVec 3) (d a b m : BitVec 5) (k c : BitVec 3),
    let x (j : Nat) : Nat := lane (vr s a) 8 j
    let y (j : Nat) : Nat := lane (vr s b) 8 j
    let z := (xr s m).toNat
    let wd := 8 * 2 ^ c.toNat
    let n := 32 / 2 ^ c.toNat
    GivesLanes (.vmov w d a k) s w d k 2 8 32 x ∧
    GivesLanes (.vperm w d a b k) s w d k 2 8 32 (fun j => if 128 ≤ y j then 0 else x (y j % 32)) ∧
    GivesLanes (.vslideup w d a m k) s w d k 2 8 32 (fun j => if z ≤ j then x (j - z) else 0) ∧
    GivesLanes (.vslidedn w d a m k) s w d k 2 8 32 (fun j => if j + z < 32 then x (j + z) else 0) ∧
    (z < 32 → GivesLanes (.vrget w d m k) s w d k 2 8 32 (fun j => lane ((me s).rv z) 8 j)) ∧
    (canTrap s → 32 ≤ z → Traps (.vrget w d m k) s 0x0F 0 (xr s m) (me s).pc) ∧
    (c.toNat < 4 →
      (∃ v, GivesV (.vbcast w d m c) s w d 2 v ∧ ∀ j < n, lane v wd j = z % 2 ^ wd) ∧
      (z < n → GivesX (.vxget w d a m c) s w d 2 (BitVec.ofNat 64 (lane (vr s a) wd z))) ∧
      (z < n → ∃ v, GivesV (.vxput w d b m c) s w d 2 v ∧
        ∀ j < n, lane v wd j = if j = z then (xr s b).toNat % 2 ^ wd else lane (vr s d) wd j) ∧
      (canTrap s → n ≤ z → Traps (.vxget w d a m c) s 0x0F 0 (xr s m) (me s).pc ∧
        Traps (.vxput w d b m c) s 0x0F 0 (xr s m) (me s).pc))) ∧
  (∀ (s : State) (w : BitVec 3) (d a b : BitVec 5),
    GivesK (.vmand w d a b) s w d 2 (kr s a &&& kr s b) ∧
    GivesK (.vmor w d a b) s w d 2 (kr s a ||| kr s b) ∧
    GivesK (.vmxor w d a b) s w d 2 (kr s a ^^^ kr s b) ∧
    GivesK (.vmnot w d a) s w d 2 (~~~kr s a) ∧
    GivesK (.vmset w d a) s w d 2 ((xr s a).setWidth 32) ∧
    GivesX (.vmget w d a) s w d 2 ((kr s a).setWidth 64))

/-- R149 and R189: an integer reduction combines the active lanes, an inactive one standing for the identity, and writes lane
0 with every other bit 0. R149 and R189: a float reduction combines neighbours level by level, rounding every node, and
collects the nodes' flags; an invalid node traps FP_INVALID under FIE with bit 0 set. -/
def Obligations.VectorReductions : Prop :=
  (∀ (s : State) (w : BitVec 3) (t : BitVec 4) (d a : BitVec 5) (k : BitVec 3),
    t.toNat < 6 → flagsQuiet s 6 →
    let wd := elemWidth t
    let lo : Int := if t.toNat < 3 then -2 ^ (wd - 1) else 0
    let hi : Int := if t.toNat < 3 then 2 ^ (wd - 1) - 1 else 2 ^ wd - 1
    let vals (z : Int) : List Int := (List.range (256 / wd)).map (fun j =>
      if (kr s k).getLsbD j then elemInt t (lane (vr s a) wd j) else z)
    GivesFlags (.vredsum w t d a k) s w d 6 (BitVec.ofNat 256 (elemBits t (vals 0).sum)) 0 ∧
    GivesFlags (.vredmin w t d a k) s w d 6 (BitVec.ofNat 256 (elemBits t ((vals hi).foldr min hi))) 0 ∧
    GivesFlags (.vredmax w t d a k) s w d 6 (BitVec.ofNat 256 (elemBits t ((vals lo).foldr max lo))) 0) ∧
  (∀ (s : State) (w : BitVec 3) (t : BitVec 4) (d a : BitVec 5) (k : BitVec 3)
      (f : FpFmt), 6 ≤ t.toNat → t.toNat < 9 → fpFmt (tyCode t) = some f →
    let wd := elemWidth t
    let r := rndPlain (me s).rndmode
    let node (op : Machine.Num → Machine.Num → Machine.Num × Nat) (x y : Machine.Num) : Machine.Num × Nat :=
      (decodeFp f (roundFp f r (op x y).1).1, Nat.lor (roundFp f r (op x y).1).2 (op x y).2)
    let vals (z : Machine.Num) : List Machine.Num := (List.range (256 / wd)).map (fun j =>
      if (kr s k).getLsbD j then decodeFp f (lane (vr s a) wd j) else z)
    let levels := if t.toNat = 8 then 3 else 4
    let forms (i : Instr) (op : Machine.Num → Machine.Num → Machine.Num × Nat) (z : Machine.Num) : Prop :=
      let out := tree (node op) levels (vals z)
      (¬ (fieOf (me s) = true ∧ out.2 % 2 = 1) → flagsQuiet s 6 →
        GivesFlags i s w d 6 (BitVec.ofNat 256 (roundFp f r (out.1.headD z)).1) out.2) ∧
      (canTrap s → fieOf (me s) = true → out.2 % 2 = 1 → Traps i s 0x0E 0 1 (me s).pc)
    forms (.vredsum w t d a k) (addNum r.mode) (.fin true 0 0) ∧
    forms (.vredmin w t d a k) (fun x y => (minmaxNum false x y, 0)) (.inf false) ∧
    forms (.vredmax w t d a k) (fun x y => (minmaxNum true x y, 0)) (.inf true))

/-- R132, R133, R139, R140, R143 and R192: a conversion rounds each active lane into the destination format, under the mask,
with the upper bits of a narrower destination 0; it draws only when it narrows a float stochastically. R127, R141, R193, R196
and R197: narrowing a part of eight into a packed block, with the flag of a NaN that has no code, and widening a part back.
R142, R193 to R195, Tables 7-3 and 7-4: the header that `vbhdr` builds, of any destination; the block state beside it, from
zero state in part 0, and in parts 1 to 3 from a destination whose greatest magnitude is one; and scaling into and out of the
element range by `vbscale`. It rests on the model's reading in log entry 73. -/
def Obligations.VectorConversions : Prop :=
  (∀ (s : State) (w : BitVec 3) (d a src dst : BitVec 5) (k : BitVec 3),
    src.toNat ∈ [0, 1, 2, 3, 4, 5, 0x0B, 0x0C, 0x0D] → dst.toNat ∈ [0, 1, 2, 3, 4, 5, 0x0B, 0x0C, 0x0D] → src ≠ dst →
    let ws := fmtBits src.toNat
    let wd := fmtBits dst.toNat
    let n := 256 / max ws wd
    let dr := drawn s (convDraws s src.toNat dst.toNat) n
    let f (j : Nat) : Nat × Nat :=
      roundTo dst.toNat (convRnd s (convDraws s src.toNat dst.toNat) dr.1 j) (decodeNum src.toNat (lane (vr s a) ws j))
    (¬ invalidTraps s k n f → flagsQuiet s 3 → ∃ v, GivesDrawn (.vcvt w d a src k dst) s dr.2 w d 3 v (flagsOf s k n f) ∧
      (∀ j < n, lane v wd j = if (kr s k).getLsbD j then (f j).1 else lane (vr s d) wd j) ∧ v.toNat < 2 ^ (wd * n)) ∧
    (canTrap s → invalidTraps s k n f →
      Traps (.vcvt w d a src k dst) s 0x0E 0 (BitVec.ofNat 64 (invalidSet s k n f)) (me s).pc)) ∧
  (∀ (s : State) (w : BitVec 3) (d a f : BitVec 5) (k : BitVec 3) (p : BitVec 2),
    f.toNat ∈ [6, 7, 8, 9, 10, 14] →
    let wd := fmtBits f.toNat
    let dr := drawn s (convDraws s 0x0D f.toNat) 8
    let x (j : Nat) : Machine.Num := decodeNum 0x0D (lane (vr s a) 32 j)
    let g (j : Nat) : Nat × Nat := roundTo f.toNat (convRnd s (convDraws s 0x0D f.toNat) dr.1 j) (x j)
    let lost := decide (f.toNat ∈ [8, 9, 10]) && (List.range 8).any (fun j => (kr s k).getLsbD j && (x j).isNan)
    (¬ invalidTraps s k 8 g → flagsQuiet s 3 → ∃ v, GivesDrawn (.vpack w d a f k p) s dr.2 w d 3 v (flagsOf s k 8 g) ∧
      (∀ e < 8, packed v.toNat wd (8 * p.toNat + e) =
        if (kr s k).getLsbD e then (g e).1 else packed (vr s d).toNat wd (8 * p.toNat + e)) ∧
      (∀ j < 256, ¬ (8 * wd * p.toNat ≤ j ∧ j < 8 * wd * (p.toNat + 1)) →
        v.getLsbD j = ((vr s d).getLsbD j || (j == 255 && lost)))) ∧
    (canTrap s → invalidTraps s k 8 g →
      Traps (.vpack w d a f k p) s 0x0E 0 (BitVec.ofNat 64 (invalidSet s k 8 g)) (me s).pc) ∧
    GivesLanes (.vunpack w d a f k p) s w d k 3 32 8 (fun j =>
      (roundTo 0x0D (rndPlain (me s).rndmode) (decodeNum f.toNat (packed (vr s a).toNat wd (8 * p.toNat + j)))).1)) ∧
  (∀ (s : State) (w : BitVec 3) (d a f : BitVec 5) (k : BitVec 3) (p : BitVec 2),
    f.toNat ∈ [6, 7, 8, 9, 10, 14] →
    let bitsOf (j : Nat) : Nat := lane (vr s a) 32 j
    let isNan (j : Nat) : Bool := decide (0x7F800000 < bitsOf j % 2 ^ 31)
    let am0 := if p = 0 then 0 else lane (vr s d) 32 3
    let am := (List.range 8).foldl (fun m j => if (kr s k).getLsbD j ∧ isNan j = false then max m (bitsOf j % 2 ^ 31) else m) am0
    let nan := (p ≠ 0 && (vr s d).getLsbD 72) || (List.range 8).any (fun j => (kr s k).getLsbD j && isNan j)
    let top : Int := if f = 6 then 8 else if f = 7 then 15 else if f = 8 then 4 else 2
    let ef : Nat := if am = 0 then 127 else if 0x7F800000 ≤ am then 254 else
      (max 0 (min 254 ((if am < 2 ^ 23 then (Nat.log2 am : Int) - 149 else (am / 2 ^ 23 : Nat) - 127) - top + 127))).toNat
    (∃ v, GivesV (.vbhdr w d a f k p) s w d 3 v ∧ lane v 64 0 / 2 ^ 8 = f.toNat * 2 ^ 17 + 8 * (p.toNat + 1) ∧
      lane v 64 2 = 0 ∧ lane v 64 3 = 0) ∧
    (p = 0 ∨ lane (vr s d) 32 3 ≤ 0x7F800000 → ∃ v, GivesV (.vbhdr w d a f k p) s w d 3 v ∧
      lane v 64 0 = f.toNat * 2 ^ 25 + 8 * (p.toNat + 1) * 2 ^ 8 + (if nan && decide (f.toNat ∈ [8, 9, 10]) then 0xFF else ef) ∧
      lane v 64 1 = am * 2 ^ 32 + (if nan then 2 ^ 8 else 0) + ef ∧ lane v 64 2 = 0 ∧ lane v 64 3 = 0) ∧
    (let x (j : Nat) : Machine.Num := decodeNum 0x0D (lane (vr s d) 32 j)
     let e0 : Int := lane (vr s a) 8 8
     let e1 : Nat := lane (vr s a) 8 0
     let r := rndPlain (me s).rndmode
     LanesOrTrap (.vbscale w d a f k 0) s w d k 3 32 8 (fun j => roundTo 0x0D r ((x j).scale (127 - e0))) ∧
     LanesOrTrap (.vbscale w d a f k 1) s w d k 3 32 8 (fun j =>
       if e1 = 0xFF then (0x7FC00000 + (if (lane (vr s d) 32 j).testBit 31 then 2 ^ 31 else 0), 0)
       else roundTo 0x0D r ((x j).scale (e1 - 127)))))

/-- R201: every approximation completes lane by lane with a fixed function of each active lane's operand bits, which does not
depend on RNDMODE.MODE. Which of the results within its bound that function gives is a free value of the model (log 7). It
rests on the model's reading in log entry 7. R202 and Table 7-10: the special operands of the approximations, in .f32, with
their flags. It rests on the model's reading in log entry 7. -/
def Obligations.Approximations : Prop :=
  (∀ (s : State) (w : BitVec 3) (d a : BitVec 5) (k : BitVec 3) (t : BitVec 2),
    t.toNat < 3 →
    let code := approxCode t
    let wd := fmtBits code
    let forms (fn : Nat) (i : Instr) : Prop :=
      LanesOrTrap i s w d k 8 wd (256 / wd) (fun j => approxLane code fn (rndPlain (me s).rndmode) (lane (vr s a) wd j))
    forms 0 (.vexp2 w d a k t) ∧ forms 1 (.vlog2 w d a k t) ∧ forms 2 (.vrcp w d a k t) ∧ forms 3 (.vrsqrt w d a k t) ∧
    forms 4 (.vtanh w d a k t) ∧ forms 5 (.vsin w d a k t) ∧ forms 6 (.vcos w d a k t) ∧ forms 7 (.vsigm w d a k t) ∧
    ∀ (fn x : Nat) (r r' : Rnd), r.satf = r'.satf → approxLane code fn r x = approxLane code fn r' x) ∧
  (∀ r : Rnd, r.satf = false →
    let f (fn x : Nat) : Nat × Nat := approxLane 0x0D fn r x
    f 0 0xFF800000 = (0, 0) ∧ f 0 0x7F800000 = (0x7F800000, 0) ∧ f 0 0 = (0x3F800000, 0) ∧ f 0 0x40400000 = (0x41000000, 0) ∧
    f 1 0 = (0xFF800000, 2) ∧ f 1 0xBF800000 = (0x7FC00000, 1) ∧ f 1 0x7F800000 = (0x7F800000, 0) ∧ f 1 0x3F800000 = (0, 0) ∧
    f 1 0x41000000 = (0x40400000, 0) ∧ f 2 0x80000000 = (0xFF800000, 2) ∧ f 2 0x7F800000 = (0, 0) ∧
    f 2 0x40000000 = (0x3F000000, 0) ∧ f 3 0x80000000 = (0xFF800000, 2) ∧ f 3 0xBF800000 = (0x7FC00000, 1) ∧
    f 3 0x7F800000 = (0, 0) ∧ f 4 0x80000000 = (0x80000000, 0) ∧ f 4 0xFF800000 = (0xBF800000, 0) ∧
    f 5 0x7F800000 = (0x7FC00000, 1) ∧ f 5 0xBF000000 = (0x80000000, 0) ∧ f 6 0x40A00000 = (0x3F800000, 0) ∧
    f 7 0x7F800000 = (0x3F800000, 0) ∧ f 7 0xFF800000 = (0, 0) ∧ f 7 0 = (0x3F000000, 0))

/-- R93, R97, R99, R101, R103, R179 and R329: at its home, with its granule loaded back where it stands in a frame, a load of
memory returns the word there, a word sign-extended, or the error of it; a store writes its bytes in local memory below the
Letterbox tags, in a GDDR-7 granule without an error or in a good dword of a slice, and no other, and one of a Letterbox tag
frees the entry; an access that the home refuses reports PROT with its address and changes no byte; one behind an earlier
access of its source stays. It rests on the model's reading in log entries 3 and 43. R99, R101 and R111 to R113: an atomic,
with its granule loaded back where it stands in a frame, reads the old value in local memory below the Letterbox tags or in a
good dword of a slice, writes what Table 4-7 gives and returns the old one, in one step; one whose word has an error reports
it, and one that the home refuses PROT, and neither writes; one behind an earlier access, or while a handler runs there,
stays. -/
def Obligations.AccessAtHome : Prop :=
  (∀ (s : State) (id : Nat) (f : Flight), s.args = [id] → s.flights.find id = some f →
    f.kind = .load ∨ f.kind = .store →
    let u := homeRestore s f
    let done (t : State) (v : W64) (e : Option (Nat × Nat × W64)) : Prop :=
      exec .accessAtHome s = .next t ∧
      t.flights.find id = some { f with performed := true, result := v, err := e } ∧ t.slots = s.slots
    (waitsBehind s id f = true → ∃ t, exec .accessAtHome s = .next t ∧ Listed t .accessAtHome [id] ∧ t.slots = s.slots ∧
      t.mem = s.mem ∧ t.wregs = s.wregs) ∧
    (waitsBehind s id f = false → homeRefuses s f = true → ∃ t, done t 0 (some (0x05, 0, f.va)) ∧ t.mem = s.mem) ∧
    (waitsBehind s id f = false → homeRefuses s f = false → isMemory (placeOf f.pa) = true →
      (f.kind = .load → errOf u f.pa f.va = none →
        ∃ t, done t (extendTo64 (wordAt u f.pa f.size) f.size) none ∧ t.mem = u.mem) ∧
      (f.kind = .load → ∀ cause v, errOf u f.pa f.va = some (cause, v) → ∃ t, done t 0 (some (cause, 0, v)) ∧ t.mem = u.mem) ∧
      (f.kind = .store → f.size = 4 ∨ f.size = 8 → wordErr u f.pa ≠ .ecc →
        ((∃ c off, placeOf f.pa = .localMem c off ∧ off + f.size ≤ 0x3FE00) ∨ (∃ p c, placeOf f.pa = .gddr p c) ∨
          (∃ c off, placeOf f.pa = .slice c off) ∧ wordErr u f.pa = .good ∧ f.pa % f.size = 0) →
        ∃ t, done t 0 none ∧ ∀ x, memByte t x =
          if f.pa ≤ x ∧ x < f.pa + f.size then f.b.extractLsb' (8 * (x - f.pa)) 8 else memByte u x) ∧
      (f.kind = .store → ∀ c off, placeOf f.pa = .localMem c off → 0x3FE00 ≤ off → ∃ t, done t 0 none ∧
        (lbEntry t c ((off - 0x3FE00) / 8)).tag = 0 ∧
        ∀ x, memByte t x = if localPa c (off / 8 * 8) ≤ x ∧ x < localPa c (off / 8 * 8) + 8 then 0 else memByte u x))) ∧
  (∀ (s : State) (id op c off : Nat) (f : Flight), s.args = [id] →
    s.flights.find id = some f → f.kind = .amo op → f.size = 4 ∨ f.size = 8 → f.pa % f.size = 0 →
    let g := { f with arrived := if f.arrived = 0 then s.nextId + 1 else f.arrived }
    let held := waitsBehind s id f = true ∨ amoWaitsBehind s g = true ∨ (getSlot s (f.home % 2048) 4).st ≠ .free
    let u := homeRestore s f
    let old := wordAt u f.pa f.size
    let done (t : State) (v : W64) (e : Option (Nat × Nat × W64)) : Prop :=
      exec .amoStep s = .next t ∧ t.flights.find id = some { g with performed := true, result := v, err := e } ∧ t.slots = s.slots
    (held → ∃ t, exec .amoStep s = .next t ∧ Listed t .amoStep [id] ∧ t.slots = s.slots ∧ t.mem = s.mem ∧ t.wregs = s.wregs) ∧
    (¬ held → homeRefuses s f = true → ∃ t, done t 0 (some (0x05, 0, f.va)) ∧ t.mem = s.mem) ∧
    (¬ held → homeRefuses s f = false → ∀ cause v, errOf u f.pa f.va = some (cause, v) →
      ∃ t, done t 0 (some (cause, 0, v)) ∧ t.mem = u.mem) ∧
    (¬ held → homeRefuses s f = false → errOf u f.pa f.va = none →
      (placeOf f.pa = .localMem c off ∧ off + f.size ≤ 0x3FE00) ∨ (placeOf f.pa = .slice c off ∧ wordErr u f.pa = .good) →
      ∃ t, done t (extendTo64 old f.size) none ∧
        ∀ x, memByte t x = match amoNew op f.size old f.b.toNat f.c.toNat with
          | some v => if f.pa ≤ x ∧ x < f.pa + f.size then BitVec.ofNat 8 (v / 256 ^ (x - f.pa)) else memByte u x
          | none => memByte u x))

/-- R37, R38, R64, R99 and R106: a reply ends its access: the destination takes the value, and an earlier write of it that is
still pending is discarded, or an error is recorded for its observation and the destination keeps its value; x0 and a store
have no destination; a reply for a task that has gone changes no slot. R25, R103, R115, R116 and R157: a message that reaches
its core stays behind an earlier access of its task to that core, and is else bounced with its status or queued; a reply
without an error raises the counter its sender named, and one with an error is recorded for that counter's observation once
the task has room, or for a fence where it named none; one for a task that has gone changes no slot and no counter; a late
bounce of which the sender is gone, or of a handler's message, is dropped and counted. It rests on the model's reading in log
entries 4 and 71. R25, R156 and R157: the first message waiting is accepted into the lowest free entry it may use: its body
and tag stand in local memory and the entry, the target's sequence number rises by one where no other message waits behind
it, and the message is performed. It rests on the model's reading in log entries 23 and 24. -/
def Obligations.RepliesAndArrivals : Prop :=
  (∀ (s : State) (id r : Nat) (f : Flight), s.args = [id] → s.flights.find id = some f →
    f.kind = .load ∨ f.kind = .store ∨ (∃ op, f.kind = .amo op) → f.rd = some r ∨ f.rd = none ∧ r = 0 → r < 32 →
    let t0 := getSlot s f.core f.slot
    ∃ t, exec .accessReply s = .next t ∧ t.flights.find id = none ∧ t.mem = s.mem ∧
      (sameTask s f.core f.slot f.inc = true → f.err = none →
        getSlot t f.core f.slot =
          if r = 0 then t0 else putX { t0 with pend := t0.pend.filter (fun p => !(p.file == .x && p.idx == r)) } r f.result) ∧
      (sameTask s f.core f.slot f.inc = true → ∀ cause unit v, f.err = some (cause, unit, v) →
        getSlot t f.core f.slot = { t0 with
          pend := if r = 0 then t0.pend else t0.pend.filter (fun p => !(p.var && p.file == .x && p.idx == r))
          errs := t0.errs.filter (fun q => decide (q.order ≤ id)) ++
            { rd := if r = 0 then none else some r, home := fenceHome f, order := id, cause := cause, unit := unit, value := v } ::
            t0.errs.filter (fun q => decide (id < q.order)) }) ∧
      (sameTask s f.core f.slot f.inc = false → t.slots = s.slots)) ∧
  (∀ (s : State) (id : Nat) (f : Flight), s.args = [id] →
    s.flights.find id = some f →
    (waitsBehind s id f = true → ∃ t, exec .amsendArrival s = .next t ∧ Listed t .amsendArrival [id] ∧ t.slots = s.slots ∧
      t.mem = s.mem) ∧
    (waitsBehind s id f = false → ∀ st, bounceStatus s f = some st → ∃ t, exec .amsendArrival s = .next t ∧ t.slots = s.slots ∧ t.mem = s.mem ∧
      t.flights.find id = some { f with
        performed := true, result := 0, err := some (0x0B, 7, BitVec.ofNat 64 (st * 2 ^ 62 + f.b.toNat % 2 ^ 30)) }) ∧
    (waitsBehind s id f = false → bounceStatus s f = none → ∃ t, exec .amsendArrival s = .next t ∧ t.slots = s.slots ∧ t.mem = s.mem ∧
      (getCore t f.home).arrq = (getCore s f.home).arrq ++ [id] ∧
      (Instr.letterboxAccept, [f.home]) ∈ t.agenda.map (·.2)) ∧
    (∀ n, sameTask s f.core f.slot f.inc = true → f.cnt = some n → n < 16 → f.size ≠ 1 →
      (f.err = none → ∃ t, exec .amsendReply s = .next t ∧ t.flights.find id = none ∧ t.slots = s.slots ∧
        (∀ k < 16, vget 0 (getCore t f.core).cc k = if k = n then vget 0 (getCore s f.core).cc k + 1 else vget 0 (getCore s f.core).cc k)) ∧
      (∀ cause unit v, f.err = some (cause, unit, v) → recRoom s f.core f.slot = true →
        ∃ t, exec .amsendReply s = .next t ∧ t.flights.find id = none ∧
          ({ obj := .cc n, order := id, cause := cause, unit := unit, value := v, alt := none } : Rec) ∈
            (getSlot t f.core f.slot).records ∧
          vget 0 (getCore t f.core).cc n = vget 0 (getCore s f.core).cc n + 1) ∧
      (∀ e, f.err = some e → recRoom s f.core f.slot = false → ∃ t, exec .amsendReply s = .next t ∧
        Listed t .amsendReply [id] ∧ { t with agenda := s.agenda } = s)) ∧
    (sameTask s f.core f.slot f.inc = true → f.cnt = none → f.size ≠ 1 → ∀ cause unit v, f.err = some (cause, unit, v) →
      ∃ t, exec .amsendReply s = .next t ∧ t.flights.find id = none ∧ t.cores = s.cores ∧
        ({ rd := none, home := fenceHome f, order := id, cause := cause, unit := unit, value := v } : Err) ∈ (getSlot t f.core f.slot).errs) ∧
    (sameTask s f.core f.slot f.inc = false ∨ f.slot = 4 ∧ f.size = 1 → ∃ t, exec .amsendReply s = .next t ∧
      { t with flights := s.flights, wregs := s.wregs } = s ∧ t.flights.find id = none ∧
      ∀ a, getReg t a = if a = coreWin f.core 0x038 ∧ f.size = 1 then satAdd16 (getReg s a) 0 1 else getReg s a)) ∧
  (∀ (s : State) (core id i : Nat) (rest : List Nat) (f : Flight), s.args = [core] → core < 2048 →
    (getCore s core).arrq = id :: rest → id ∉ rest → s.flights.find id = some f → f.core < 2048 → bounceStatus s f = none →
    ((List.range 16).filter (fun j => (bitOf f.b 13 || decide (4 ≤ j)) && !bitOf (lbEntry s core j).tag 63 &&
      decide ((lbEntry s core j).order ≤ s.now))).head? = some i →
    (bitOf f.b 13 = true ∨ msgAge s f ≤ 2048) →
    let tgt := if bitOf f.b 13 then 4 else f.b.toNat / 2 ^ 11 % 4
    let seq := vget 0 (getCore s core).seq tgt + 1
    ∃ t, exec .letterboxAccept s = .next t ∧ id ∉ (getCore t core).arrq ∧ (lbEntry t core i).tag = tagOf f seq.toNat ∧
      (rest = [] → (getCore t core).arrq = [] ∧ vget 0 (getCore t core).seq tgt = seq) ∧
      rdN t (localPa core (0x3FC00 + 32 * i)) 32 = f.body.toNat ∧
      rdN t (localPa core (0x3FE00 + 8 * i)) 8 = (tagOf f seq.toNat).toNat ∧
      t.flights.find id = some { f with performed := true, result := 0, err := none } ∧ t.slots = s.slots)

/-- R151, R158: the idle handler slot starts the handler of the oldest accepted message at system level, with x2 to x5 set,
every other register 0 and k0 all ones, 2 cycles later; a message whose ENTRY names no handler leaves its cause in HFAULT and
its tag in HFTAG, and its entry is freed (HFTAG and the program counter 0 in HFAULT are the model's choice, log entry 71);
R160: a handler that reaches its 257th instruction is aborted. It rests on the model's reading in log entry 71. R28, R41, R85
and R108: a trap entry taken as a hardware step, the pending writes of the slot having landed; the freezing of a slot 256
instructions after its DRAUGHT trap, and its FROZEN state once nothing it started is outstanding, for which it waits before.
It rests on the model's reading in log entry 31. -/
def Obligations.HandlersAndFreezing : Prop :=
  (∀ (s : State) (core i st : Nat) (rest : List Nat) (im : Image) (pc : W64), s.args = [core] →
    ((getSlot s core 4).st = .free → (getCore s core).lbOrder = i :: rest → imageOf s core = some (im, st) →
      (im.stages.getD st ⟨0, [], 0, [], [], [], none, false⟩).handlers[(lbEntry s core i).tag.toNat / 2 ^ 29 % 256]? = some pc →
      ∃ t, exec .handlerStart s = .next t ∧
        (let h := getSlot t core 4
         h.st = .trap ∧ h.pc = pc ∧ h.status = 1 ∧ h.entry = some i ∧ h.hcount = 0 ∧ h.ready = s.now + 2 ∧ h.pend = [] ∧
         h.flags = 0 ∧ h.rndmode = 0 ∧ h.waitchk = 0 ∧ h.v = Vector.replicate 32 0 ∧ vget 0 h.k 0 = 0xFFFFFFFF ∧
         (∀ r < 32, vget 0 h.x r = if r = 2 then BitVec.ofNat 64 (0x38000 - 4 * (if im.stack = 0 then 4096 else im.stack))
           else if r = 3 then BitVec.ofNat 64 (0x3FC00 + 32 * i) else if r = 4 then (lbEntry s core i).tag
           else if r = 5 then BitVec.ofNat 64 (0x2000 + core) else 0)) ∧
        t.mem = s.mem ∧ ∀ key, key ≠ slotKey core 4 → t.slots.find key = s.slots.find key) ∧
    ((getSlot s core 4).st = .free → (getCore s core).lbOrder = i :: rest → i < 16 → imageOf s core = some (im, st) →
      (im.stages.getD st ⟨0, [], 0, [], [], [], none, false⟩).handlers[(lbEntry s core i).tag.toNat / 2 ^ 29 % 256]? = none →
      ∃ t, exec .handlerStart s = .next t ∧ t.slots = s.slots ∧ getReg t (coreWin core 0x020) = BitVec.ofNat 64 (2 ^ 63 + 2 ^ 56) ∧
        getReg t (coreWin core 0x028) = (lbEntry s core i).tag ∧ (lbEntry t core i).tag = 0) ∧
    ((getSlot s core 4).st ≠ .free → 256 ≤ (getSlot s core 4).hcount →
      ∃ t, exec .handlerLongAbort s = .next t ∧ (getSlot t core 4).st = .free ∧ (getSlot t core 4).hcount = 0 ∧
        getReg t (coreWin core 0x020) =
          BitVec.ofNat 64 (2 ^ 63 + 0x0C * 2 ^ 56 + (getSlot s core 4).pc.toNat % 2 ^ 52 / 4 * 4))) ∧
  (∀ (s : State) (core k : Nat), k < 4 →
    let u := getSlot s core k
    (∀ cause unit : Nat, ∀ v pc : W64, s.args = [core, k, cause, unit, v.toNat, pc.toNat] → u.st = .run ∨ u.st = .trap →
      inTrap u = false → ∃ t, exec .trapEntry s = .next t ∧
        (let last := (u.pend.filter (fun p => !p.var)).foldl (fun a p => max a p.due) (s.now + 1)
         let l := u.landDue false last
         getSlot t core k = { l with
           trapcause := BitVec.ofNat 64 (unit * 4096 + cause), trapval := v, trappc := pc &&& 0xFFFFFFFFFFFFC, st := .trap,
           pc := tvecOf s core k + BitVec.ofNat 64 (64 * cause), status := (getSlot t core k).status, fbuf := [], ready := last,
           w7 := false, stall := none, request := none, replied := none } ∧
         ∀ j, (getSlot t core k).status.getLsbD j =
           if j = 0 ∨ j = 2 then true else if j = 1 then l.status.getLsbD 0 else l.status.getLsbD j) ∧
        t.mem = s.mem ∧ t.wregs = s.wregs ∧ ∀ key, key ≠ slotKey core k → t.slots.find key = s.slots.find key) ∧
    (∀ n, s.args = [core, k] → u.draught = some n → 256 ≤ n → ∃ t, exec .draughtInstructionLimit s = .next t ∧
      getSlot t core k = { u with draught := none, freezing := true } ∧ (Instr.slotFreeze, [core, k]) ∈ t.agenda.map (·.2)) ∧
    (s.args = [core, k] → u.freezing = true → u.st = .run ∨ u.st = .trap → freezeWaits s core k = false →
      ∃ t, exec .slotFreeze s = .next t ∧ (getSlot t core k).st = .frozen ∧ (getSlot t core k).froze = u.st ∧
        (getSlot t core k).pc = u.pc ∧ (getSlot t core k).freezing = false ∧ t.mem = s.mem) ∧
    (s.args = [core, k] → u.freezing = true → u.st = .run ∨ u.st = .trap → freezeWaits s core k = true →
      ∃ t, exec .slotFreeze s = .next t ∧ Listed t .slotFreeze [core, k] ∧ { t with agenda := s.agenda } = s))

/-- R9, R10, R378, R439: writes by the application cores of memory and of registers: exactly the eight bytes, the writable
bits of a register that only stores, and the cleared bits of a write-1-to-clear register. A write to a window that holds an
earlier one of theirs is held behind it (R103; that they are one source to each window is the model's choice, log entry 71).
It rests on the model's reading in log entries 10, 11, 55 and 71. R179 and Table 14-11: the granule of a halted partition
goes to its frame in the Pantry when another takes its place, and comes back byte for byte when its partition touches it. It
rests on the model's reading in log entries 19 and 61. -/
def Obligations.ApplicationCoresAndGranules : Prop :=
  (∀ (s : State) (pa : Nat) (v : W64), pa % 8 = 0 →
    placeRefuses s (pkgOfPlace (placeOf pa)) 0 true pa = false →
    (s.args = [pa, v.toNat, 0] → appHeld (getPkg s (pkgOfPlace (placeOf pa))).heldWrites pa = true →
      ∃ t, exec .registerWrite s = .next t ∧ t.mem = s.mem ∧ t.wregs = s.wregs ∧ t.slots = s.slots ∧
        (getPkg t (pkgOfPlace (placeOf pa))).heldWrites = (getPkg s (pkgOfPlace (placeOf pa))).heldWrites ++ [[9, pa, v.toNat, 0]]) ∧
    (s.args = [pa, v.toNat, 0] → appHeld (getPkg s (pkgOfPlace (placeOf pa))).heldWrites pa = false →
      (∀ p c, placeOf pa = .gddr p c → wordErr s pa ≠ .ecc → ∃ t, exec .registerWrite s = .next t ∧ t.slots = s.slots ∧
        ∀ x, memByte t x = if pa ≤ x ∧ x < pa + 8 then v.extractLsb' (8 * (x - pa)) 8 else memByte s x) ∧
      (∀ m, storeMask (placeOf pa) = some m → isMemory (placeOf pa) = false → ∃ t, exec .registerWrite s = .next t ∧
        getReg t pa = v &&& m ∧ (∀ q, q ≠ pa → getReg t q = getReg s q) ∧ { t with wregs := s.wregs } = s)) ∧
    (s.args = [pa, v.toNat] → isW1c (placeOf pa) = true → ∃ t, exec .w1cClear s = .next t ∧
      getReg t pa = getReg s pa &&& ~~~v ∧ (∀ q, q ≠ pa → getReg t q = getReg s q) ∧ { t with wregs := s.wregs } = s)) ∧
  (∀ (s : State) (core g off : Nat), s.args = [core, g] → core < 2048 → g < 64 →
    let part := partOfCore s core
    let o := (getCore s core).owner.get part g
    off % 8 = 0 → off + 0x80000 ≤ 0x1800000 →
    (o ≠ part → haltedPart s o = true → frameOff s core o = some off →
      ∃ t, exec .granuleSave s = .next t ∧ (getCore t core).owner.get part g = part ∧
        (getCore t core).saved.get false (savedKey o g) = true ∧
        ∀ k < 4096, memByte t (slicePa core (off + 4096 * g + k)) = memByte s (localPa core (4096 * g + k))) ∧
    (o = part ∨ haltedPart s o = false → (getCore s core).saved.get false (savedKey part g) = true → frameOff s core part = some off →
      (∀ k < 512, s.syn.find (slicePa core (off + 4096 * g + 8 * k) / 8) = none) →
      ∃ t, exec .granuleRestore s = .next t ∧ (getCore t core).saved.get false (savedKey part g) = false ∧
        ∀ k < 4096, memByte t (localPa core (4096 * g + k)) = memByte s (slicePa core (off + 4096 * g + k))))

/-- R276 and R278 to R280: `ald` and `ast` whose addresses are aligned and in reach are granted the cycles of their lines
once none of these is taken, and else stall: from 8 and 16 cycles on for each line of an `ald`, from 1, 2 and 11 for each of
an `ast`, and the acknowledgement 10 cycles and twice the lines after the issue; a misaligned address traps ALIGN, and one
out of reach PROT, that of rs1 before that of rs2. It rests on the model's reading in log entry 72. R278 and R279: the lines
of a transfer as they move: a line of an `ald` without an error is read at the slice; of one that has been read, the good
dwords are written to local memory; a line of an `ast` without an error is read in two halves; one that has been read is
written to the slice, with good check bytes where the dword was good and poisoned where it was not; nothing else changes in
memory. The acknowledgement ends an `ast` that has no error to record. It rests on the model's reading in log entry 29. -/
def Obligations.ChimneyTransfers : Prop :=
  (∀ (s : State) (w : BitVec 3) (a b : BitVec 5) (c : BitVec 6) (ld : Bool),
    let n := c.toNat + 1
    let la := if ld then xr s a else xr s b
    let so := if ld then xr s b else xr s a
    let x : Xfer := { op := s.nextId, slot := s.curSlot, load := ld, la := la.toNat, so := so.toNat, n := n, at0 := s.now, left := n, halves := [] }
    let i : Instr := if ld then .ald w a b c else .ast w a b c
    let far := decide (0x40000 < la.toNat + 128 * n) || (!lvlOf (me s) && sysOnlyRange s s.curCore la.toNat (128 * n))
    let away := decide (attcap s s.curCore < so.toNat + 128 * n) || (!lvlOf (me s) && decide (pantry s s.curCore < so.toNat + 128 * n))
    let free := chimFree (posOfCore s.curCore) (myCore s) x = true ∧
      (ld = true → ∀ y ∈ (myCore s).chim, y.load = false → y.so + 128 * y.n ≤ x.so ∨ x.so + 128 * n ≤ y.so)
    (la.toNat % 128 = 0 → so.toNat % 128 = 0 → far = false → away = false →
      (∀ g, la.toNat / 4096 ≤ g → 4096 * g < la.toNat + 128 * n → touch s s.curCore (partOf s (me s).part) g = .ok) →
      (¬ free → Stalls i s) ∧
      (free → Engages i s w id (fun co => { co with chim := co.chim ++ [x] })
        (if ld then (List.range n).flatMap (fun j =>
            [(s.now + 8 + j, .aldLineLanding, [s.curCore, s.nextId, j, 0]), (s.now + 16 + j, .aldLineLanding, [s.curCore, s.nextId, j, 1])])
          else (s.now + 10 + 2 * n, .astAcknowledgement, [s.curCore, s.nextId]) :: (List.range n).flatMap (fun j =>
            [(s.now + 1 + 2 * j, .astLineWrite, [s.curCore, s.nextId, j, 0]), (s.now + 2 + 2 * j, .astLineWrite, [s.curCore, s.nextId, j, 1]),
             (s.now + 11 + 2 * j, .astLineWrite, [s.curCore, s.nextId, j, 2])])))) ∧
    (canTrap s → (xr s a).toNat % 128 ≠ 0 → Traps i s 0x03 0 (xr s a) (me s).pc) ∧
    (canTrap s → (xr s a).toNat % 128 = 0 → (xr s b).toNat % 128 ≠ 0 → Traps i s 0x03 0 (xr s b) (me s).pc) ∧
    (canTrap s → (xr s a).toNat % 128 = 0 → (xr s b).toNat % 128 = 0 → (if ld then far else away) = true →
      Traps i s 0x05 0 (xr s a) (me s).pc) ∧
    (canTrap s → (xr s a).toNat % 128 = 0 → (xr s b).toNat % 128 = 0 → (if ld then far else away) = false →
      (if ld then away else far) = true → Traps i s 0x05 0 (xr s b) (me s).pc)) ∧
  (∀ (s : State) (core op j ph : Nat) (x : Xfer), s.args = [core, op, j, ph] → core < 2048 →
    findXfer s core op = some x → j < x.n → x.la + 128 * x.n ≤ 0x40000 → x.la % 128 = 0 →
    x.so + 128 * x.n ≤ 0x1800000 → x.so % 128 = 0 →
    let local_ (i : Nat) : Nat := localPa core (x.la + 8 * i)
    let slice (i : Nat) : Nat := slicePa core (x.so + 8 * i)
    let line := (List.range 16).map (fun i => 16 * j + i)
    (x.load = true →
      (ph = 0 → (∀ i ∈ line, s.syn.find (slice i / 8) = none) → ∃ t y, exec .aldLineLanding s = .next t ∧ findXfer t core op = some y ∧
        y.halves = x.halves ++ line.map (fun i => (i, rd64 s (slice i), false)) ∧ t.mem = s.mem ∧ t.slots = s.slots) ∧
      (ph = 1 → ∀ (v : Nat → W64) (b : Nat → Bool), x.halves.filter (fun h => h.1 / 16 == j) = line.map (fun i => (i, v i, b i)) →
        ∃ t, exec .aldLineLanding s = .next t ∧
          (∀ p, memByte t p =
            let i := 16 * j + (p - local_ (16 * j)) / 8
            if local_ (16 * j) ≤ p ∧ p < local_ (16 * j) + 128 ∧ b i = false then
              (v i).extractLsb' (8 * ((p - local_ (16 * j)) % 8)) 8 else memByte s p) ∧
          ((∀ h ∈ x.halves, h.2.2 = false) → (x.left ≤ 1 → findXfer t core op = none) ∧
            (1 < x.left → ∃ y, findXfer t core op = some y ∧ y.left = x.left - 1)))) ∧
    (x.load = false →
      (ph < 2 → (∀ i ∈ line, s.localBad.find (local_ i / 8) = none) → ∃ t y, exec .astLineWrite s = .next t ∧ findXfer t core op = some y ∧
        y.halves = x.halves ++ (List.range 8).map (fun i => (16 * j + 8 * ph + i, rd64 s (local_ (16 * j + 8 * ph + i)), false)) ∧
        t.mem = s.mem ∧ t.slots = s.slots) ∧
      (ph = 2 → ∀ (v : Nat → W64) (b : Nat → Bool), x.halves.filter (fun h => h.1 / 16 == j) = line.map (fun i => (i, v i, b i)) →
        ∃ t, exec .astLineWrite s = .next t ∧ t.slots = s.slots ∧
          (∀ i ∈ line, t.syn.find (slice i / 8) = if b i then some 0xFF else none) ∧
          ∀ p, memByte t p = if slice (16 * j) ≤ p ∧ p < slice (16 * j) + 128 then
            (v (16 * j + (p - slice (16 * j)) / 8)).extractLsb' (8 * ((p - slice (16 * j)) % 8)) 8 else memByte s p) ∧
      (x.halves = [] → ∃ t, exec .astAcknowledgement s = .next t ∧ findXfer t core op = none ∧ t.mem = s.mem)))

/-- R94, R282 and R284: scrub of a slice dword leaves a good one and a poisoned one, corrects a correctable one in the array
and counts it, and poisons and counts one of KIND 0 or 2; scrub of a local dword corrects and counts. No other byte of memory
changes. -/
def Obligations.Scrubbing : Prop := ∀ (s : State) (core off : Nat), s.args = [core, off] → core < 2048 → off % 8 = 0 →
  (off < 0x1800000 →
    let pa := slicePa core off
    (wordErr s pa = .good ∨ wordErr s pa = .attic 1 → exec .atticScrub s = .next s) ∧
    (wordErr s pa = .corrected → ∃ t, exec .atticScrub s = .next t ∧ t.syn.find (pa / 8) = none ∧ rd64 t pa = dwordAt s pa ∧
      (∀ p, p < pa ∨ pa + 8 ≤ p → memByte t p = memByte s p) ∧ t.slots = s.slots ∧
      getReg t (coreWin core 0x090) = satAdd16 (getReg s (coreWin core 0x090)) 0 1) ∧
    (∀ kind, wordErr s pa = .attic kind → kind ≠ 1 → ∃ t, exec .atticScrub s = .next t ∧ t.syn.find (pa / 8) = some 0xFF ∧
      t.mem = s.mem ∧ t.slots = s.slots ∧
      getReg t (coreWin core 0x090) = satAdd16 (getReg s (coreWin core 0x090)) (if kind = 2 then 32 else 16) 1)) ∧
  (off < 0x40000 →
    let pa := localPa core off
    (s.localBad.find (pa / 8) = some false → ∃ t, exec .localMemoryScrub s = .next t ∧ t.localBad.find (pa / 8) = none ∧
      getReg t (coreWin core 0x030) = satAdd16 (getReg s (coreWin core 0x030)) 0 1 ∧ t.mem = s.mem ∧ t.slots = s.slots) ∧
    (s.localBad.find (pa / 8) ≠ some false → exec .localMemoryScrub s = .next s))

/-- R133 and R164 to R166: `cqpush` and `cqpush.nb` with room in the copy queue enter the descriptor at rs1 with what they
capture, the draws of a copy that rounds stochastically reserved, and the latter returns the lowest free entry number times
16; with the queue full the former stalls and the latter returns 1; a misaligned descriptor traps. `wmwait` waits for DONE
and then goes on where no counted operation has a recorded fault, and takes the oldest such fault as its own trap. It rests
on the model's reading in log entries 42 and 73. R164, R165 and R167: at most two copies are started, in push order; a
started copy that converts nothing and checks no header, between local memory, addresses that range entries translate and
corridor slots, lands the bytes of its rows, from its core's local memory, GDDR-7 or slices into those, below the Letterbox
tags, where no word has an error and the destinations are apart from the source and from one another, changes no other byte
and leaves the queue; one that its start found faulty ends with a COPY_FAULT recorded once its task has room for it. It rests
on the model's reading in log entries 4, 6 and 73. -/
def Obligations.Copies : Prop :=
  (∀ (s : State) (w : BitVec 3) (a d : BitVec 5) (n : BitVec 3) (e : BitVec 1) (c : BitVec 2) (h : BitVec 1),
    let p := xr s a
    let q := (myCore s).cq
    let t0 := me s
    let desc := recordAt s p 4
    let off : W64 := if h = 1 then chainOffset t0 c.toNat else 0
    let d3 := desc.getD 3 0
    let awaited (m : MOp) : Bool :=
      (if bits d3 22 2 = 1 then m.kind == .mstr else if bits d3 22 2 = 2 then m.kind == .mlds else false) &&
        !(m.begun.isSome && decide (m.readBy ≤ s.now))
    let x (k : Nat) : CopyEnt :=
      { op := s.nextId, entry := k, slot := s.curSlot, inc := t0.incarn, part := t0.part, lvl := lvlOf t0, rnd := t0.rndmode,
        key := (getReg s (coreWin s.curCore 0)).toNat,
        ctr := (getReg s (coreWin s.curCore 8)).toNat + 2 ^ 64 * (getReg s (coreWin s.curCore 0x10)).toNat,
        fie := fieOf t0, d0 := if bits d3 26 2 = 3 then desc.getD 0 0 else desc.getD 0 0 + off, d1 := desc.getD 1 0 + off,
        d2 := desc.getD 2 0, d3 := d3, chan := if e = 1 then some n.toNat else none,
        commit := h == 1 && chainLast t0 c.toNat && bits d3 24 2 == 2, waitOps := ((myCore s).mq.filter awaited).map (fun m => m.op),
        started := false, shold := none, dhold := none, early := none, fin := false, fault := none, flags := 0, abandoned := false }
    let lowest (k : Nat) : Prop := k < 8 ∧ (∀ y ∈ q, y.entry ≠ k) ∧ ∀ j < k, ∃ y ∈ q, y.entry = j
    let own (k : Nat) (co : Core) : Core := { co with
      cq := co.cq ++ [x k], wmq := if e = 1 then vset co.wmq n.toNat (vget [] co.wmq n.toNat ++
        [{ op := s.nextId, bytes := (bits d3 48 16 + 1) * (bits d3 28 20 + 1), done := false }]) else co.wmq }
    let due := [(s.now, Instr.copyStart, [s.curCore, s.nextId])]
    (RecordOk s p 32 → q.length < 8 → ∃ k, lowest k ∧
      EngagesDrawn (.cqpush w a n e c h) s (reserveDraws s (x k)) w (fun _ => id) (own k) due ∧
      EngagesDrawn (.cqpushNb w a d n e c h) s (reserveDraws s (x k)) w
        (fun j u => if j < s.now + 2 then u else putX u d.toNat (BitVec.ofNat 64 (16 * k))) (own k) due) ∧
    (RecordOk s p 32 → 8 ≤ q.length → Stalls (.cqpush w a n e c h) s ∧ GivesX (.cqpushNb w a d n e c h) s w d 2 1) ∧
    (canTrap s → NoShort s → p.toNat % 32 ≠ 0 →
      Traps (.cqpush w a n e c h) s 0x03 0 p t0.pc ∧ Traps (.cqpushNb w a d n e c h) s 0x03 0 p t0.pc) ∧
    ((vget 0 (myCore s).wm n.toNat - p).slt 0 = true → Stalls (.wmwait w a n) s) ∧
    (let seen (r : Rec) : Prop := r.obj = .wm n.toNat ∧ counted s s.curCore n.toNat r.order = true
     (vget 0 (myCore s).wm n.toNat - p).slt 0 = false →
      ((∀ r ∈ t0.records, ¬ seen r) → Writes (.wmwait w a n) s w 0 id) ∧
      (∀ older r younger, canTrap s → t0.records = older ++ r :: younger → seen r → (∀ y ∈ older, ¬ seen y) →
        ∃ t, exec (.wmwait w a n) s = .next t ∧
          TrapEntry (modMe s (fun u => { u with records := older ++ younger })) t r.cause r.unit r.value t0.pc))) ∧
  (∀ (s : State) (core op : Nat) (e : CopyEnt), s.args = [core, op] → core < 2048 →
    (((getCore s core).cq.map (fun x => x.op)).Nodup → ((getCore s core).cq.filter (fun x => x.started)).length ≤ 2 →
      ∃ t, exec .copyStart s = .next t ∧ ((getCore t core).cq.filter (fun x => x.started)).length ≤ 2 ∧
        (getCore t core).cq.map (fun x => x.op) = (getCore s core).cq.map (fun x => x.op) ∧ t.mem = s.mem ∧ t.slots = s.slots ∧
        ∀ older x younger, (getCore s core).cq = older ++ x :: younger → x.mayStart s core = true →
          (∃ y ∈ younger, y.started = false ∧ (findCopy t core y.op).any (fun z => z.started) = true) →
          (findCopy t core x.op).any (fun z => z.started) = true) ∧
    (e.mayStart s core = true → (getCore s core).cq = [e] → e.op = op →
      ∃ t y, exec .copyStart s = .next t ∧ findCopy t core op = some y ∧ y.started = true ∧ y.d0 = e.d0 ∧ y.d1 = e.d1 ∧
        y.early = e.startFault s y.shold y.dhold ∧
        (∃ due, s.now < due ∧ (due, Instr.copyComplete, [core, op]) ∈ t.agenda) ∧ t.mem = s.mem ∧ t.slots = s.slots) ∧
    ((getCore s core).cq = [e] → e.op = op → e.started = true → e.fin = false → e.abandoned = false →
      (e.early = none → e.skind < 3 → e.dkind < 3 → e.hdrchk = false → ∀ src dst : Nat → Nat → Nat,
        let pkg := pkgOfCore core
        let part := partOf s e.part
        let held (need : Nat) (kind : Nat) (va : W64) (pa : Nat) : Prop := kind = 0 →
          ∃ perms, (List.range 64).findSome? (rangeHit s pkg part va.toNat) = some (pa, perms) ∧ permits perms need e.lvl = true
        (∀ g, touch s core part g = .ok) →
        (∀ j < e.rows, ∀ k < e.rowBytes,
          e.srcPlace s core j k = .ok (src j k) ∧ e.dstPlace s core j k = .ok (dst j k) ∧
          held 1 e.skind (rowStart e.d0 e.sstride j + BitVec.ofNat 64 k) (src j k) ∧
          held 2 e.dkind (rowStart e.d1 e.dstride j + BitVec.ofNat 64 k) (dst j k) ∧
          wordErr s (src j k) = .good ∧ wordErr s (dst j k) = .good ∧
          ((∃ off, placeOf (src j k) = .localMem core off) ∨ (∃ p ch, placeOf (src j k) = .gddr p ch) ∨
            ∃ c off, placeOf (src j k) = .slice c off) ∧
          ((∃ off, placeOf (dst j k) = .localMem core off ∧ off < 0x3FE00) ∨ (∃ p ch, placeOf (dst j k) = .gddr p ch) ∨
            ∃ c off, placeOf (dst j k) = .slice c off)) →
        (∀ j < e.rows, ∀ k < e.rowBytes, ∀ j' < e.rows, ∀ k' < e.rowBytes,
          dst j k ≠ src j' k' ∧ (dst j k = dst j' k' → j = j' ∧ k = k')) →
        ∃ t, exec .copyComplete s = .next t ∧ (getCore t core).cq = [] ∧
          (∀ j < e.rows, ∀ k < e.rowBytes, memByte t (dst j k) = memByte s (src j k)) ∧
          ∀ x, (∀ j < e.rows, ∀ k < e.rowBytes, x ≠ dst j k) → memByte t x = memByte s x) ∧
      (∀ c v, e.early = some (c, v) → sameTask s core e.slot e.inc = true →
        (recRoom s core e.slot = false → ∃ t, exec .copyComplete s = .next t ∧ Listed t .copyComplete [core, op] ∧ t.mem = s.mem ∧
          t.slots = s.slots) ∧
        (recRoom s core e.slot = true → ∃ t, exec .copyComplete s = .next t ∧ (getCore t core).cq = [] ∧ t.mem = s.mem ∧
          ({ obj := match e.chan with | some n => .wm n | none => .done, order := op, cause := 0x12, unit := 2, alt := none,
             value := BitVec.ofNat 64 (c * 2 ^ 56 + e.entry % 8 * 2 ^ 53 + v.toNat % 2 ^ 52) } : Rec) ∈ (getSlot t core e.slot).records))))

/-- R287, R288 and R293: an attic command captures its record and, 4 cycles later, is accepted behind those accepted earlier;
with four of its core outstanding it stalls; a misaligned record traps. It rests on the model's reading in log entry 70.
R280, R287, R292 and R293: a command is accepted; one that no other precedes begins, behind every earlier `ast` of its core,
and holds the pipeline for its cycles; when they have passed, a compare-and-exchange reads its dword, gives it as its result,
and writes its new one where the comparison holds; the results and the new dwords of another command, no two to one place,
are written; the command leaves the column, its watermark counts its bytes, and a fault of it is recorded once its task has
room. -/
def Obligations.AtticCommands : Prop :=
  (∀ (s : State) (w : BitVec 3) (a : BitVec 5) (n : BitVec 3) (e : BitVec 1) (kind : Nat),
    let p := xr s a
    let col := colOfCore s.curCore
    let t0 := me s
    let i : Instr := if kind = 0 then .aopRed w a n e else if kind = 1 then .aopCmpx w a n e else if kind = 2 then .aopSacc w a n e
      else .aopDot w a n e
    let own := (getCol s col).aops.filter (fun x => x.core == s.curCore)
    let entry : AopEnt :=
      { op := s.nextId, core := s.curCore, slot := s.curSlot, inc := t0.incarn, lvl := lvlOf t0, fie := fieOf t0, rnd := t0.rndmode,
        kind := kind, recAddr := p.toNat, d := recordAt s p 4, chan := if e = 1 then some n.toNat else none, accepted := none,
        begun := none, results := [], attic := [], fault := none, flags := 0, abandoned := false }
    kind < 4 →
    (RecordOk s p 32 → own.length < 4 → ∃ t, exec i s = .next t ∧ Onward s t w ∧ (getCol t col).aops = (getCol s col).aops ++ [entry] ∧
      (s.now + 4, Instr.aopAccept, [s.curCore, s.nextId]) ∈ t.agenda ∧
      (e = 1 → myCore t = { myCore s with wmq := vset (myCore s).wmq n.toNat (vget [] (myCore s).wmq n.toNat ++
        [{ op := s.nextId, bytes := entry.bytes, done := false }]) }) ∧
      (e = 0 → t.cores = s.cores) ∧ (∀ k, bare (slotAt t k) = bare (slotAt s k)) ∧
      { t with slots := s.slots, issued := s.issued, cores := s.cores, cols := s.cols, agenda := s.agenda, nextId := s.nextId } = s ∧
      (∀ key, key ≠ slotKey s.curCore s.curSlot → t.slots.find key = s.slots.find key) ∧ KeepsAgenda s t ∧
      (∀ k, k ≠ s.curCore → t.cores.find k = s.cores.find k) ∧ ∀ k, k ≠ col → t.cols.find k = s.cols.find k) ∧
    (RecordOk s p 32 → 4 ≤ own.length → Stalls i s) ∧
    (canTrap s → NoShort s → p.toNat % 32 ≠ 0 → Traps i s 0x03 0 p t0.pc)) ∧
  (∀ (s : State) (col core op : Nat) (e : AopEnt),
    (s.args = [core, op] → (getCol s (colOfCore core)).aops = [e] → e.op = op → e.accepted = none → ∃ t, exec .aopAccept s = .next t ∧
      (getCol t (colOfCore core)).aops = [{ e with accepted := some s.now }] ∧
      (s.now, Instr.aopBegin, [colOfCore core]) ∈ t.agenda ∧ t.mem = s.mem ∧ t.slots = s.slots) ∧
    (s.args = [col] → (getCol s col).aops = [e] → e.accepted.isSome = true → e.begun = none →
      ((∃ x ∈ (getCore s e.core).chim, x.load = false ∧ x.op < e.op) → ∃ t, exec .aopBegin s = .next t ∧
        (s.now + 1, Instr.aopBegin, [col]) ∈ t.agenda ∧ { t with agenda := s.agenda } = s) ∧
      ((∀ x ∈ (getCore s e.core).chim, x.load = true ∨ e.op ≤ x.op) →
        (∃ t y, exec .aopBegin s = .next t ∧ (getCol t col).aops = [y] ∧ y.begun = some s.now ∧ y.op = e.op ∧
          (s.now + e.cycles, Instr.aopComplete, [col]) ∈ t.agenda) ∧
        (e.kind = 1 → e.illegal = false → e.localBad s = none → rowsBad s col e [e.src] 8 = none →
          ∃ t, exec .aopBegin s = .next t ∧ (getCol t col).aops = [{ e with begun := some s.now }] ∧ t.mem = s.mem ∧ t.slots = s.slots))) ∧
    (s.args = [col] → (getCol s col).aops = [e] → e.begun.isSome = true → e.abandoned = false → e.core < 2048 →
      (e.kind = 1 → e.fault = none → e.localBad s = none → rowsBad s col e [e.src] 8 = none → col < 128 →
        s.syn.find (colPa col e.src / 8) = none →
        let v := rd64 s (colPa col e.src)
        let to_ := localPa e.core e.dst
        ∃ t, exec .aopComplete s = .next t ∧ (getCol t col).aops = [] ∧ rd64 t to_ = v ∧
          rd64 t (colPa col e.src) = (if v = e.dw 2 then e.dw 3 else v) ∧
          ∀ p, ¬ (to_ ≤ p ∧ p < to_ + 8) → ¬ (colPa col e.src ≤ p ∧ p < colPa col e.src + 8) → memByte t p = memByte s p) ∧
      (e.kind ≠ 1 → e.fault = none → (e.results.map (·.1)).Nodup → (e.attic.map (·.1)).Nodup →
        (∀ r ∈ e.results, r.1 % 4 = 0 ∧ r.1 + 4 ≤ 0x40000 ∧ s.localBad.find (localPa e.core r.1 / 8) ≠ some true) →
        (∀ q ∈ e.attic, ∃ c off, placeOf q.1 = .slice c off ∧ off % 8 = 0) →
        ∃ t, exec .aopComplete s = .next t ∧ (getCol t col).aops = [] ∧ (∀ r ∈ e.results, rd32 t (localPa e.core r.1) = r.2) ∧
          (∀ q ∈ e.attic, rd64 t q.1 = q.2) ∧
          ∀ p, (∀ r ∈ e.results, ¬ (localPa e.core r.1 ≤ p ∧ p < localPa e.core r.1 + 4)) →
            (∀ q ∈ e.attic, ¬ (q.1 ≤ p ∧ p < q.1 + 8)) → memByte t p = memByte s p) ∧
      (∀ c v, e.fault = some (c, v) → sameTask s e.core e.slot e.inc = true →
        (recRoom s e.core e.slot = false → ∃ t, exec .aopComplete s = .next t ∧ Listed t .aopComplete [col] ∧ t.mem = s.mem ∧ t.slots = s.slots) ∧
        (recRoom s e.core e.slot = true → ∃ t, exec .aopComplete s = .next t ∧ (getCol t col).aops = [] ∧
          ({ obj := match e.chan with | some n => .wm n | none => .done, order := e.op, cause := c, unit := 4, value := v, alt := none } : Rec) ∈
            (getSlot t e.core e.slot).records)) ∧
      (∀ n b, e.kind ≠ 1 → e.fault = none → e.chan = some n → n < 8 →
        vget [] (getCore s e.core).wmq n = [{ op := e.op, bytes := b, done := false }] → ∃ t, exec .aopComplete s = .next t ∧
          vget 0 (getCore t e.core).wm n = vget 0 (getCore s e.core).wm n + BitVec.ofNat 64 b ∧ vget [] (getCore t e.core).wmq n = [])))

/-- R216 to R219, R221, R224, R225 and R227: `mwr` writes a shape word; `mlds`, `mswap` and `mstr` enter the queue with what
they capture at issue, and stall while it is full; `mstr` through an unconfigured descriptor traps PROT; `mwait` stalls while
a matrix operation of the slot stands in the queue, and then goes on, or takes the oldest recorded fault of one as its own
trap. It rests on the model's reading in log entries 32 and 70. -/
def Obligations.MatrixIssue : Prop := ∀ (s : State) (w : BitVec 3) (a b : BitVec 5) (n dd : BitVec 3) (d2 : BitVec 2) (g c : BitVec 1),
  let t0 := me s
  let ctl := xr s b
  let x := xr s a
  let ch := bits ctl 61 2
  let ix (l : Nat) : Nat := if l < activeDepth t0 ch then
    ((chainLevel t0 ch l).i.setWidth 64 * (chainLevel t0 ch l).s).toNat else 0
  let moved (r q : Nat) : W64 := if bitOf ctl 63 then
    BitVec.ofNat 64 ((bits x 32 32 + r) % 2 ^ 32 * 2 ^ 32 + (bits x 0 32 + q) % 2 ^ 32) else x
  let shape := (List.range 4).map (fun k => vget 0 t0.sh (4 * n.toNat + k))
  let due : List (Nat × Instr × List Nat) := [(s.now, .matrixOpBegin, [s.curCore, s.nextId])]
  let queued (m : MOp) (co : Core) : Core := { co with mq := co.mq ++ [m] }
  let common (m : MOp) : Prop := m.op = s.nextId ∧ m.slot = s.curSlot ∧ m.inc = t0.incarn ∧ m.lvl = lvlOf t0 ∧ m.begun = none ∧
    m.abandoned = false ∧ m.cancelled = false ∧ m.fault = none
  let raises := bitOf ctl 60 && (!bitOf ctl 63 || chainLast t0 ch)
  Engages (.mwr w a n d2) s w (fun u => { u with sh := vset u.sh (4 * n.toNat + d2.toNat) x }) id [] ∧
  (queueFull s = false →
    (∃ m, Engages (.mlds w a b n) s w id (queued m) due ∧ common m ∧ m.kind = .mlds ∧ m.sh = shape ∧ m.fmt = t0.fmtB ∧
      m.scale = t0.scaleB ∧ m.control = ctl ∧ m.origin = moved (ix 0) (ix 1 + ix 2) ∧ m.raise = raises) ∧
    (∃ m, Engages (.mswap w) s w id (queued m) due ∧ common m ∧ m.kind = .mswap ∧ m.raise = false) ∧
    (∀ v, vget none t0.ac dd.toNat = some v → ∃ m, common m ∧ m.kind = .mstr ∧ m.sh = shape ∧ m.fmt = t0.fmtA ∧ m.scale = t0.scaleA ∧
      m.control = ctl ∧ m.origin = moved (ix 1 + ix 2) (ix 0) ∧ m.raise = raises ∧ m.desc = dd.toNat ∧ m.view = v ∧
      m.neg = (g == 1) ∧ m.nacc = (c == 1) ∧ m.gang = t0.gang ∧ (∀ q, t0.gang = some q → m.gangNo = q.count) ∧
      Engages (.mstr w a b n dd g c) s w
        (fun u => if bitOf ctl 55 then { u with gang := u.gang.map (fun q => { q with count := q.count + 1 }) } else u) (queued m) due)) ∧
  (queueFull s = true → Stalls (.mlds w a b n) s ∧ Stalls (.mswap w) s ∧
    ((vget none t0.ac dd.toNat).isSome = true → Stalls (.mstr w a b n dd g c) s)) ∧
  (canTrap s → vget none t0.ac dd.toNat = none → Traps (.mstr w a b n dd g c) s 0x05 0 (dd.setWidth 64) t0.pc) ∧
  ((∃ m ∈ (myCore s).mq, m.slot = s.curSlot ∧ m.kind ≠ .vproj ∧ m.abandoned = false) → Stalls (.mwait w) s) ∧
  ((∀ m ∈ (myCore s).mq, m.slot = s.curSlot → m.kind = .vproj ∨ m.abandoned = true) →
    ((∀ r ∈ t0.records, r.unit ≠ 1) → Writes (.mwait w) s w 0 id) ∧
    ∀ r older younger, canTrap s → t0.records = older ++ r :: younger → r.unit = 1 → (∀ q ∈ older, q.unit ≠ 1) →
      ∃ t, exec (.mwait w) s = .next t ∧
        TrapEntry (modMe s (fun u => { u with records := older ++ younger })) t r.cause r.unit r.value t0.pc)

/-- R174, R213 to R215, R222, R223, R226 and R229: `macfg` and `marel` configure and release an accumulator descriptor, trap
on one in use, and with FORCE end its operations as completed, their counters raised, and zero its entries; a `macfg` moves
the groups spilled to its entries away, and takes their granules. `mgang` sets a gang and waits for the slot's ganged
operations. `mrd` converts entries into lanes, and traps on an entry outside the view, on a parity error and, under FIE, on
an invalid lane. It rests on the model's reading in log entry 2. -/
def Obligations.AccumulatorDescriptors : Prop := ∀ (s : State) (w : BitVec 3) (a b v : BitVec 5) (f : BitVec 1) (d k : BitVec 3) (fc : BitVec 5),
  let t0 := me s
  let c := xr s a
  let e := bits c 0 13
  let n := (bits c 31 13 + 1) * (bits c 44 8 + 1)
  let part := partOf s t0.part
  let owns (t : State) (g : Nat) : Nat := (getCore t s.curCore).owner.get part g
  let legal := bits c 52 4 ≤ 2 ∧ e + n ≤ 8192
  let meets (y : SpillGroup) : Bool := y.place == 1 && overlapsGroup [y] 16 e n
  let claim := legal ∧ (∀ y ∈ (myCore s).spill, meets y = false) ∧
    ∀ g, 64 + e / 256 ≤ g → g ≤ 64 + (e + n - 1) / 256 → owns s g = part
  let used := inUse s s.curCore s.curSlot d.toNat
  (claim → f = 0 ∨ vget none t0.ac d.toNat = none → used = false → ∃ t, exec (.macfg w a f d) s = .next t ∧ Onward s t w ∧
    { t with slots := s.slots, issued := s.issued, cores := s.cores } = s ∧ { myCore t with owner := (myCore s).owner } = myCore s ∧
    (∀ g, owns t g = owns s g) ∧ (∀ q, q ≠ s.curCore → t.cores.find q = s.cores.find q) ∧
    (∀ key, key ≠ slotKey s.curCore s.curSlot → t.slots.find key = s.slots.find key) ∧
    ∀ j, bare (slotAt t j) = bare { slotAt s j with ac := vset t0.ac d.toNat (some c) }) ∧
  (legal → f = 0 ∨ vget none t0.ac d.toNat = none → used = false → (claimEntries s s.curCore e n).isSome = true →
    ∃ t, exec (.macfg w a f d) s = .next t ∧ Onward s t w ∧ (∀ j, vget none (me t).ac j = if j = d.toNat then some c else vget none t0.ac j) ∧
      (∀ g, 64 + e / 256 ≤ g → g ≤ 64 + (e + n - 1) / 256 → owns t g = part) ∧ (∀ y ∈ (myCore t).spill, meets y = false) ∧
      ∀ y ∈ (myCore s).spill, y.tag ≠ 32 → ∃ z ∈ (myCore t).spill, z.slot = y.slot ∧ z.tag = y.tag ∧ z.isV = y.isV ∧
        z.vals.length = y.vals.length) ∧
  (canTrap s → legal → f = 0 ∨ vget none t0.ac d.toNat = none → used = false → claimEntries s s.curCore e n = none →
    ∃ value, Traps (.macfg w a f d) { s with freeCtr := s.freeCtr + 1 } 0x05 0 value t0.pc) ∧
  (canTrap s → used = true → f = 0 →
    Traps (.macfg w a f d) s 0x08 0 (d.setWidth 64) t0.pc ∧ Traps (.marel w f d) s 0x08 0 (d.setWidth 64) t0.pc) ∧
  (canTrap s → used = false ∨ f = 1 → 2 < bits c 52 4 ∨ 8192 < e + n → Traps (.macfg w a f d) s 0x05 0 c t0.pc) ∧
  (used = false → f = 0 ∨ vget none t0.ac d.toNat = none →
    Engages (.marel w f d) s w (fun u => { u with ac := vset t0.ac d.toNat none }) id []) ∧
  (∀ old, f = 1 → vget none t0.ac d.toNat = some old → s.curCore < 2048 →
    let gone (t : State) : Prop := (∀ m ∈ (myCore t).mq, m.kind = .mstr → m.slot = s.curSlot → m.desc = d.toNat → m.abandoned = true) ∧
      (∀ j < (bits old 31 13 + 1) * (bits old 44 8 + 1), getAcc t s.curCore ((bits old 0 13 + j) % 8192) = 0) ∧
      ∀ k < 16, vget 0 (myCore t).cc k = vget 0 (myCore s).cc k + BitVec.ofNat 16 (((myCore s).mq.filter (fun m => m.kind == .mstr &&
        m.slot == s.curSlot && m.desc == d.toNat && !m.abandoned && m.raise && bits m.control 56 4 == k)).length)
    (∃ t, exec (.marel w f d) s = .next t ∧ Onward s t w ∧ gone t ∧ vget none (me t).ac d.toNat = none) ∧
    (claim → ∃ t, exec (.macfg w a f d) s = .next t ∧ Onward s t w ∧ gone t ∧ vget none (me t).ac d.toNat = some c)) ∧
  (let mask : BitVec 16 := c.setWidth 16
   let lead := bits (xr s b) 0 4
   let legal := mask = 0 ∨ mask.getLsbD (posOfCore s.curCore) = true ∧ mask.getLsbD lead = true
   (legal → (∀ m ∈ (myCore s).mq, m.slot = s.curSlot → m.kind = .mstr → bitOf m.control 55 = true → m.abandoned = true) →
     let G : Gang := { mask := mask, leader := lead, slot := bits (xr s b) 4 2, count := 0, gone := [] }
     Engages (.mgang w a b) s w (fun u => { u with gang := if mask = 0 then none else some G }) id []) ∧
   (legal → (∃ m ∈ (myCore s).mq, m.slot = s.curSlot ∧ m.kind = .mstr ∧ bitOf m.control 55 = true ∧ m.abandoned = false) →
     Stalls (.mgang w a b) s) ∧
   (canTrap s → ¬ legal → Traps (.mgang w a b) s 0x05 0 c t0.pc)) ∧
  (canTrap s → vget none t0.ac d.toNat = none → Traps (.mrd w v a d k fc) s 0x05 0 (d.setWidth 64) t0.pc) ∧
  (∀ view, vget none t0.ac d.toNat = some view → fc.toNat ∈ [0, 1, 2, 3, 4, 5, 0x0B, 0x0C, 0x0D] →
    let wd := fmtBits fc.toNat
    let lanes := 256 / wd
    let base := bits view 0 13
    let count := (bits view 31 13 + 1) * (bits view 44 8 + 1)
    let sr := (fpFmt fc.toNat).isSome && t0.rndmode.toNat % 8 == 4
    let dr := drawn s sr lanes
    let el (j : Nat) : Nat × Nat := accTo fc.toNat (convRnd s sr dr.1 j) (getAcc s s.curCore (base + c.toNat + j))
    let active (j : Nat) : Prop := j < lanes ∧ (kr s k).getLsbD j = true
    (canTrap s → (∃ j, active j ∧ count ≤ c.toNat + j) → Traps (.mrd w v a d k fc) s 0x0F 0 c t0.pc) ∧
    let pa (j : Nat) : Nat := accPa s.curCore (base + c.toNat + j)
    let here := ∀ j, active j → c.toNat + j < count ∧ touch s s.curCore part (accGran (base + c.toNat + j)) ≠ .restore
    (∀ j, canTrap s → here → active j → wordErr s (pa j) = .ecc → (∀ i < j, active i → wordErr s (pa i) ≠ .ecc) →
      ∃ t, exec (.mrd w v a d k fc) s = .next t ∧
        TrapEntry (noteRead s (pa j)) t 0x06 0 (BitVec.ofNat 64 (2 ^ 62 + 16 * (base + c.toNat + j))) t0.pc) ∧
    (here → (∀ j, active j → wordErr s (pa j) ≠ .ecc) →
      (canTrap s → invalidTraps s k lanes el →
        Traps (.mrd w v a d k fc) s 0x0E 0 (BitVec.ofNat 64 (invalidSet s k lanes el)) t0.pc) ∧
      (¬ invalidTraps s k lanes el → flagsQuiet s 6 →
        ∃ x, GivesDrawn (.mrd w v a d k fc) s dr.2 w v 6 x (flagsOf s k lanes el) ∧
          ∀ j < lanes, lane x wd j = if (kr s k).getLsbD j then (el j).1 else lane (vr s v) wd j)))

/-- R208, R210, R212, R220, R224 to R226, R228 and R248: a queued operation that its order lets begin, begins; one that it
does not, or whose slot is frozen, is left as it is. `mswap` takes one cycle; `mlds` reads in a cycle for each 64 bytes of
local memory (128 of the slice) and completes 8 (16) cycles later with the plane and the scales it read; `mstr` reads in its
rows' cycles and completes 16 later, with a promoted sum to add for each entry of each row; an operation that a check stops
holds that fault and reads nothing. The partners of a gang that can all begin do so in one cycle, and none begins before. It
rests on the model's reading in log entries 4 and 8. R23, R144, R161, R208, R218, R224, R225, R227 and R228: the rows of an
`mstr` that are due are added to their entries, or replace them with NACC, and nothing else in memory changes; an operation
whose cycles have passed leaves the queue and raises its counter: `mswap` exchanges the planes and `mlds` fills the shadow
plane, or leaves it invalid where it faulted; a fault of a task that is still bound is recorded for it, or waits for room. It
rests on the model's reading in log entries 8 and 70. -/
def Obligations.MatrixOperations : Prop :=
  (∀ (s : State) (core : Nat) (m : MOp), s.args = [core, m.op] →
    core < 2048 → findMOp s core m.op = some m → m.begun = none → m.fault = none → m.kind ≠ .vproj →
    (orderFree s core m = false ∨ heldByFreeze s core m.slot = true → exec .matrixOpBegin s = .next s) ∧
    (orderFree s core m = true → heldByFreeze s core m.slot = false →
    let T := m.tile
    let begins (readBy done : Nat) (P : MOp → Prop) : Prop := ∃ t y, exec .matrixOpBegin s = .next t ∧ findMOp t core m.op = some y ∧
      y.begun = some s.now ∧ y.readBy = readBy ∧ y.completes = done ∧ (done, Instr.matrixOpComplete, [core, m.op]) ∈ t.agenda ∧ P y
    let stopped (e : Nat × W64) : Prop := ∃ done, s.now < done ∧ begins s.now done (fun y => y.fault = some e)
    let free (run : Nat) : Prop := T.space ≠ 1 ∨ runFree (posOfCore core) (getCore s core) m.op s.now (s.now + run) = true
    let lat := if T.space = 0 then 8 else 16
    let run := if T.space = 0 then (T.bytes + 63) / 64 else (T.bytes + 127) / 128
    let shape := T.cols ≤ 32 ∧ T.row0 % 128 + T.rows ≤ 128 ∧ mFormat T.code = true
    let scaleOf (c : Nat) : Option Nat := scaleAddr m.scale (T.row0 / 128 * max 1 ((T.extc + 127) / 128) + (T.col0 + c) / 128)
    let home (q : Nat) : Nat := if T.space = 0 then localPa core q else slicePa core q
    let field (b : Int) (n : Nat) : Nat := rdN s (home (b.toNat / 8)) ((b.toNat % 8 + n + 7) / 8) / 2 ^ (b.toNat % 8) % 2 ^ n
    let hdr (r c : Nat) : Nat := field (T.hdrBit r c) 64
    let value (r c : Nat) : Machine.Num := if T.inside r c = false then decodeNum T.code T.fill else
      let x := decodeNum T.code (field (T.elemBit r c) T.w)
      if T.blk = false then x else if hdr r c % 256 = 0xFF then .nan x.isNeg else x.scale ((hdr r c % 256 : Nat) - 127)
    (m.kind = .mswap → begins s.now (s.now + 1) (fun _ => True)) ∧
    (m.kind = .mlds →
      (¬ shape → stopped (0x01, m.word.setWidth 64)) ∧
      (∀ e, shape → Tile.check s core T m.word = some e → stopped e) ∧
      (shape → Tile.check s core T m.word = none → (∀ c < T.cols, ∀ x, scaleOf c = some x → scaleBad s core m.lvl x = false) → free run →
        begins (s.now + run) (s.now + run + lat) (fun y => y.fault = none → y.plane.valid = true ∧ y.plane.kdepth = T.rows ∧
          y.plane.ncols = T.cols ∧ y.plane.kb = T.row0 / 128 ∧ y.plane.col0 = T.col0 ∧ y.plane.fmt = m.fmt) ∧
        ((∀ g < 64, touch s core (partOfSlot s core m.slot) g ≠ .restore) → (∀ q < 0x1800000, wordErr s (home q) = .good) →
          (∀ q < 0x40000, wordErr s (localPa core q) = .good) → (∀ r c, T.inside r c = true → T.blk = true → hdrOk T c (hdr r c) = true) →
          begins (s.now + run) (s.now + run + lat) (fun y => y.fault = none ∧
            (∀ r < T.rows, ∀ c < T.cols, y.plane.w[r * T.cols + c]? = some (value r c)) ∧
            ∀ c < T.cols, y.plane.sB[c]? = some (match scaleOf c with
              | none => .fin false 1 0
              | some x => decodeNum 0x0D (rdN s (localPa core x) 4)))))) ∧
    (m.kind = .mstr → bitOf m.control 55 = false →
      (∀ e, mstrCheck s core m = some e → ∃ t y, exec .matrixOpBegin s = .next t ∧ findMOp t core m.op = some y ∧
        y.begun = some s.now ∧ y.fault = some e ∧ mstrsBefore s core m ≤ y.completes) ∧
      (mstrCheck s core m = none →
        let p := (getCore s core).active
        let rate := mRate T.code (bits p.fmt 0 4)
        let cyc := T.rows * ((T.cols + rate - 1) / rate)
        free cyc →
        let A := (readA s core m).1
        let entry (r c : Nat) : Nat := bits m.view 0 13 + (bits m.control 16 16 + r) * (bits m.view 44 8 + 1) + bits m.control 0 16 + c
        begins (s.now + cyc) (s.now + cyc + 16) (fun y => y.fault = A.fault ∧
          y.writes = A.data.zipIdx.flatMap (fun x => (List.range p.ncols).map (fun c => (entry x.2 c,
            (promote m.neg (kSum (x.1.1.zip (planeCol p c))) x.1.2 (p.sB.getD c (.fin false 1 0))).1)))))) ∧
    (m.kind = .mstr → bitOf m.control 55 = true →
      (m.gang = none → stopped (0x01, m.word.setWidth 64)) ∧
      ∀ g, m.gang = some g → goneAt s (colOfCore core) g.leader g m.gangNo = false →
        (gangReady s (colOfCore core) g m.gangNo = false → exec .matrixOpBegin s = .next s) ∧
        (∀ l, gangReady s (colOfCore core) g m.gangNo = true → partnerAt s (colOfCore core) g.leader g m.gangNo = some l →
          vget 0 (getCol s (colOfCore core)).lanes g.slot ≤ s.now → laneRival s (colOfCore core) g = none →
          mstrArray s (coreAt (colOfCore core) g.leader) l = true → ∃ t, exec .matrixOpBegin s = .next t ∧
            ∀ pos ∈ gangPositions g, ∀ x, partnerAt s (colOfCore core) pos g m.gangNo = some x →
              ∃ y, findMOp t (coreAt (colOfCore core) pos) x.op = some y ∧ y.begun = some s.now)))) ∧
  (∀ (s : State) (core : Nat) (m : MOp), s.args = [core, m.op] → core < 2048 →
    (getCore s core).mq = [m] → m.begun.isSome = true → m.abandoned = false → m.cancelled = false →
    let done (P : State → Prop) : Prop := ∃ t, exec .matrixOpComplete s = .next t ∧ (getCore t core).mq = [] ∧ P t ∧
      RaisedOne s t core (bits m.control 56 4) m.raise
    let bound := sameTask s core m.slot m.inc = true
    let planes (t : State) : Prop := t.mem = s.mem ∧
      (m.kind = .mswap → (getCore t core).active = (getCore s core).shadow ∧ (getCore t core).shadow = (getCore s core).active) ∧
      (m.kind = .mlds → (getCore t core).active = (getCore s core).active ∧ (m.fault = none → (getCore t core).shadow = m.plane) ∧
        (m.fault.isSome = true → (getCore t core).shadow = { (getCore s core).shadow with valid := false })) ∧
      (m.kind = .mstr → (getCore t core).shadow = (getCore s core).shadow ∧ (getCore t core).active = (getCore s core).active)
    (m.rowsDue = [] → m.completes ≤ s.now →
      (m.fault = none ∨ ¬ bound → done (fun t => planes t ∧ (¬ bound → t.slots = s.slots))) ∧
      (∀ e, m.fault = some e → bound →
        ((getSlot s core m.slot).records.length < 16 → done (fun t => planes t ∧ ∃ r ∈ (getSlot t core m.slot).records,
          r.obj = (if m.raise then .cc (bits m.control 56 4) else .matrix) ∧ r.order = m.op ∧ r.cause = e.1 ∧ r.unit = 1 ∧ r.value = e.2)) ∧
        (16 ≤ (getSlot s core m.slot).records.length → ∃ t, exec .matrixOpComplete s = .next t ∧ (getCore t core).mq = [m] ∧
          (getCore t core).active = (getCore s core).active ∧ (getCore t core).shadow = (getCore s core).shadow ∧ t.mem = s.mem ∧
          t.slots = s.slots ∧ RaisedOne s t core 0 false ∧ (s.now + 1, Instr.matrixOpComplete, [core, m.op]) ∈ t.agenda))) ∧
    (∀ c n fl rest, m.kind = .mstr → m.rowsDue = (c, n, fl) :: rest → c ≤ s.now → (∀ q ∈ rest, s.now < q.1) →
      (∀ q ∈ m.writes.take n, q.1 < 8192 ∧ (m.nacc = true ∨ wordErr s (accPa core q.1) ≠ .ecc) ∧
        touch s core (partOfSlot s core m.slot) (accGran q.1) ≠ .restore) → ((m.writes.take n).map (fun q => q.1)).Nodup →
      let added (t : State) : Prop := (∀ q ∈ m.writes.take n,
          let old := if m.nacc then 0 else getAcc s core q.1
          getAcc t core q.1 = if old = accNan ∨ q.2 = accNan then accNan else
            BitVec.ofInt 128 (max (-(2 ^ 127 - 1)) (min (2 ^ 127 - 1) (old.toInt + q.2.toInt)))) ∧
        ∀ p, (∀ q ∈ m.writes.take n, ¬ (accPa core q.1 ≤ p ∧ p < accPa core q.1 + 16)) → memByte t p = memByte s p
      (s.now < m.completes → ∃ t y, exec .matrixOpComplete s = .next t ∧ added t ∧ findMOp t core m.op = some y ∧
        y.writes = m.writes.drop n ∧ y.rowsDue = rest ∧ t.slots = s.slots ∧ RaisedOne s t core 0 false ∧
        (m.fault = none → y.fault = if fieNow s core m.slot = true ∧ fl % 2 = 1 then some (0x0E, 0) else none)) ∧
      (m.completes ≤ s.now → rest = [] → m.fault = none → (fieNow s core m.slot = true → fl % 2 = 0) → done added)))

/-- R233 to R236, R239, R242 and R243, Tables 9-1 to 9-3 and 9-7: with no `gsave` or `grest` in progress and no fault of the
Geyser recorded for the slot: setting routes, values and configuration of cells, reading them, injecting increments, and the
clearing reads of records and status; a route to a neighbour that is not there traps PROT. R244 and Table 9-8: `gsave` takes
the image of cells and clocks and writes it when its cycles have passed, `grest` loads one back, each raising its counter; a
misaligned image traps ALIGN, one outside local memory or in a range that only system level reads, a span of more than 256
cells, or a running clock PROT; a `grest` loads what stands whole below the first dword that cannot be corrected, and records
that fault. -/
def Obligations.GeyserCellsAndImages : Prop :=
  (∀ (s : State) (w : BitVec 3) (a b d v : BitVec 5) (k : BitVec 3) (f : BitVec 2),
    let co := myCore s
    let x := xr s a
    let y := xr s b
    let cell (i : Nat) : GCell := co.gcells.get GCell.clear i
    let put (i : Nat) (g : GCell) (c : Core) : Core := { c with gcells := c.gcells.ins i g }
    let i := bits x 0 8
    let noRight := posOfCore s.curCore = 15
    let noLeft := posOfCore s.curCore = 0
    let bad := bitOf y 15 = true ∧ (bits y 11 2 = 3 ∨ bits y 11 2 = 1 ∧ noRight ∨ bits y 11 2 = 2 ∧ noLeft)
    let stateWord (g : GCell) : Nat := g.lastf * 2 ^ 24 + (g.dxl % 16).toNat * 2 ^ 20 + (if g.dxo then 2 ^ 19 else 0) + g.dyl * 2 ^ 16 + g.cfg.toNat
    let routes (g : GCell) : Nat := (vget 0 g.routes 0).toNat + (vget 0 g.routes 1).toNat * 2 ^ 16 + (vget 0 g.routes 2).toNat * 2 ^ 32 +
      (vget 0 g.routes 3).toNat * 2 ^ 48
    co.gjob = none → (∀ r ∈ (me s).records, r.obj ≠ .geyser) →
    let entry : BitVec 16 := if bitOf y 15 then y.setWidth 16 &&& 0xF8FF else 0
    (¬ bad → Engages (.gpatch w a b) s w id (put i { cell i with routes := vset (cell i).routes (bits x 8 2) entry }) []) ∧
    (canTrap s → bad → Traps (.gpatch w a b) s 0x05 0 y (me s).pc) ∧
    (f.toNat < 3 → Engages (.gcell w a b f) s w id (put i (if f = 0 then { cell i with y := y.setWidth 32 } else
      if f = 1 then { cell i with r := y.setWidth 32 } else
        { cell i with cfg := y.setWidth 16 &&& 0xF01F, dyl := 0, dxl := 0, dxo := false, lastf := 0 })) []) ∧
    GivesX (.grd w a d) s w d 3 (if bits x 8 2 = 0 then (cell i).y.signExtend 64 else if bits x 8 2 = 1 then (cell i).r.signExtend 64
      else if bits x 8 2 = 2 then BitVec.ofNat 64 (stateWord (cell i)) else BitVec.ofNat 64 (routes (cell i))) ∧
    GivesLanes (.gtap w d v k) s w d k 4 32 8 (fun j =>
      let l := lane (vr s v) 32 j
      let g := cell (l % 256)
      if l / 256 % 4 = 0 then g.y.toNat else if l / 256 % 4 = 1 then g.r.toNat
      else if l / 256 % 4 = 2 then stateWord g % 2 ^ 32 else routes g % 2 ^ 32) ∧
    Engages (.ginj w v k) s w id (fun c => (List.range 8).foldl (fun c j =>
      let l := lane (vr s v) 32 j
      if (kr s k).getLsbD j then put (l % 256) ((c.gcells.get GCell.clear (l % 256)).latch (l.testBit 8) (l.testBit 9)) c else c) c) [] ∧
    (∀ g : GCell, ∀ neg : Bool, g.latch false neg = { g with dyl := if g.dyl = 0 then (if neg then 2 else 1) else 3 } ∧
      g.latch true neg = let z := g.dxl + (if neg then -1 else 1); if -8 ≤ z ∧ z ≤ 7 then { g with dxl := z } else { g with dxo := true }) ∧
    (let item := bits x 2 2
     let c := vget GClk.clear co.gclk (bits x 0 2)
     let val : W64 := if item = 0 then c.steps else if item = 1 then BitVec.ofNat 64 (c.remain.toNat * 2 ^ 32 + c.cc * 2 ^ 28 +
         (if c.cnt then 2 ^ 27 else 0) + c.mode * 2 ^ 25 + c.owner * 2 ^ 16 + c.div)
       else if item = 2 then vget 0 co.gorec (bits x 0 2) else co.gsticky
     ∃ t, exec (.gstat w a d) s = .next t ∧ Onward s t w ∧ t.mem = s.mem ∧
       (∀ j, bare (slotAt t j) = bare (if j < s.now + 3 then slotAt s j else putX (slotAt s j) d.toNat val)) ∧
       myCore t = if bitOf x 4 = true ∧ item = 2 then { co with gorec := vset co.gorec (bits x 0 2) 0 } else
         if bitOf x 4 = true ∧ item = 3 then { co with gsticky := 0 } else co)) ∧
  (∀ (s : State) (w : BitVec 3) (a b : BitVec 5) (m : BitVec 4) (c k : BitVec 1) (core : Nat) (j : GJob),
    (let co := myCore s
     let p := xr s a
     let first := bits (xr s b) 0 8
     let n := bits (xr s b) 8 8 + 1
     let len := 64 * k.toNat + 32 * n
     let clocks := (List.range 4).flatMap (fun i =>
       let K := vget GClk.clear co.gclk i
       [K.steps, BitVec.ofNat 64 (K.remain.toNat * 2 ^ 32 + K.cc * 2 ^ 28 + (if K.cnt then 2 ^ 27 else 0) + K.mode * 2 ^ 25 + K.owner * 2 ^ 16 + K.div)])
     let cells := (List.range n).flatMap (fun i =>
       let g := co.gcells.get GCell.clear (first + i)
       [BitVec.ofNat 64 (g.r.toNat * 2 ^ 32 + g.y.toNat), BitVec.ofNat 64 g.routeWord, BitVec.ofNat 64 g.word, 0])
     let image := (if k = 1 then clocks else []) ++ cells
     let J (save : Bool) : GJob := { op := s.nextId, slot := s.curSlot, save := save, p := p.toNat, first := first, n := n, clk := k == 1, cc := if c = 1 then some m.toNat else none, image := if save then image else [], abandoned := false }
     let job (save : Bool) (q : Core) : Core := { q with gjob := some (J save) }
     let halted := ∀ i < 4, (vget GClk.clear co.gclk i).mode = 0
     let far := 0x40000 < p.toNat + len ∨ lvlOf (me s) = false ∧ sysOnlyRange s s.curCore p.toNat len = true
     co.gjob = none → (∀ r ∈ (me s).records, r.obj ≠ .geyser) →
     (canTrap s → p.toNat % 64 ≠ 0 → Traps (.gsave w a b m c k) s 0x03 0 p (me s).pc ∧ Traps (.grest w a b m c k) s 0x03 0 p (me s).pc) ∧
     (canTrap s → p.toNat % 64 = 0 → far → Traps (.gsave w a b m c k) s 0x05 0 p (me s).pc ∧
       Traps (.grest w a b m c k) s 0x05 0 p (me s).pc) ∧
     (p.toNat % 64 = 0 → ¬ far → first + n ≤ 256 → halted →
       (∀ g, p.toNat / 4096 ≤ g → 4096 * g < p.toNat + len → touch s s.curCore (partOf s (me s).part) g = .ok) →
       Engages (.gsave w a b m c k) s w id (job true) [(s.now + (len + 63) / 64 + 4, .gsaveComplete, [s.curCore])] ∧
       Engages (.grest w a b m c k) s w id (job false) [(s.now + (len + 63) / 64 + 6, .grestComplete, [s.curCore])]) ∧
     (canTrap s → p.toNat % 64 = 0 → ¬ far → 256 < first + n ∨ ¬ halted → Traps (.gsave w a b m c k) s 0x05 0 (xr s b) (me s).pc ∧
       Traps (.grest w a b m c k) s 0x05 0 (xr s b) (me s).pc)) ∧
    (s.args = [core] → core < 2048 → (getCore s core).gjob = some j → j.abandoned = false → j.p % 64 = 0 →
      let ended (t : State) : Prop := (getCore t core).gjob = none ∧ RaisedOne s t core (j.cc.getD 0) j.cc.isSome
      (j.save = true → j.p + 8 * j.image.length ≤ 0x40000 → ∃ t, exec .gsaveComplete s = .next t ∧ ended t ∧ t.slots = s.slots ∧
        ∀ q, memByte t q = if localPa core j.p ≤ q ∧ q < localPa core j.p + 8 * j.image.length then
          (j.image.getD ((q - localPa core j.p) / 8) 0).extractLsb' (8 * ((q - localPa core j.p) % 8)) 8 else memByte s q) ∧
      (let base := if j.clk then 8 else 0
       let all := base + 4 * j.n
       let D (i : Nat) : W64 := rd64 s (localPa core (j.p + 8 * i))
       let broken (i : Nat) : Prop := wordErr s (localPa core (j.p + 8 * i)) = .ecc
       let loaded (t : State) (good : Nat) : Prop := t.mem = s.mem ∧
         (∀ i < j.n, let g := (getCore t core).gcells.get GCell.clear (j.first + i)
           if base + 4 * i + 4 ≤ good then
             let d2 := D (base + 4 * i + 2)
             g.y = (D (base + 4 * i)).setWidth 32 ∧ g.r = (D (base + 4 * i) >>> 32).setWidth 32 ∧ g.cfg = d2.setWidth 16 &&& 0xF01F ∧
             g.dyl = bits d2 16 2 ∧ g.dxo = bitOf d2 19 ∧ g.dxl = (BitVec.ofNat 4 (bits d2 20 4)).toInt ∧
             g.lastf = (if bits d2 24 2 = 3 then 0 else bits d2 24 2) ∧
             ∀ k < 4, let v := bits (D (base + 4 * i + 1)) (16 * k) 16
               vget 0 g.routes k = if routeBad core (v / 2 ^ 11 % 4) = true ∨ v / 2 ^ 15 = 0 then 0 else BitVec.ofNat 16 v &&& 0xF8FF
           else g = (getCore s core).gcells.get GCell.clear (j.first + i)) ∧
         ∀ i < 4, vget GClk.clear (getCore t core).gclk i = if j.clk = true ∧ 8 ≤ good then
           { GClk.clear with steps := D (2 * i), div := max 2 (bits (D (2 * i + 1)) 0 16) } else vget GClk.clear (getCore s core).gclk i
       j.save = false → j.p + 8 * all ≤ 0x40000 →
       ((∀ i < all, ¬ broken i) → ∃ t, exec .grestComplete s = .next t ∧ ended t ∧ t.slots = s.slots ∧ loaded t all) ∧
       (∀ i < all, broken i → (∀ k < i, ¬ broken k) → (getSlot s core j.slot).records.length < 16 →
         ∃ t, exec .grestComplete s = .next t ∧ ended t ∧ loaded t i ∧ ∃ r ∈ (getSlot t core j.slot).records,
           r.obj = (match j.cc with | some q => .cc q | none => .geyser) ∧ r.order = j.op ∧ r.cause = 0x06 ∧ r.unit = 3 ∧
           r.value = BitVec.ofNat 64 (j.p + 8 * i)))))

/-- R237, R238, R241 to R244 and R420: setting a clock's period, arming it for steps, letting it run and halting it, with the
traps of a clock that is not halted and of a period below 2; every instruction of the Geyser stalls while a `gsave` or
`grest` is in progress, and else takes the slot's oldest recorded fault of the Geyser as its own trap. R163, R235 to R241 and
R420: at the boundary of the one running clock of a core with one enabled cell of its domain, the cell's integrand and
residue step, its fire passes by a route to another cell or over a column link 4 cycles later, and the clock counts; an
overrun leaves integrand and residue, halts the clock, and leaves its record, and the owner's fault with the counter's raise,
which waits where the slot has no room. A clock whose steps have run out halts; an increment from a neighbour is latched. It
rests on the model's reading in log entries 35 and 36. -/
def Obligations.GeyserClocksAndSteps : Prop :=
  (∀ (s : State) (w : BitVec 3) (a b d v : BitVec 5) (m : BitVec 4)
      (c k : BitVec 1) (n f : BitVec 2) (kk : BitVec 3),
    let co := myCore s
    let K := vget GClk.clear co.gclk n.toNat
    let x := xr s a
    let set (g : GClk) (q : Core) : Core := { q with gclk := vset q.gclk n.toNat g }
    let armed (mode : Nat) (steps : W32) : GClk :=
      { K with mode := mode, remain := steps, cc := m.toNat, cnt := c == 1, owner := s.curSlot, next := boundaryAfter s s.curCore s.now K.div }
    let due : List (Nat × Instr × List Nat) := [(boundaryAfter s s.curCore s.now K.div, .geyserBoundary, [s.curCore])]
    let all : List Instr := [.gpatch w a b, .gcell w a b f, .grd w a d, .gtap w d v kk, .ginj w v kk, .gstat w a d, .gclk w a n,
      .gstep w a m c n, .grun w m c n, .ghalt w n, .gsave w a b m c k, .grest w a b m c k]
    (∀ i ∈ all, (co.gjob.isSome = true → Stalls i s) ∧
      ∀ r older younger, co.gjob = none → canTrap s → (me s).records = older ++ r :: younger → r.obj = .geyser →
        (∀ q ∈ older, q.obj ≠ .geyser) → ∃ t, exec i s = .next t ∧
          TrapEntry (modMe s (fun u => { u with records := older ++ younger })) t r.cause r.unit r.value (me s).pc) ∧
    (co.gjob = none → (∀ r ∈ (me s).records, r.obj ≠ .geyser) →
    (K.mode = 0 → 2 ≤ bits x 0 16 → Engages (.gclk w a n) s w id (set { K with div := bits x 0 16 }) []) ∧
    (canTrap s → K.mode = 0 → bits x 0 16 < 2 → Traps (.gclk w a n) s 0x05 0 x (me s).pc) ∧
    (canTrap s → K.mode ≠ 0 → Traps (.gclk w a n) s 0x05 0 (n.setWidth 64) (me s).pc ∧
      Traps (.gstep w a m c n) s 0x05 0 (n.setWidth 64) (me s).pc ∧ Traps (.grun w m c n) s 0x05 0 (n.setWidth 64) (me s).pc) ∧
    (K.mode = 0 →
      (x.setWidth 32 ≠ (0 : W32) → Engages (.gstep w a m c n) s w id (set (armed 1 (x.setWidth 32))) due) ∧
      Engages (.grun w m c n) s w id (set (armed 2 0)) due) ∧
    (K.mode = 0 → x.setWidth 32 = (0 : W32) → ∃ t, exec (.gstep w a m c n) s = .next t ∧ Onward s t w ∧ t.mem = s.mem ∧
      (myCore t).gclk = co.gclk ∧ ∀ j < 16, vget 0 (myCore t).cc j = vget 0 co.cc j + (if c = 1 ∧ j = m.toNat then 1 else 0)) ∧
    (∃ t, exec (.ghalt w n) s = .next t ∧ Onward s t w ∧
      (K.mode = 0 → myCore t = co) ∧
      (K.mode ≠ 0 → vget GClk.clear (myCore t).gclk n.toNat = { K with mode := 0, remain := 0, owner := 0, cnt := false }) ∧
      ∀ j < 16, vget 0 (myCore t).cc j = vget 0 co.cc j + (if K.mode ≠ 0 ∧ K.cnt = true ∧ j = K.cc then 1 else 0)))) ∧
  (∀ (s : State) (core n i : Nat) (g : GCell), n < 4 → i < 256 →
    let co := getCore s core
    let K := vget GClk.clear co.gclk n
    let d : Int := g.dxl + (if g.cfg.getLsbD 14 then 1 else 0)
    let T : Int := g.r.toInt + d * g.y.toInt
    let R : Int := (BitVec.ofInt 32 T).toInt
    let F : Int := (T - R) / 2 ^ 32
    let late := g.dyl = 3 ∨ g.dxo = true
    let wide := 1 < F ∨ F < -1
    let r := vget (0 : BitVec 16) g.routes 0
    let on := r.getLsbD 15 = true
    let side := r.toNat / 2 ^ 11 % 4
    let to_ := if side = 1 then core + 1 else core - 1
    let neg := (if r.getLsbD 14 then -F else F) == -1
    let owner := getSlot s core K.owner
    let raised (t : State) (up : Bool) : Prop := RaisedOne s t core K.cc (up && K.cnt)
    (s.args = [core] → co.gfrozen = false → K.mode ≠ 0 → K.next = s.now →
      (∀ k < 4, k ≠ n → (vget GClk.clear co.gclk k).mode = 0) →
      co.gcells.filter (fun p => p.2.cfg.getLsbD 15 && p.2.cfg.toNat / 2 ^ 12 % 4 == n) = [(i, g)] →
      (∀ k < 4, 0 < k → (vget (0 : BitVec 16) g.routes k).getLsbD 15 = false) → (on → side = 0 → r.toNat % 256 ≠ i) →
      (¬ late → ¬ wide → ∃ t, exec .geyserBoundary s = .next t ∧
        (let h := (getCore t core).gcells.get GCell.clear i
         let Y : Int := g.y.toInt + (if g.dyl = 1 then 2 ^ (g.cfg.toNat % 32) else if g.dyl = 2 then -2 ^ (g.cfg.toNat % 32) else 0)
         h.r = BitVec.ofInt 32 T ∧ h.y = BitVec.ofInt 32 (max (-2 ^ 31) (min (2 ^ 31 - 1) Y)) ∧
         h.lastf = (if F = 1 then 1 else if F = -1 then 2 else 0) ∧ h.dyl = 0 ∧ h.dxl = 0 ∧ h.dxo = false ∧ h.cfg = g.cfg ∧
         h.routes = g.routes) ∧
        vget GClk.clear (getCore t core).gclk n = { K with
          steps := K.steps + 1, next := boundaryAfter s core s.now K.div, remain := if K.mode = 1 then K.remain - 1 else K.remain } ∧
        (F ≠ 0 → on → side = 0 →
          (getCore t core).gcells.get GCell.clear (r.toNat % 256) =
            (co.gcells.get GCell.clear (r.toNat % 256)).latch (r.getLsbD 13) neg) ∧
        (F ≠ 0 → on → side ≠ 0 → inSvc s to_ = true → (s.now + 4, Instr.geyserLinkIncrement,
          [to_, r.toNat % 256, if r.getLsbD 13 then 1 else 0, if neg then 1 else 0]) ∈ t.agenda) ∧
        (F ≠ 0 → on → side ≠ 0 → inSvc s to_ = false → (getCore t core).gsticky.getLsbD 1 = true) ∧
        t.mem = s.mem ∧ t.slots = s.slots ∧ raised t false) ∧
      (late ∨ wide → owner.st ≠ .free → ∃ t v, exec .geyserBoundary s = .next t ∧
        v = BitVec.ofNat 64 ((K.steps + 1).toNat % 2 ^ 32 * 2 ^ 32 +
          ((if late then 1 else 0) + (if wide then 2 else 0)) * 2 ^ 10 + n * 2 ^ 8 + i) ∧
        vget 0 (getCore t core).gorec n = v ∧ ((getCore t core).gcells.get GCell.clear i).y = g.y ∧
        ((getCore t core).gcells.get GCell.clear i).r = g.r ∧ (vget GClk.clear (getCore t core).gclk n).mode = 0 ∧
        (getCore t core).gsticky.getLsbD 2 = true ∧ t.mem = s.mem ∧
        (owner.records.length < 16 → raised t true ∧ ∃ q ∈ (getSlot t core K.owner).records,
          q.obj = .geyser ∧ q.cause = 0x09 ∧ q.unit = 3 ∧ q.value = v ∧ q.alt = if K.cnt then some K.cc else none) ∧
        (16 ≤ owner.records.length → raised t false ∧ t.slots = s.slots ∧ ∃ id, (s.now + 1, Instr.geyserClockHalt,
          [core, 4, K.owner, owner.incarn.toNat, v.toNat, if K.cnt then K.cc + 1 else 0, id]) ∈ t.agenda))) ∧
    (s.args = [core, n] → K.mode = 1 → K.remain = 0 → ∃ t, exec .geyserClockHalt s = .next t ∧
      vget GClk.clear (getCore t core).gclk n = { K with mode := 0, remain := 0, owner := 0, cnt := false } ∧ t.slots = s.slots ∧
      t.mem = s.mem ∧ raised t true) ∧
    (∀ k inc v cc id, s.args = [core, 4, k, inc, v, cc, id] → (getSlot s core k).st ≠ .free → (getSlot s core k).incarn.toNat = inc →
      ((getSlot s core k).records.length < 16 → ∃ t, exec .geyserClockHalt s = .next t ∧ t.mem = s.mem ∧
        RaisedOne s t core (cc - 1) (decide (0 < cc)) ∧ ∃ q ∈ (getSlot t core k).records, q.obj = .geyser ∧ q.order = id ∧ q.cause = 0x09 ∧
          q.unit = 3 ∧ q.value = BitVec.ofNat 64 v ∧ q.alt = if cc = 0 then none else some (cc - 1)) ∧
      (16 ≤ (getSlot s core k).records.length → ∃ t, exec .geyserClockHalt s = .next t ∧ t.mem = s.mem ∧ t.slots = s.slots ∧
        t.cores = s.cores ∧ (s.now + 1, Instr.geyserClockHalt, [core, 4, k, inc, v, cc, id]) ∈ t.agenda)) ∧
    (∀ dx neg : Bool, s.args = [core, i, if dx then 1 else 0, if neg then 1 else 0] → ∃ t, exec .geyserLinkIncrement s = .next t ∧
      (getCore t core).gcells.get GCell.clear i = (co.gcells.get GCell.clear i).latch dx neg ∧
      (∀ j, j ≠ i → (getCore t core).gcells.get GCell.clear j = co.gcells.get GCell.clear j) ∧ t.slots = s.slots ∧ t.mem = s.mem))

/-- R254, R257 to R260, R263 and R267: `qrsv` and `qmark` ask the home, stall until it has answered, and then complete;
`qpush` and `qrel` send their commit and their release and end the holding, and `qmark.h` adds its marks to the reservation;
the CORRIDOR traps with the reason that Table 11-7 gives: an endpoint that is not bound for the operation, a broken corridor,
a holding too many or too few, a length above the slot's, a mark word not allowed, no linked input. It rests on the model's
reading in log entry 30. R256, R257, R259 to R262, R265 and R266: `qpop` takes the first slot that holds data, answers its
marks, tag and address and holds it, a SWITCH slot stopping its endpoint, and, alone on its join group, bringing its column
to the switch; a DRAUGHT slot is passed over, and begins the drain where its partition is draining; a header that cannot be
corrected faults the column; with nothing to take, behind an earlier pop, at a switch point or in a corridor that a fault has
stopped it stalls among the endpoint's pops. `qrel` sends the release. `qflush` reads its list in local memory and ends the
holdings on its corridor of the tasks it names; misaligned or at task level it traps. It rests on the model's reading in log
entries 20 and 58. -/
def Obligations.CorridorInstructions : Prop :=
  (∀ (s : State) (w : BitVec 3) (a b d : BitVec 5) (l : BitVec 1) (m n : BitVec 3) (k : Nat)
      (c : Corr) (e : Endpoint),
    let N := n.toNat
    let t0 := me s
    let x := xr s a
    let corrTraps (i : Instr) (eop reason : Nat) : Prop := Traps i s 0x0D 0 (BitVec.ofNat 64 (N + eop * 256 + reason * 65536)) t0.pc
    let flight (kind : AccKind) : Flight := { newFlight s kind c.home 0 0 8 0 with corr := k, waitc := N }
    let marksOk := bits x 16 48 = 0 ∧ bits x 2 6 = 0 ∧ bits x 0 2 ≠ 0 ∧ (bits x 8 8 = 0 ∨ bitOf x 0 = true)
    let unbound (cons : Bool) : Prop := ∀ y, vget none (myCore s).ep N = some y → y.cons ≠ cons ∨ corr? s y.corr = none
    (canTrap s → unbound false → corrTraps (.qrsv w d n) 0 1 ∧ corrTraps (.qpush w a b l m n) 1 1 ∧
      corrTraps (.qmark w a n) 5 1 ∧ corrTraps (.qmarkH w a n) 5 1) ∧
    (canTrap s → unbound true → corrTraps (.qpop w d n) 2 1 ∧ corrTraps (.qrel w n) 3 1) ∧
    (vget none (myCore s).ep N = some e → e.corr = k → e.cons = false → corr? s k = some c →
      (canTrap s → corrBroken s c = true → corrTraps (.qrsv w d n) 0 8 ∧ corrTraps (.qpush w a b l m n) 1 8 ∧
        corrTraps (.qmark w a n) 5 8 ∧ corrTraps (.qmarkH w a n) 5 8) ∧
      (corrBroken s c = false →
        (t0.request = none → t0.holdR.find N = none → Asks (.qrsv w d n) s (flight .qrsv)) ∧
        (t0.request.isSome = true → t0.replied = none → Stalls (.qrsv w d n) s ∧ Stalls (.qmark w a n) s) ∧
        (∀ q, t0.request.isSome = true → t0.replied = some q →
          Answered (.qrsv w d n) s w 2 (fun u => putX u d.toNat
            (c.cwbase + BitVec.ofNat 64 (0x80000 * c.home + c.base + c.size * (q.toNat % 2 ^ 32 % c.slots)))) ∧
          Answered (.qmark w a n) s w 0 id) ∧
        (t0.request = none → t0.holdR.find N = none → marksOk → Asks (.qmark w a n) s { flight .qmark with b := x }) ∧
        (canTrap s → t0.request = none → t0.holdR.find N = none → ¬ marksOk → corrTraps (.qmark w a n) 5 5) ∧
        (canTrap s → t0.holdR.find N = none → corrTraps (.qpush w a b l m n) 1 3 ∧ corrTraps (.qmarkH w a n) 5 3) ∧
        (∀ q, t0.holdR.find N = some q →
          let linked (y : Endpoint) (q2 : Nat) : Prop := vget none (myCore s).ep m.toNat = some y ∧ y.cons = true ∧
            t0.holdP.find m.toNat = some q2
          (canTrap s → t0.request = none → corrTraps (.qrsv w d n) 0 2 ∧ corrTraps (.qmark w a n) 5 2) ∧
          (l = 0 → bits x 0 32 ≤ c.size - 32 → Issues (.qpush w a b l m n) s w
            { flight .qpush with seqNo := q, b := x, c := xr s b } (fun u => { u with holdR := u.holdR.del N })) ∧
          (∀ y q2, l = 1 → linked y q2 → bits x 0 32 ≤ c.size - 32 → Issues (.qpush w a b l m n) s w
            { flight .qpush with seqNo := q, b := x, c := xr s b, link := some (y.corr, q2) }
            (fun u => { u with holdR := u.holdR.del N, holdP := u.holdP.del m.toNat })) ∧
          (canTrap s → l = 1 → (∀ y q2, ¬ linked y q2) → corrTraps (.qpush w a b l m n) 1 6) ∧
          (canTrap s → l = 0 ∨ (∃ y q2, linked y q2) → c.size - 32 < bits x 0 32 → corrTraps (.qpush w a b l m n) 1 4) ∧
          (canTrap s → ¬ marksOk → corrTraps (.qmarkH w a n) 5 5) ∧
          (marksOk → ∃ t, exec (.qmarkH w a n) s = .next t ∧ Onward s t w ∧ MineOnly s { t with corrs := s.corrs } ∧
            t.corrs.find k = some (c.put q { c.slot q with
              marks := (c.slot q).marks ||| BitVec.ofNat 8 (bits x 0 8), mtag := (c.slot q).mtag ||| BitVec.ofNat 8 (bits x 8 8) }) ∧
            (∀ k', k' ≠ k → t.corrs.find k' = s.corrs.find k') ∧ ∀ j, bare (slotAt t j) = bare (slotAt s j)))))) ∧
  (∀ (s : State) (w : BitVec 3) (a d : BitVec 5) (n : BitVec 3) (k : Nat) (c : Corr) (e : Endpoint),
    let N := n.toNat
    let t0 := me s
    let corrTraps (i : Instr) (eop reason : Nat) : Prop := Traps i s 0x0D 0 (BitVec.ofNat 64 (N + eop * 256 + reason * 65536)) t0.pc
    let col := colOfCore s.curCore
    vget none (myCore s).ep N = some e → e.corr = k → corr? s k = some c →
    (e.cons = true → canTrap s → corrBroken s c = true → corrTraps (.qpop w d n) 2 8 ∧ corrTraps (.qrel w n) 3 8) ∧
    (e.cons = true → corrBroken s c = false →
     (canTrap s → t0.holdP.find N = none → corrTraps (.qrel w n) 3 3) ∧
     (∀ q, t0.holdP.find N = some q → (canTrap s → corrTraps (.qpop w d n) 2 2) ∧
       Issues (.qrel w n) s w { newFlight s .qrel c.home 0 0 8 0 with corr := k, seqNo := q, waitc := N }
         (fun u => { u with holdP := u.holdP.del N })) ∧
     (t0.holdP.find N = none →
      let behind := ∃ h l, e.pops = h :: l ∧ h.2 ≠ s.curSlot
      let queued := ∃ p ∈ e.pops, p.2 = s.curSlot
      let waits (t : State) : Prop := t.issued = s.issued ∧ me t = { t0 with stall := some s.ver } ∧ t.mem = s.mem ∧
        ∃ e', vget none (myCore t).ep N = some e' ∧ e'.switched = e.switched ∧ ∃ p ∈ e'.pops, p.2 = s.curSlot
      (c.stopped ≠ [] ∨ e.switched.isSome = true ∨ behind ∨ c.firstPop c.slots c.pp = none →
        ∃ t, exec (.qpop w d n) s = .next t ∧ waits t ∧ t.corrs = s.corrs ∧
          ∀ tag, c.stopped = [] → e.switched = some tag → ¬ queued → atSwitch s s.curCore c = true → Listed t .modelSwitch [col, tag]) ∧
      (∀ q, c.stopped = [] → e.switched = none → ¬ behind → c.firstPop c.slots c.pp = some q →
        (wordErr s (c.hdr q) = .ecc → ∃ t, exec (.qpop w d n) s = .next t ∧ waits t ∧ t.corrs = s.corrs ∧ Listed t .columnFault [col]) ∧
        (wordErr s (c.hdr q) ≠ .ecc →
          let h := dwordAt s (c.hdr q)
          let tag := bits h 16 8
          let joined := bitOf h 0 = true → c.joinG ≠ 0 → ∀ g, joinTag s s.curCore c.joinG = some g → g = tag
          (bitOf h 2 = true → ∃ t c', exec (.qpop w d n) s = .next t ∧ t.issued = s.issued ∧ t.corrs.find k = some c' ∧
            ((c'.slot q).st = .rel ∨ (c'.slot q).st = .free) ∧ t.mem = s.mem ∧ (me t).holdP = t0.holdP ∧ (me t).stall = some s.ver ∧
            (draining s (partOf s c.rcb) = true → (getCol t (colOfCore s.curCore)).drain.isSome = true)) ∧
          (canTrap s → bitOf h 2 = false → ¬ joined → corrTraps (.qpop w d n) 2 7) ∧
          (bitOf h 2 = false → joined → ∃ t c' e', exec (.qpop w d n) s = .next t ∧ Onward s t w ∧
            t.corrs.find k = some c' ∧ (c'.slot q).st = .pop ∧ vget none (myCore t).ep N = some e' ∧
            e'.switched = (if bitOf h 0 then some tag else none) ∧ (∀ p ∈ e'.pops, p.2 ≠ s.curSlot) ∧ t.mem = s.mem ∧
            (bitOf h 0 = true → c.joinG = 0 → Listed t .modelSwitch [col, tag]) ∧
            ∀ j, bare (slotAt t j) = bare { (if j < s.now + 2 then slotAt s j else putX (slotAt s j) d.toNat
              (BitVec.ofNat 64 (bits h 0 8 * 2 ^ 56 + tag * 2 ^ 48 + c.base + c.size * (q % 2 ^ 32 % c.slots)))) with
                holdP := t0.holdP.ins N q }))))) ∧
    (let v := xr s a
     let L := bits v 32 32
     let word (i : Nat) : W64 := rd64 s (localPa s.curCore (L + 8 * i))
     let cnt := bits (word 0) 0 6
     let named (core slot : Nat) : Prop := ∃ i < cnt, word (i + 1) =
       BitVec.ofNat 64 ((getSlot s core slot).incarn.toNat * 2 ^ 13 + core * 4 + slot)
     let held (t : State) (core slot m q : Nat) : Prop := ((getSlot t core slot).holdR.find m = some q ∨
       (getSlot t core slot).holdP.find m = some q) ∧ ∃ y, vget none (getCore s core).ep m = some y ∧ y.corr = k
     (canTrap s → NoShort s → L % 8 ≠ 0 → Traps (.qflush w a n) s 0x03 0 (BitVec.ofNat 64 L) t0.pc) ∧
     (canTrap s → L % 8 = 0 → lvlOf t0 = false → Traps (.qflush w a n) s 0x05 0 (n.setWidth 64) t0.pc) ∧
     (canTrap s → L % 8 = 0 → lvlOf t0 = true → 0x3FE80 < L + 8 → Traps (.qflush w a n) s 0x05 0 (BitVec.ofNat 64 L) t0.pc) ∧
     (L % 8 = 0 → lvlOf t0 = true → L + 8 + 8 * cnt ≤ 0x3FE80 → s.curCore < 2048 → ownPending s s.curCore s.curSlot = false →
       (∀ g < 64, touch s s.curCore (partOf s t0.part) g = .ok) → (myCore s).chim = [] →
       (∀ i ≤ cnt, s.localBad.find (localPa s.curCore (L + 8 * i) / 8) = none) →
       (canTrap s → cnt = 0 ∨ bits (word 0) 6 58 ≠ 0 ∨ (∃ i < cnt, bits (word (i + 1)) 21 43 ≠ 0) →
         Traps (.qflush w a n) s 0x05 0 (BitVec.ofNat 64 L) t0.pc) ∧
       (0 < cnt → bits (word 0) 6 58 = 0 → (∀ i < cnt, bits (word (i + 1)) 21 43 = 0) → corrBroken s c = false →
         ∃ t c', exec (.qflush w a n) s = .next t ∧ Onward s t w ∧ t.corrs.find k = some c' ∧
           (∀ core slot m q, core < 2048 → slot < 4 → named core slot → (getSlot s core slot).st ≠ .free →
             ¬ held t core slot m q ∧ ((getSlot s core slot).holdR = [(m, q)] → (getSlot s core slot).holdP = [] →
               held s core slot m q → (c'.slot q).st ≠ .rsv)) ∧
           (∀ core slot, (core, slot) ≠ (s.curCore, s.curSlot) → slot < 4 → ¬ named core slot → getSlot t core slot = getSlot s core slot) ∧
           ∀ j, bare { slotAt t j with holdR := [], holdP := [] } = bare { slotAt s j with holdR := [], holdP := [] }))))

/-- R257, R260, R263, R267 and R270: what corridor accesses do at the home, behind no earlier one: a reservation waits its
turn and is granted the slot at RP, a `qmark` and a DRAUGHT mark committing it at once; a commit writes the header, with the
name of the linked input, and makes the slot CMT; a release makes it REL or, at LF, FREE; and the reply of a linked commit
releases the input slot. It rests on the model's reading in log entry 33. -/
def Obligations.CorridorHome : Prop := ∀ (s : State) (id k : Nat) (f : Flight) (c : Corr),
  let freed (t : State) (q : Nat) : Prop := ∃ c', t.corrs.find k = some c' ∧ ((c'.slot q).st = .rel ∨ (c'.slot q).st = .free)
  let journal (x : Nat) : Prop := ∃ pkg port q, (getSlot s f.core f.slot).origin = some (.seed pkg port q) ∧
    ajEntry s pkg port q + 8 ≤ x ∧ x < ajEntry s pkg port q + 16
  let header (t : State) (q marks tag : Nat) (d1 d2 d3 : W64) : Prop :=
    rd64 t (c.hdr q) = BitVec.ofNat 64 (q % 2 ^ 32 * 2 ^ 32 + tag * 2 ^ 16 + marks) ∧ rd64 t (c.hdr q + 8) = d1 ∧
    rd64 t (c.hdr q + 16) = d2 ∧ rd64 t (c.hdr q + 24) = d3 ∧
    ∀ p, (p < c.hdr q ∨ c.hdr q + 32 ≤ p) → ¬ journal p → memByte t p = memByte s p
  let performed (t : State) (v : Nat) : Prop :=
    t.flights.find id = some { f with performed := true, result := BitVec.ofNat 64 v, err := none }
  let inside (q : Nat) : Prop := c.home < 2048 ∧ c.addr q % 8 = 0 ∧ c.addr q + 32 ≤ 0x3FE00
  s.flights.find id = some f → s.corrs.find k = some c → f.core < 2048 → f.slot < 4 →
  (s.args = [id] → waitsBehind s id f = true → exec .reservationAtHome s = .next (holdAtHome s id .reservationAtHome) ∧
    exec .commitAtHome s = .next (holdAtHome s id .commitAtHome) ∧ exec .releaseAtHome s = .next (holdAtHome s id .releaseAtHome)) ∧
  (s.args = [id] → f.corr = k → waitsBehind s id f = false →
    (∃ t, exec .reservationAtHome s = .next t ∧ t.corrs.find k = some { c with waiting := c.waiting ++ [id] } ∧
      Listed t .reservationGrant [k] ∧ t.slots = s.slots ∧ t.mem = s.mem) ∧
    ((c.slot f.seqNo).st = .rsv → corrBroken s c = false → inside f.seqNo →
      (c.slot f.seqNo).marks.getLsbD 2 = false → ∃ t c', exec .commitAtHome s = .next t ∧ t.corrs.find k = some c' ∧
        (c'.slot f.seqNo).st = .cmt ∧ performed t 0 ∧
        header t f.seqNo (c.slot f.seqNo).marks.toNat (c.slot f.seqNo).mtag.toNat f.b f.c (match f.link with
          | none => 0
          | some (k2, q2) => match s.corrs.find k2 with
            | some c2 => BitVec.ofNat 64 (q2 % 2 ^ 32 * 2 ^ 32 + c2.id % 256 * 2 ^ 24 + 1)
            | none => 0)) ∧
    ((c.slot f.seqNo).st = .pop → ∃ t, exec .releaseAtHome s = .next t ∧ freed t f.seqNo ∧ t.mem = s.mem ∧ performed t 0)) ∧
  (∀ q, s.args = [id] → f.link = some (k, q) → f.kind = .qpush → (c.slot q).st = .pop → ∃ t, exec .linkedRelease s = .next t ∧
    freed t q ∧ t.flights.find id = none ∧ t.mem = s.mem) ∧
  (s.args = [k] → c.waiting = [id] → (c.slot c.rp).st = .free → corrBroken s c = false →
    (f.kind = .qrsv → c.stopped = [] → ∃ t, exec .reservationGrant s = .next t ∧
      t.corrs.find k = some { c.put c.rp ⟨.rsv, 0, 0⟩ with rp := (c.rp + 1) % 2 ^ 32, waiting := [] } ∧
      getSlot t f.core f.slot = { getSlot s f.core f.slot with holdR := (getSlot s f.core f.slot).holdR.ins f.waitc c.rp } ∧
      performed t c.rp ∧ t.mem = s.mem) ∧
    (f.kind = .qmark → c.stopped = [] → inside c.rp → bits f.b 2 1 = 0 → ∃ t c', exec .reservationGrant s = .next t ∧
      t.corrs.find k = some c' ∧ c'.waiting = [] ∧ c'.rp = (c.rp + 1) % 2 ^ 32 ∧ (c'.slot c.rp).st = .cmt ∧ t.slots = s.slots ∧
      performed t c.rp ∧ header t c.rp (bits f.b 0 8) (bits f.b 8 8) 0 0 0) ∧
    (f.kind = .draughtMark → inside c.rp → ∃ t c', exec .reservationGrant s = .next t ∧ t.corrs.find k = some c' ∧
      c'.waiting = [] ∧ c'.rp = (c.rp + 1) % 2 ^ 32 ∧ t.flights.find id = none ∧ Listed t .draughtForward [colOfCore f.core] ∧
      t.slots = s.slots ∧ header t c.rp 4 0 0 0 0)) ∧
  (s.args = [k] → c.waiting = [id] → (c.slot c.rp).st ≠ .free ∨ corrBroken s c = true ∨ c.stopped ≠ [] ∧ f.kind ≠ .draughtMark →
    exec .reservationGrant s = .next s)

/-- R349 to R351: `bar.arrive` and `bar.expect` send their change and go on; `bar.wait` and `bar.try` ask the barrier, stall
until it answers, and complete by its answer; a barrier that the core's mask leaves out traps BARRIER, and so does a fault of
an earlier change, under the number of its barrier, and a `bar.wait` on a barrier that broke. R347, R348, R350, R351, R429 to
R431: changes at a barrier behind no earlier one of their source, of a barrier that is configured and one that is not, and
those that break it, which answers every waiter; a `bar.try` and a `bar.wait` as they reach it; the completion of a phase,
without a parent by its group releases and its window, with one by leaving its arrivals; a token of a child as one arrival,
of the parent as the phase's completion, and of a break; configuration. It rests on the model's reading in log entry 44. -/
def Obligations.Barriers : Prop :=
  (∀ (s : State) (w : BitVec 3) (a d : BitVec 5) (m : BitVec 6),
    let t0 := me s
    let pkg := pkgOfCore s.curCore
    let flight (kind : AccKind) (v : W64) : Flight :=
      { newFlight s kind (homeNo (.unit pkg 3 0)) 0 (dieWin pkg 3 (32 * m.toNat + 16)) 8 0 with seqNo := m.toNat, b := v }
    let all : List Instr := [.barArrive w a m, .barExpect w a m, .barWait w a m, .barTry w d m]
    (bitOf (myCore s).barmask m.toNat = true → t0.barFaults = [] →
      Issues (.barArrive w a m) s w (flight .barArrive (xr s a)) id ∧
      Issues (.barExpect w a m) s w (flight .barExpect (xr s a)) id ∧
      (t0.request = none → Asks (.barWait w a m) s (flight .barWait (xr s a)) ∧ Asks (.barTry w d m) s (flight .barTry 0))) ∧
    (canTrap s → t0.request = none → ∀ i ∈ all,
      (bitOf (myCore s).barmask m.toNat = false → Traps i s 0x13 0 (BitVec.ofNat 64 m.toNat) t0.pc) ∧
      ∀ b r, bitOf (myCore s).barmask m.toNat = true → t0.barFaults = b :: r → ∃ t, exec i s = .next t ∧
        TrapEntry (modMe s (fun u => { u with barFaults := r })) t 0x13 0 (BitVec.ofNat 64 b) t0.pc) ∧
    (t0.request.isSome = true →
      (t0.replied = none → Stalls (.barWait w a m) s ∧ Stalls (.barTry w d m) s) ∧
      (t0.replied = some 0 → Answered (.barWait w a m) s w 0 id) ∧
      (∀ v, t0.replied = some v → Answered (.barTry w d m) s w 2 (fun u => putX u d.toNat v) ∧
        (canTrap s → v ≠ 0 → Traps (.barWait w a m) s 0x13 0 (BitVec.ofNat 64 m.toNat) t0.pc)))) ∧
  (∀ (s : State) (pkg m : Nat), pkg < 4 → m < 64 →
    let b := getBar s pkg m
    let fits (v : Int) (arrival : Bool) : Prop := -2 ^ 31 ≤ b.pending + v ∧ b.pending + v < 2 ^ 31 ∧ (arrival = true → b.arrivals < b.exp)
    let live := b.exp ≠ 0 ∧ b.broken = false
    let ready (t : State) : Prop := let x := getBar t pkg m
      x.exp ≠ 0 → x.broken = false → x.arrivals = x.exp → x.pending = 0 → x.releasing = false → Listed t .barrierPhaseComplete [pkg, m]
    let changed (i : Instr) (v : Int) (arrival : Bool) (P : State → Prop) : Prop := ∃ t, exec i s = .next t ∧ P t ∧ t.slots = s.slots ∧
      getBar t pkg m = { b with pending := b.pending + v, arrivals := b.arrivals + (if arrival then 1 else 0) } ∧ ready t
    let answered (t : State) (id : Nat) (f : Flight) (v : W64) : Prop :=
      t.flights.find id = some { f with performed := true, result := v, err := none }
    let broke (i : Instr) (P : State → Prop) (own : Nat → Prop) : Prop := ∃ t, exec i s = .next t ∧ P t ∧ t.slots = s.slots ∧
      getBar t pkg m = { b with broken := true, waiters := [] } ∧
      ∀ id ∈ b.waiters, ¬ own id → ∀ f, s.flights.find id = some f → answered t id f 1 ∧ Listed t .accessReply [id]
    let cleared (x : Bar) : Bar := { x with phase := false, arrivals := 0, pending := 0, releasing := false, broken := false, released := 0 }
    let windowed (t : State) : Prop := (∀ g < b.ngrp, (s.now + g * b.s, Instr.barrierGroupRelease, [pkg, m, g]) ∈ t.agenda) ∧
      (s.now + (b.ngrp - 1) * b.s + 9, Instr.barrierWindowClose, [pkg, m]) ∈ t.agenda
    (∀ (id : Nat) (f : Flight) (arrival : Bool), s.args = [id] → s.flights.find id = some f → f.home = homeNo (.unit pkg 3 0) →
      f.seqNo = m →
      let v : Int := (f.b.setWidth 32).toInt
      let i : Instr := if arrival then .barrierArrival else .barrierExpect
      let found (err : Option (Nat × Nat × W64)) (t : State) : Prop :=
        t.flights.find id = some { f with performed := true, result := 0, err := err }
      (waitsBehind s id f = true → exec i s = .next (holdAtHome s id i)) ∧
      (waitsBehind s id f = false →
        (live → fits v arrival → changed i v arrival (found none)) ∧
        (live → ¬ fits v arrival → broke i (found (some (0x13, 0, BitVec.ofNat 64 m))) (· = id)) ∧
        (b.exp = 0 → ∃ t, exec i s = .next t ∧ found (some (0x13, 0, BitVec.ofNat 64 m)) t ∧ getBar t pkg m = b ∧ t.slots = s.slots) ∧
        (b.exp ≠ 0 → b.broken = true → ∃ t, exec i s = .next t ∧ found none t ∧ getBar t pkg m = b ∧ t.slots = s.slots) ∧
        (f.kind = .barTry → ∃ t, exec .accessAtHome s = .next t ∧ answered t id f b.bstate ∧ getBar t pkg m = b ∧ t.slots = s.slots) ∧
        (f.kind = .barWait → b.waiters = [] →
          (∀ v, waiterDone b f = some v → ∃ t, exec .accessAtHome s = .next t ∧ answered t id f (BitVec.ofNat 64 v) ∧
            getBar t pkg m = b ∧ t.slots = s.slots ∧ Listed t .accessReply [id]) ∧
          (waiterDone b f = none → ∃ t, exec .accessAtHome s = .next t ∧ t.flights.find id = some f ∧
            getBar t pkg m = { b with waiters := [id] } ∧ t.slots = s.slots)))) ∧
    (∀ n : Nat, s.args = [pkg, m, n] → live → (fits (-(n : Int)) false → changed .barrierDecrement (-(n : Int)) false (fun _ => True)) ∧
      (¬ fits (-(n : Int)) false → broke .barrierDecrement (fun _ => True) (fun _ => False))) ∧
    (s.args = [pkg, m] → live → (fits 0 true → changed .arrivalToken 0 true (fun _ => True)) ∧
      (¬ fits 0 true → broke .arrivalToken (fun _ => True) (fun _ => False))) ∧
    (s.args = [pkg, m] → b.met = true →
      (b.parent = none → ∃ t, exec .barrierPhaseComplete s = .next t ∧
        getBar t pkg m = { b with phase := !b.phase, arrivals := 0, releasing := true, released := 0 } ∧ windowed t ∧ t.slots = s.slots) ∧
      (∀ p, b.parent = some p → ∃ t, exec .barrierPhaseComplete s = .next t ∧
        getBar t pkg m = { b with arrivals := 0, releasing := true } ∧ t.slots = s.slots)) ∧
    (s.args = [pkg, m] → b.broken = false → ∃ t, exec .releaseToken s = .next t ∧
      getBar t pkg m = { b with phase := !b.phase, releasing := true, released := 0 } ∧ windowed t ∧ t.slots = s.slots) ∧
    (∀ g, s.args = [pkg, m, g] → b.releasing = true → live → ∃ t, exec .barrierGroupRelease s = .next t ∧ t.slots = s.slots ∧
      { getBar t pkg m with waiters := [] } = { b with released := max b.released (g + 1), waiters := [] } ∧
      ∀ id ∈ b.waiters, ∀ f, s.flights.find id = some f →
        if b.phase ≠ bitOf f.b 0 ∧ min (bits f.b 1 3) (b.ngrp - 1) < max b.released (g + 1) then
          answered t id f 0 ∧ id ∉ (getBar t pkg m).waiters ∧ ∃ due, due ≤ s.now + 8 ∧ (due, Instr.accessReply, [id]) ∈ t.agenda
        else t.flights.find id = some f ∧ id ∈ (getBar t pkg m).waiters) ∧
    (s.args = [pkg, m] → ∃ t, exec .barrierWindowClose s = .next t ∧ getBar t pkg m = { b with releasing := false } ∧ ready t ∧ t.slots = s.slots) ∧
    (∀ p q, s.args = [pkg, m, p, q] → b.broken = false → broke .breakToken (fun _ => True) (fun _ => False)) ∧
    (∀ v : W64, s.args = [pkg, m, v.toNat] → b.waiters = [] →
      (∃ t, exec .bcfgWrite s = .next t ∧ t.slots = s.slots ∧ getBar t pkg m =
        cleared { b with set := true, exp := bits v 48 16, s := max 4 (min 1024 (bits v 16 11)), ngrp := bits v 8 3 + 1 }) ∧
      (∃ t, exec .blinkWrite s = .next t ∧ t.slots = s.slots ∧ getBar t pkg m = cleared { b with link := v &&& 0xFF80000FFFFFFFFF })))

/-- R23, R28, R265, R266 and R322: a column's drain is looked at again in the next cycle until its conditions hold; it ends
then, or when its allowance has passed: a task that holds a corridor slot is ended, one that runs with DTE set takes its
DRAUGHT trap, every other one freezes; then, once no commit of the column is in flight, one DRAUGHT mark goes out on each
producer endpoint of the column that is bound, and when all of them have been committed the column has been forwarded. It
rests on the model's reading in log entries 33 and 34. R271, R272, R326, R327 and R346: a column fault, from a slot that is
ready and does not issue as from any other cause, frees the column's slots, stops its corridors and those its tasks hold
reservations on, and has it restarted; the restart binds its stage tasks again and lets the corridors go on, or is tried
again while a slot is not free; a column that cannot be restarted stays faulted. At a switch point the stage's tasks end, a
tag without a successor ending the partition; the successor is bound when the refill is done and the slots its tasks need are
free. It rests on the model's reading in log entries 2, 39, 58 and 70. -/
def Obligations.ColumnDrainsAndFaults : Prop :=
  (∀ (s : State) (col : Nat) (d : Drain), s.args = [col] → (getCol s col).drain = some d →
    let ends (i : Instr) : Prop := ∃ t d', exec i s = .next t ∧ (getCol t col).drain = some d' ∧ d'.ended = true ∧ t.issued = s.issued ∧
      Listed t .draughtForward [col] ∧ Listed t .partitionHalted [d.rcb] ∧
      ∀ core k, (core, k) ∈ colSlots s col d.rcb →
        let u := (getSlot s core k).landDue false s.now
        let v := getSlot t core k
        u.st ≠ .frozen → (u.holdR ≠ [] ∨ u.holdP ≠ [] → v.st = .free) ∧
        (u.holdR = [] → u.holdP = [] →
          (bitOf u.status 3 = true → u.st = .run → inTrap (getSlot s core k) = false → v.st = .trap ∧ v.trapcause = 0x14 ∧ v.trapval = 0 ∧
            v.trappc = u.pc &&& 0xFFFFFFFFFFFFC ∧ v.draught = some 0 ∧ v.pc = tvecOf s core k + 0x500) ∧
          (bitOf u.status 3 = false ∨ u.st ≠ .run → v = { getSlot s core k with freezing := true } ∧ Listed t .slotFreeze [core, k]))
    let mine (P : AccKind → Prop) : Prop := ∃ p ∈ s.flights, colOfCore p.2.core = col ∧ p.2.performed = false ∧ P p.2.kind
    let goes := producerCorrs s col d.rcb
    (d.ended = false → drainDone s col d = true → ends .drainEnd) ∧
    (d.ended = false → drainDone s col d = false → ∃ t, exec .drainEnd s = .next t ∧ { t with agenda := s.agenda } = s ∧
      (s.now + 1, Instr.drainEnd, [col]) ∈ t.agenda) ∧
    (d.ended = false → ends .drainAllowanceExpiry) ∧
    (d.ended = true → exec .drainEnd s = .next s ∧ exec .drainAllowanceExpiry s = .next s) ∧
    (d.ended = true → d.forwarded = 0 → mine (fun k => k = .qpush) → ∃ t, exec .draughtForward s = .next t ∧
      { t with agenda := s.agenda } = s ∧ (s.now + 1, Instr.draughtForward, [col]) ∈ t.agenda) ∧
    (d.ended = true → d.forwarded = 0 → ¬ mine (fun k => k = .qpush) → ∃ t d', exec .draughtForward s = .next t ∧
      (getCol t col).drain = some d' ∧ d'.forwarded = 1 ∧ t.nextId = s.nextId + goes.length ∧ t.slots = s.slots ∧ t.mem = s.mem ∧
      Listed t .draughtForward [col] ∧
      ∀ j < goes.length, ∃ f, t.flights.find (s.nextId + j) = some f ∧ f.kind = .draughtMark ∧
        some (f.core, f.corr) = (goes[j]?).map (fun x => (x.1, x.2.1))) ∧
    (d.ended = true → d.forwarded = 1 → ¬ mine (fun k => k = .draughtMark) → ∃ t, exec .draughtForward s = .next t ∧
      (getCol t col).drain = some { d with forwarded := 2 } ∧ Listed t .partitionHalted [d.rcb] ∧ t.slots = s.slots ∧ t.flights = s.flights) ∧
    (d.ended = true → d.forwarded = 1 → mine (fun k => k = .draughtMark) → exec .draughtForward s = .next s)) ∧
  (∀ (s : State) (col : Nat) (p : Part), colRegion s col ≠ 0 →
    findPart s (colRegion s col) = some p →
    let part := partOf s (colRegion s col)
    let c := getCol s col
    let again : Nat := match c.lastFault with | some r => if s.now < r + 2 ^ 24 then 1 else 0 | none => 0
    let im := imgOf s p
    let contained (i : Instr) : Prop := ∃ t, exec i s = .next t ∧ (getCol t col).faulted = true ∧ Listed t .columnRestart [col, again] ∧
      (∀ x ∈ colSlots s col part, (getSlot t x.1 x.2).st = .free) ∧
      ∀ k ∈ faultCorrs s col part, ∀ q, s.corrs.find k = some q → ∃ q', t.corrs.find k = some q' ∧ col ∈ q'.stopped
    (c.faulted = false → s.args = [col] → contained .columnFault) ∧
    (c.faulted = true → s.args = [col] → exec .columnFault s = .next s) ∧
    (∀ core k, c.faulted = false → s.args = [core, k] → colOfCore core = col →
      (let u := getSlot s core k
       u.st = .run ∨ u.st = .trap → u.freezing = false → u.stall = none → u.ready + 2 ^ 24 ≤ s.now → contained .readySlotTimeout)) ∧
    (∀ u n, s.args = [col, 0] → c.faulted = true → p.state = 3 → colStage s p.rcb col = some n →
      (∀ x ∈ colCores col, ((im.stage n).taskAt (posOfCore x)).isSome = true → inSvc s x = true) →
      (bindStage s p col none = (u, true) → ∃ t, exec .columnRestart s = .next t ∧ (getCol t col).faulted = false ∧
        (getCol t col).lastFault = some s.now ∧ t.slots = u.slots ∧ ∀ k q, t.corrs.find k = some q → col ∉ q.stopped) ∧
      (bindStage s p col none = (u, false) → ∃ t, exec .columnRestart s = .next t ∧ { t with agenda := s.agenda } = s ∧
        (s.now + 1, Instr.columnRestart, [col, 0]) ∈ t.agenda)) ∧
    (∀ a, s.args = [col, a] → c.faulted = true → p.state ≠ 3 ∨ a = 1 → ∃ t, exec .columnRestart s = .next t ∧
      (getCol t col).faulted = true ∧ t.slots = s.slots) ∧
    (∀ tag n, s.args = [col, tag] → c.swready = false → p.state = 3 → colStage s p.rcb col = some n → p.rcb = colRegion s col →
      let atPoint := ∀ x ∈ colSlots s col part, (getSlot s x.1 x.2).part = p.rcb → popsOn s (switchedEps s col) x.1 x.2 = true
      (¬ atPoint → ∃ t, exec .modelSwitch s = .next t ∧ t.slots = s.slots ∧ (getCol t col).swready = false ∧
        (getCol t col).swtag = some (c.swtag.getD tag)) ∧
      (atPoint → ((im.stage n).switches.find? (fun w => w.1 == tag)).isSome = true → ∃ t, exec .modelSwitch s = .next t ∧
        (getCol t col).swready = true ∧ (getCol t col).swtag = some (c.swtag.getD tag) ∧
        Listed t .switchRebind [col] ∧ ∀ x ∈ colSlots s col part, (getSlot s x.1 x.2).part = p.rcb → (getSlot t x.1 x.2).st = .free) ∧
      (atPoint → (im.stage n).switches.find? (fun w => w.1 == tag) = none → p.parent = 0 →
        ∃ t, exec .modelSwitch s = .next t ∧ findPart t p.rcb = none)) ∧
    (∀ tag n m, s.args = [col] → c.swtag = some tag → c.swready = true → colStage s p.rcb col = some n →
      (im.stage n).switches.find? (fun w => w.1 == tag) = some (tag, m) →
      let needs (x : Nat) : Prop := x ∈ colCores col ∧ inSvc s x = true ∧ ((im.stage m).taskAt (posOfCore x)).isSome = true
      (refillDone s col tag c.swop = false → exec .switchRebind s = .next s) ∧
      (refillDone s col tag c.swop = true → c.swfail = true → ∃ t, exec .switchRebind s = .next t ∧ (getCol t col).swtag = none ∧
        (getCol t col).swready = false ∧ (getCol t col).swfail = false) ∧
      (refillDone s col tag c.swop = true → c.swfail = false → p.state = 3 →
        ((∀ x, needs x → slotFree s x 0 = true) → ∃ t, exec .switchRebind s = .next t ∧ (getCol t col).swtag = none ∧
          (getCol t col).swready = false ∧ ∀ x ∈ colCores col, ∀ g, (getCore s x).grant = some g →
            (getCore t x).grant = some { g with stage := m, lent := none, handTo := none }) ∧
        ((∃ x, needs x ∧ slotFree s x 0 = false) → exec .switchRebind s = .next (schedule s (s.now + 1) .switchRebind [col])))))

/-- R15 to R18, R24, R297, R312, R313, R317, R318, R386, R403 and Table 1-6: a column's stage tasks are bound in one cycle
where their slots are free, and tried again where one is not; a port's next seed, once its way to the bind queue is over, and
the first ready record that finds a place, are bound to a free slot, whose bank holds no spilled group, with the registers of
a new task; a seed whose payload does not translate or whose adapter slot is empty traps INTAKE; seeds of a cycle go before
its records, and a record whose entry the image does not have fails. It rests on the model's reading in log entries 9 and 46.
-/
def Obligations.BindingOfTasks : Prop := ∀ (s : State) (p : Part), findPart s p.rcb = some p → p.state = 3 →
  let im := imgOf s p
  let room (c k : Nat) : Prop := slotFree s c k = true ∧ ∀ g ∈ (getCore s c).spill, ¬ (g.place = 2 ∧ g.addr = k)
  (∀ col n, s.args = [col] → colRegion s col = p.rcb → colStage s p.rcb col = some n → im.stages ≠ [] →
    let st := im.stage n
    let named (c : Nat) : Prop := c ∈ colCores col ∧ inSvc s c = true ∧ (st.taskAt (posOfCore c)).isSome = true
    ((∀ c, named c → room c 0) → ∃ t, exec .bindStageTasks s = .next t ∧ (∀ c e pc, named c → st.taskAt (posOfCore c) = some e →
      im.entry e = some pc → NewTask (getSlot s c 0) (getSlot t c 0) pc 0 (n * 2 ^ 32 + posOfCore c * 2 ^ 16) im.stack st.frame 0 st.waitchk ∧
        (getSlot t c 0).part = p.rcb ∧ (getSlot t c 0).ready = s.now + 7 ∧ (getSlot t c 0).origin = some (.stage col)) ∧
      ∀ c k, k < 4 → ¬ (named c ∧ k = 0) → getSlot t c k = getSlot s c k) ∧
    ((∃ c, named c ∧ slotFree s c 0 = false) → ∃ t, exec .bindStageTasks s = .next t ∧ { t with agenda := s.agenda } = s ∧
      (s.now + 1, Instr.bindStageTasks, [col]) ∈ t.agenda)) ∧
  (∀ pkg n q e pc rest, s.args = [pkg, n] → pkg < 4 → n < 4 → (getPort s pkg n).part = some p.rcb → (getPort s pkg n).queue = q :: rest →
    q ∉ rest → (∀ k < 4, k ≠ n → (getPort s pkg k).queue = []) → findSeed s pkg n q = some e → im.seedEntry.bind im.entry = some pc →
    let cores := seedCores s p
    let last := (getPort s pkg n).lastCore
    let places := eligible s p.rcb (cores.filter (fun c => decide (last ≤ c)) ++ cores.filter (fun c => decide (c < last)))
    (s.now < e.ready ∨ places = [] → exec .bindSeedTask s = .next s) ∧
    (∀ c slot l, e.ready ≤ s.now → places = (c, slot) :: l → room c slot → ∃ t, exec .bindSeedTask s = .next t ∧
      (getSlot t c slot).origin = some (.seed pkg n q) ∧ (getSlot t c slot).part = p.rcb ∧ s.now + 27 ≤ (getSlot t c slot).ready ∧
      (getPort t pkg n).queue = rest ∧ (getPort t pkg n).lastCore = c + 1 ∧ findSeed t pkg n q = some { e with state := 2 } ∧
      (∀ c' k, k < 4 → (c', k) ≠ (c, slot) → getSlot t c' k = getSlot s c' k) ∧
      (bindErr s pkg n p e.token = 0 → NewTask (getSlot s c slot) (getSlot t c slot) pc slot
        (e.token.toNat / 2 ^ 40 * 2 ^ 32 + bits e.token 36 4 * 2 ^ 16) im.stack (BitVec.ofNat 64 (bits e.token 0 36 * 64)) e.token im.waitchk) ∧
      (bindErr s pkg n p e.token ≠ 0 → let u := getSlot t c slot
        u.st = .trap ∧ u.trapcause = 0x15 ∧ u.trapval = e.token ∧ u.trappc = pc &&& 0xFFFFFFFFFFFFC ∧ u.pc = p.tvec + 0x540))) ∧
  (∀ pkg, s.args = [pkg] → pkg < 4 →
    let l := readyRecords s pkg
    let due := ∃ x ∈ s.agenda, x.1 ≤ s.now ∧ x.2.1 = .bindSeedTask
    let known (e : DepEnt) : Prop := ∃ q pc, findPart s e.rcb = some q ∧ (imgOf s q).entry (bits e.d0 0 8) = some pc
    (due → exec .bindTileTask s = .next (schedule s s.now .bindTileTask [pkg])) ∧
    (∀ e older younger, ¬ due → l = older ++ e :: younger → (∀ x ∈ older, known x) → ¬ known e → ∃ t, exec .bindTileTask s = .next t ∧
      (∀ x ∈ (getPkg t pkg).dep, x.uid ≠ e.uid) ∧ t.slots = s.slots) ∧
    (¬ due → (∀ x ∈ l, known x) → recordPlace l s = (s, none) → exec .bindTileTask s = .next s) ∧
    (∀ c slot e pc, ¬ due → (∀ x ∈ l, known x) → recordPlace l s = (s, some (e, p, c, slot)) → room c slot → e ∈ (getPkg s pkg).dep →
      im.entry (bits e.d0 0 8) = some pc →
      ∃ t, exec .bindTileTask s = .next t ∧ NewTask (getSlot s c slot) (getSlot t c slot) pc slot (e.d0.toNat / 256) im.stack e.d1 e.va im.waitchk ∧
        (getSlot t c slot).origin = some (.tile pkg e.uid) ∧ (getSlot t c slot).part = p.rcb ∧
        (∀ c' k, k < 4 → (c', k) ≠ (c, slot) → getSlot t c' k = getSlot s c' k) ∧ Listed t .bindTileTask [pkg] ∧
        (getPkg t pkg).dep = (getPkg s pkg).dep.map (fun x => if x.uid = e.uid then { x with bound := true } else x)))

/-- R314 to R316, R318 to R320 and R441: a record that stands at an aligned and readable address of the memory, written to
RECQ by a core of its region: a legal one joins the table, taking up the completions that came before it, ready at once when
it then waits for nothing, and is held where it waits and the table has no room; one whose ID is in the table already is
dropped, as is a write by no core of a region or of an address misaligned or not translated. A record's end takes it out,
raises its counter and readies a successor that waited for it alone; its failure takes its successor out with it. With two
stages, of which the one is full and not back-pressed and the other has spare cores and is nearly empty, a sample marks one
of these to pass; and the core passes when it is free. It rests on the model's reading in log entries 2, 45 and 73. -/
def Obligations.TaskRecordsAndLending : Prop := ∀ (s : State) (pkg : Nat), pkg < 4 →
  let dep := (getPkg s pkg).dep
  (∀ src (v : W64), s.args = [pkg, src, v.toNat] →
    let part := partOf s (regionOf s src)
    let va := bits v 5 47 * 32
    let dropped := ∃ t, exec .recq s = .next t ∧ (getPkg t pkg).dep = dep ∧ t.slots = s.slots ∧ t.cores = s.cores
    (2048 ≤ src ∨ regionOf s src = 0 ∨ v.toNat % 32 ≠ 0 → dropped) ∧
    (xlateUnit s pkg part va 0 true = none ∨ xlateUnit s pkg part va 1 true = none → dropped) ∧
    (∀ p pa, src < 2048 → findPart s (regionOf s src) = some p → regionOf s src ≠ 0 → v.toNat % 32 = 0 →
      xlateUnit s pkg part va 0 true = some pa → xlateUnit s pkg part va 1 true = some pa →
      p.rcb = regionOf s src → (∃ q c, placeOf pa = .gddr q c) → pa % 32 = 0 →
      let w (i : Nat) : W64 := rd64 s (pa + 8 * i)
      let same := depIs s part (bits (w 2) 48 16)
      let puts (e : DepEnt) (l : List DepEnt) (n : Nat) : Prop := ∃ t, exec .recq s = .next t ∧ t.slots = s.slots ∧ t.mem = s.mem ∧
        ∃ uid, (getPkg t pkg).dep = l ++ [{ e with uid := uid, ndep := n, readyAt := if n = 0 then some s.now else none }] ∧
          (n = 0 → Listed t .bindTileTask [pkg])
      let e : DepEnt := {
        rcb := p.rcb, id := bits (w 2) 48 16, record := true, credit := 0, ndep := bits (w 2) 40 8, va := BitVec.ofNat 64 va,
        d0 := w 0, d1 := w 1, d2 := w 2, d3 := w 3, readyAt := none, bound := false, uid := 0, res := false }
      bits (w 2) 0 32 = 0 → bits (w 3) 0 14 = 0 → bits (w 2) 32 8 < (imgOf s p).stageCount →
      ((∃ x ∈ dep, same x = true ∧ x.record = true) → ∃ t, exec .recq s = .next t ∧ (getPkg t pkg).dep = dep ∧ t.slots = s.slots) ∧
      (∀ x, (∀ y ∈ dep, same y = true → y.record = false) → dep.find? (fun y => same y && !y.record) = some x →
        puts e (dep.filter (fun y => y.uid != x.uid)) (e.ndep - x.credit)) ∧
      ((∀ y ∈ dep, same y = false) → generalRoom s pkg = true → puts e dep e.ndep) ∧
      ((∀ y ∈ dep, same y = false) → generalRoom s pkg = false → e.ndep = 0 → reservedRoom s pkg = true → puts { e with res := true } dep 0) ∧
      ((∀ y ∈ dep, same y = false) → generalRoom s pkg = false → e.ndep ≠ 0 → ∃ t, exec .recq s = .next t ∧ (getPkg t pkg).dep = dep ∧
        (getPkg t pkg).heldWrites = (getPkg s pkg).heldWrites ++ [[0, src, v.toNat]] ∧ t.slots = s.slots))) ∧
  (∀ e code core pc, s.args = [pkg, e.uid, code, core, pc] → dep.find? (fun x => x.uid == e.uid) = some e →
    let core' := bits e.d3 19 11
    let up := bitOf e.d3 14
    (e.succs = [] → ∃ t, exec .recordCompletion s = .next t ∧ (getPkg t pkg).dep = dep.filter (fun x => x.uid != e.uid) ∧
      RaisedOne s t core' (bits e.d3 15 4) up ∧ t.slots = s.slots) ∧
    (∀ id x, e.succs = [id] → dep.find? (depIs s (partOf s e.rcb) id) = some x → x.uid ≠ e.uid → x.record = true →
      (code = 0 → x.ndep = 1 → ∃ t, exec .recordCompletion s = .next t ∧ (∀ y ∈ (getPkg t pkg).dep, y.uid ≠ e.uid) ∧
        (∃ y ∈ (getPkg t pkg).dep, y.uid = x.uid ∧ y.ndep = 0 ∧ y.readyAt = some s.now) ∧ Listed t .bindTileTask [pkg] ∧
        RaisedOne s t core' (bits e.d3 15 4) up ∧ t.slots = s.slots) ∧
      (code ≠ 0 → x.succs = [] → ∃ t, exec .recordCompletion s = .next t ∧ t.slots = s.slots ∧
        ∀ y ∈ (getPkg t pkg).dep, y.uid ≠ e.uid ∧ y.uid ≠ x.uid))) ∧
  (s.args = [pkg] → ∀ p, let per := bits (getReg s (dieWin pkg 0 0)) 16 16 * 256
    per ≠ 0 → s.parts.filter (fun q => q.state == 3 && q.launchPkg == pkg) = [p] → (imgOf s p).stages.length = 2 →
    (∀ n < 2, (regionCols p).any (fun k => colStage s p.rcb k == some n) = true) → fracLt (stageOcc s p.rcb 0) (3, 4) = false →
    backPressed s p.rcb 0 = false → fracLt (stageOcc s p.rcb 1) (1, 4) = true → spareCores s p 1 ≠ [] → fracLt (stageOcc s p.rcb 0) (1, 4) = false →
    fracLt (stageOcc s p.rcb 1) (3, 4) = true →
    ∃ t, exec .lendingSample s = .next t ∧ (s.now + per, Instr.lendingSample, [pkg]) ∈ t.agenda ∧ t.slots = s.slots ∧
      ∃ c ∈ spareCores s p 1, (getCore t c).grant = (getCore s c).grant.map (fun g => { g with handTo := some 0 }) ∧ Listed t .coreHandover [c] ∧
        ∀ c', c' ≠ c → getCore t c' = getCore s c') ∧
  (∀ core g b, s.args = [core] → (getCore s core).grant = some g → g.handTo = some b →
    ((∀ k < 4, (getSlot s core k).st = .free) →
      ∃ t, exec .coreHandover s = .next t ∧ (getCore t core).grant = some { g with lent := if b = g.stage then none else some b, handTo := none } ∧
        Listed t .bindTileTask [pkgOfCore core] ∧ t.slots = s.slots) ∧
    ((∃ k < 4, (getSlot s core k).st ≠ .free) → exec .coreHandover s = .next s))

/-- R306, R382 to R385 and R440: a seed in sequence written to an open port is journalled, queued and bound 5 cycles later;
to a closed one, out of sequence, or with the journal full, not in place or not writable it is refused, with the reason;
completed seeds are reported in order; a task-completed seed ends by PORTDONE, written by the application cores or by a core
of the port's partition; and the journals' registers. It rests on the model's reading in log entry 65. -/
def Obligations.IntakePorts : Prop := ∀ (s : State) (pkg n : Nat) (v : W64), pkg < 4 → n < 4 →
  let q := bits v 40 24
  let N := journalN s pkg n
  let port := getPort s pkg n
  let nx := jnext s pkg n
  let stat (t : State) : W64 := getReg t (portStatReg pkg n)
  let full := N ≤ (nx + 2 ^ 24 - bits (getReg s (jconsReg pkg n)) 0 24) % 2 ^ 24
  let head := cohPa pkg (ajOff s pkg n)
  (s.args = [pkg, n, v.toNat] →
    let refused (why : Nat) : Prop := ∃ t, exec .portseed s = .next t ∧ stat t = BitVec.ofNat 64 (q * 2 ^ 40 + 3 * 256) ∧
      bits (getReg t (jstatReg pkg n)) 8 8 = why ∧ jnext t pkg n = nx ∧ t.mem = s.mem ∧ t.pkgs = s.pkgs ∧
      bitOf (getReg t (ccWin pkg 0)) 3 = true
    (portState s pkg n < 2 → ∃ t, exec .portseed s = .next t ∧ stat t = BitVec.ofNat 64 (q * 2 ^ 40 + (if portState s pkg n = 0 then 2 else 1) * 256) ∧
      t.mem = s.mem ∧ t.pkgs = s.pkgs) ∧
    (2 ≤ portState s pkg n → journalsIn s pkg n = false → refused 4) ∧
    (2 ≤ portState s pkg n → journalsIn s pkg n = true →
      let a := ajEntry s pkg n q
      let behind := (nx + 2 ^ 24 - q) % 2 ^ 24
      (q = nx → ¬ full → cohWritable s pkg a = true → cohWritable s pkg head = true →
        ∃ t, exec .portseed s = .next t ∧ stat t = BitVec.ofNat 64 (q * 2 ^ 40) ∧ jnext t pkg n = (q + 1) % 2 ^ 24 ∧ rd64 t a = v ∧
          rd64 t (a + 8) = BitVec.ofNat 64 (timeBase s pkg / 4 % 2 ^ 32 * 2 ^ 32 + 2 ^ 16) ∧ rd64 t head = BitVec.ofNat 64 ((q + 1) % 2 ^ 24) ∧
          (∀ x, (x < a ∨ a + 16 ≤ x) → (x < head ∨ head + 8 ≤ x) → memByte t x = memByte s x) ∧
          (getPort t pkg n).seeds = port.seeds ++ [{ seq := q, token := v, state := 1, attempt := 0, ready := s.now + 5, done := none }] ∧
          q ∈ (getPort t pkg n).queue ∧ (s.now + 5, Instr.bindSeedTask, [pkg, n]) ∈ t.agenda ∧ t.slots = s.slots) ∧
      (q = nx → full → refused 3) ∧
      (q = nx → ¬ full → cohWritable s pkg a = false ∨ cohWritable s pkg head = false → refused 4) ∧
      (q ≠ nx → refused (if behind ≤ N then 1 else 2)))) ∧
  (s.args = [pkg, n] → ∀ e su cause w, journalsIn s pkg n = true → port.seeds = [e] → e.seq = nextrep s pkg n → e.done = some (su, cause, w) →
    cjOff s pkg n + 16 * N ≤ ajOff s pkg n ∨ ajOff s pkg n + 64 + 16 * N ≤ cjOff s pkg n →
    ∃ t, exec .seedReport s = .next t ∧ (getPort t pkg n).seeds = [] ∧ nextrep t pkg n = (e.seq + 1) % 2 ^ 24 ∧
      rd64 t (cjEntry s pkg n e.seq) =
        BitVec.ofNat 64 (e.seq * 2 ^ 40 + cause % 256 * 2 ^ 32 + su / 16 % 4 * 2 ^ 30 + su % 16 * 2 ^ 24) ∧
      rd64 t (cjEntry s pkg n e.seq + 8) = w ∧ rd64 t (head + 8) = BitVec.ofNat 64 ((e.seq + 1) % 2 ^ 24) ∧
      bitOf (getReg t (ccWin pkg 0)) 1 = true ∧ t.slots = s.slots) ∧
  (∀ src, s.args = [pkg, n, src, v.toNat] → ∀ e, findSeed s pkg n q = some e → e.done = none → 1 ≤ e.state → e.state ≤ 3 →
    let owns := ∃ r, port.part = some r ∧ (2048 ≤ src ∨ partOf s r = partOfCore s src)
    (portMode s pkg n = true → owns → ∃ t, exec .portdone s = .next t ∧ Listed t .seedReport [pkg, n] ∧
      findSeed t pkg n q = some { e with done := some ((if bits v 32 8 = 0 then 16 else 32), bits v 32 8, 0) } ∧ t.slots = s.slots ∧
      t.mem = s.mem) ∧
    (portMode s pkg n = false ∨ ¬ owns → ∃ t, exec .portdone s = .next t ∧ getPort t pkg n = port ∧ t.slots = s.slots)) ∧
  (s.args = [pkg, n, v.toNat] →
    (let k := bits v 0 24
     let above := (k + 2 ^ 24 - nextrep s pkg n) % 2 ^ 24
     ∃ t, exec .jcons s = .next t ∧ getReg t (jconsReg pkg n) = BitVec.ofNat 64 (if 1 ≤ above ∧ above < 2 ^ 23 then nextrep s pkg n else k) ∧
       (∀ r, r ≠ jconsReg pkg n → getReg t r = getReg s r) ∧ { t with wregs := s.wregs } = s) ∧
    (∃ t, exec .ajbase s = .next t ∧ { t with wregs := s.wregs } = s ∧ (∀ r, r ≠ ajReg pkg n → getReg t r = getReg s r) ∧
      getReg t (ajReg pkg n) = if portState s pkg n = 0 ∧ 0x1000000 ≤ bits v 6 26 * 64 ∧ bits v 32 4 ≤ 6 then
        (getReg s (ajReg pkg n) &&& 0x10000000000) ||| (v &&& 0xFFFFFFFC0) else getReg s (ajReg pkg n)) ∧
    (∃ t, exec .cjbase s = .next t ∧ { t with wregs := s.wregs } = s ∧ (∀ r, r ≠ cjReg pkg n → getReg t r = getReg s r) ∧
      getReg t (cjReg pkg n) = if portState s pkg n = 0 ∧ 0x1000000 ≤ bits v 4 28 * 16 then v &&& 0xFFFFFFF0 else getReg s (cjReg pkg n)))

/-- R301, R302, R304, R306, R308 to R310, R325 and R387: a write of LAUNCH stands in its register and makes LSTAT busy until
its checks end; a refused launch gives its reason, in LSTAT and in its block, and queues nothing; one that passes is queued
with the values of its chain and takes its port, and one that names a block already taken in is answered as queued. The first
candidate in rank order that fits is placed, its cores are granted and its columns configured, or, where it was halted, it is
restored; the evaluation starts again. When the wave has passed, it runs, its port binds seeds and its columns their stage
tasks; a pre-emption held until then begins. It rests on the model's reading in log entries 4, 9, 53 and 73. -/
def Obligations.LaunchAndAdmission : Prop := ∀ (s : State) (pkg : Nat), pkg < 4 →
  let lstat (t : State) : W64 := getReg t (dieWin pkg 0 0x10)
  (∀ v : W64,
    let rcb := bits v 6 40 * 64
    let why := launchReason s pkg rcb
    let word (reason res : Nat) : W64 := BitVec.ofNat 64 (rcb / 64 * 65536 + reason * 256 + res)
    (s.args = [pkg, v.toNat] → ∃ t due, exec .launch s = .next t ∧ lstat t = word 0 0 ∧ getReg t (dieWin pkg 0 8) = v ∧ s.now < due ∧
      (due, Instr.launch, [pkg, v.toNat, 1]) ∈ t.agenda ∧ t.parts = s.parts ∧ t.slots = s.slots ∧ t.mem = s.mem) ∧
    (s.args = [pkg, v.toNat, 1] →
      (why ≠ 0 → ∃ t, exec .launch s = .next t ∧ lstat t = word why 2 ∧ t.parts = s.parts ∧ t.slots = s.slots ∧
        ((∃ q c, placeOf (rcb + 48) = .gddr q c) → readable s (rcb + 48) = true →
          rd64 t (rcb + 48) = setBits (rd64 s (rcb + 48)) 4 4 why &&& 0xFF)) ∧
      (why = 0 → (findPart s rcb).isSome = true → ∃ t, exec .launch s = .next t ∧ lstat t = word 0 1 ∧ t.parts = s.parts ∧
        t.slots = s.slots) ∧
      (∀ l, why = 0 → findPart s rcb = none → rcbChain s 8 rcb = some l → ∃ t p, exec .launch s = .next t ∧ lstat t = word 0 1 ∧
        p = partOfChain pkg s.now l ∧ t.parts = s.parts.filter (fun q => q.rcb != rcb) ++ [p] ∧ p.state = 1 ∧ p.launchPkg = pkg ∧
        (∀ k, (imgOf s p).port = some k → (getPort t pkg (k % 4)).part = some rcb) ∧
        Listed t .admission [pkg] ∧ t.slots = s.slots))) ∧
  (s.args = [pkg] →
    let l := untilBlocked (candidates s pkg)
    (∀ p, l.find? (fits s []) = some p → findPart s p.rcb = some p →
      (∀ o, p.state = 1 → placeFor s [] p = some o → ∃ t q, exec .admission s = .next t ∧ findPart t p.rcb = some q ∧ q.state = 2 ∧
        q.originYX = some (o / 8, o % 8) ∧ q.prio = p.prio ∧ Listed t .configComplete [p.rcb] ∧ Listed t .admission [pkg] ∧
        ∀ c ∈ regionCores q, ∃ g, (getCore t c).grant = some g ∧ g.rcb = p.rcb ∧ g.lent = none ∧ g.handTo = none) ∧
      (p.state = 5 → p.parent = 0 → (∀ c ∈ regionCores p, inSvc s c = true) → ∃ t q, exec .admission s = .next t ∧
        findPart t p.rcb = some q ∧ q.state = 7 ∧ Listed t .restoreComplete [p.rcb] ∧ Listed t .admission [pkg])) ∧
    (l.find? (fits s []) = none → bitOf (getReg s (dieWin pkg 0 0)) 5 = false → exec .admission s = .next s)) ∧
  (∀ p, s.args = [p.rcb] → findPart s p.rcb = some p → p.state = 2 →
    let im := imgOf s p
    let task (c x e : Nat) : Prop := c ∈ regionCols p ∧ x ∈ colCores c ∧ inSvc s x = true ∧ im.stages ≠ [] ∧
      ∃ n, colStage s p.rcb c = some n ∧ (im.stage n).taskAt (posOfCore x) = some e
    (p.pendingPre = none → ∃ t, exec .configComplete s = .next t ∧ findPart t p.rcb = some { p with state := 3, pendingPre := none } ∧
      (∀ k, im.port = some k → Listed t .bindSeedTask [p.launchPkg, k % 4]) ∧ (im.stages = [] → t.slots = s.slots) ∧
      ((∀ c x e, task c x e → slotFree s x 0 = true ∧ ∀ g ∈ (getCore s x).spill, ¬ (g.place = 2 ∧ g.addr = 0)) →
        ∀ c x e pc, task c x e → im.entry e = some pc → (getSlot t x 0).origin = some (.stage c) ∧ (getSlot t x 0).st = .run ∧ (getSlot t x 0).pc = pc)) ∧
    (∀ hold, p.pendingPre = some hold → p.parent = 0 → 512 ≤ p.pantry →
      (∀ c ∈ regionCores p, (getCore s c).frames.any (fun f => f.1 == p.rcb) = true) →
      ∃ t q, exec .configComplete s = .next t ∧ findPart t p.rcb = some q ∧ q.state = 4 ∧ q.hold = hold))

/-- R307, R321, R322, R324 and R325: an action names a partition at the root of its chain; pre-empting a running one, or
ending one, starts its drain, marks going into the corridors that its source stage consumes and a signal to the columns that
consume none; one being configured is pre-empted later, and one without room for its frames is not; when every column has
halted it is HALTED, or HELD, or gone; RESUME lets a held one bid again; and a restored one runs, its slots as they were
before they froze. It rests on the model's reading in log entries 19 and 38. -/
def Obligations.PartitionStates : Prop := ∀ (s : State) (pkg : Nat) (p : Part), findPart s p.rcb = some p →
  let framed := 512 ≤ p.pantry ∧ ∀ c ∈ regionCores p,
    (getCore s c).frames.any (fun f => f.1 == p.rcb) = true ∨ (freeFrame s c).isSome = true
  let state (t : State) : Option Nat := (findPart t p.rcb).map (fun q => q.state)
  let all : List Instr := [.preempt, .preemptAndHold, .resume, .endPartition]
  let signalled (t : State) : Prop :=
    (∀ c ∈ regionCols p, consumerEps s c p.rcb = [] → (getCol s c).drain = none →
      ∃ d, (getCol t c).drain = some d ∧ d.rcb = p.rcb ∧ d.source = true ∧ Listed t .drainEnd [c]) ∧
    ∀ k q, s.corrs.find k = some q → partOf s q.rcb = p.rcb → q.cons = 0 →
      ∃ id f, t.flights.find id = some f ∧ f.kind = .draughtMark ∧ f.corr = k
  (s.args = [pkg, p.rcb] → p.parent ≠ 0 → ∀ i ∈ all, exec i s = .next s) ∧
  (s.args = [pkg, p.rcb] → p.parent = 0 →
    (∀ hold : Bool, let i : Instr := if hold then .preemptAndHold else .preempt
      (p.state = 2 → ∃ t, exec i s = .next t ∧ findPart t p.rcb = some { p with pendingPre := some hold } ∧ t.slots = s.slots) ∧
      (p.state = 3 → framed → ∃ t q, exec i s = .next t ∧ findPart t p.rcb = some q ∧ q.state = 4 ∧ q.hold = hold ∧ t.slots = s.slots ∧
        signalled t) ∧
      (p.state = 3 → ¬ framed → ∃ t, exec i s = .next t ∧ t.parts = s.parts ∧ t.cols = s.cols ∧ t.slots = s.slots) ∧
      (p.state ≠ 2 → p.state ≠ 3 → exec i s = .next s)) ∧
    (p.state = 6 → ∃ t, exec .resume s = .next t ∧ state t = some 5 ∧ Listed t .admission [p.launchPkg] ∧ t.slots = s.slots) ∧
    (p.state ≠ 6 → exec .resume s = .next s) ∧
    (p.state = 3 → ∃ t q, exec .endPartition s = .next t ∧ findPart t p.rcb = some q ∧ q.state = 4 ∧ q.ending = true ∧ signalled t) ∧
    (p.state = 5 ∨ p.state = 6 → ∃ t, exec .endPartition s = .next t ∧ findPart t p.rcb = none) ∧
    (p.state ∉ [3, 5, 6] → exec .endPartition s = .next s)) ∧
  (s.args = [p.rcb] → p.parent = 0 → p.state = 4 →
    (allHalted s p = false → ∃ t, exec .partitionHalted s = .next t ∧ { t with agenda := s.agenda } = s ∧
      (s.now + 1, Instr.partitionHalted, [p.rcb]) ∈ t.agenda) ∧
    (allHalted s p = true → p.ending = true → ∃ t, exec .partitionHalted s = .next t ∧ findPart t p.rcb = none) ∧
    (allHalted s p = true → p.ending = false → ∃ t, exec .partitionHalted s = .next t ∧ state t = some (if p.hold then 6 else 5) ∧
      (∀ c ∈ regionCols p, (getCol t c).drain = none) ∧ (∀ n < 4, Listed t .admission [n]) ∧ t.slots = s.slots)) ∧
  (s.args = [p.rcb] → p.parent = 0 → p.state ≠ 4 → exec .partitionHalted s = .next s) ∧
  (s.args = [p.rcb] → p.parent = 0 → p.state = 7 →
    ∃ t, exec .restoreComplete s = .next t ∧ state t = some 3 ∧ ∀ c ∈ regionCores p, ∀ k < 4,
      let u := getSlot s c k
      partOf s u.part = p.rcb → u.st = .frozen → u.froze ≠ .free → (getSlot t c k).st = u.froze ∧ (getSlot t c k).pc = u.pc ∧
        (getSlot t c k).x = u.x ∧ (getSlot t c k).v = u.v ∧ (getSlot t c k).k = u.k ∧ (getSlot t c k).status = u.status ∧
        s.now < (getSlot t c k).ready)

/-- R334 to R336, R338 and R339: a walk that ends in a leaf caches its translation for the die; one that fails is kept as
failed for the requesters that still wait for it, and one that meets an uncorrectable entry is logged in XFAULT;
invalidations drop the translations and the walks in their scope and hold BUSY until they end; a write of a range entry's
dword stores its writable bits and invalidates what the entry covers, as it was and as it is. It rests on the model's reading
in log entries 4 and 37. -/
def Obligations.TranslationUnit : Prop := ∀ (s : State) (pkg : Nat), pkg < 4 →
  let P := getPkg s pkg
  let inv := bits (getReg s (dieWin pkg 1 0x900)) 6 40 * 64
  let dropped (i : Instr) (hit : Nat → Nat → Nat → Bool) : Prop := ∃ t due, exec i s = .next t ∧ (getPkg t pkg).invals = P.invals + 1 ∧
    (getPkg t pkg).tlb = P.tlb.filter (fun e => !hit e.part e.vbase e.len) ∧ (∀ x ∈ (getPkg t pkg).walks, hit x.part x.va 4096 = false) ∧
    s.now < due ∧ (due, Instr.invalidationComplete, [pkg]) ∈ t.agenda ∧ t.slots = s.slots ∧ t.mem = s.mem
  (∀ w rest root, s.args = [pkg, w.id] → P.walks = w :: rest → (∀ x ∈ rest, x.id ≠ w.id) → w.running = true →
    ptRoot s pkg w.part = some root →
    let fails (P : State → Prop) : Prop := ∃ t, exec .pageWalkComplete s = .next t ∧ (getPkg t pkg).tlb = (getPkg s pkg).tlb ∧
      (w.served = [] → ∀ x ∈ (getPkg t pkg).walks, x.id ≠ w.id) ∧
      (w.served ≠ [] → { w with running := false, failed := true } ∈ (getPkg t pkg).walks) ∧ t.slots = s.slots ∧ t.mem = s.mem ∧ P t
    (∀ base size perms, walkFrom s w.va 4 3 root = .leaf base size perms → ∃ t, exec .pageWalkComplete s = .next t ∧
      (∀ x ∈ (getPkg t pkg).walks, x.id ≠ w.id) ∧ t.slots = s.slots ∧ t.mem = s.mem ∧
      ({ core := 2048, part := w.part, vbase := w.va / size * size, pbase := base, len := size, perms := perms } : Tlb) ∈ (getPkg t pkg).tlb) ∧
    (walkFrom s w.va 4 3 root = .bad → fails (fun _ => True)) ∧
    (∀ level, walkFrom s w.va 4 3 root = .uncorrectable level → fails (fun t =>
      getReg t (dieWin pkg 1 0x918) = BitVec.ofNat 64 (2 ^ 63 + w.va / 4096 * 4096 % 2 ^ 52 + level % 4)))) ∧
  (∀ va, s.args = [pkg, va] → dropped .invalidatePage (fun q b n => q == inv && decide (b ≤ va / 4096 * 4096) && decide (va / 4096 * 4096 < b + n))) ∧
  (s.args = [pkg] → dropped .invalidatePartition (fun q _ _ => q == inv) ∧ dropped .invalidateAll (fun _ _ _ => true) ∧
    ∃ t, exec .invalidationComplete s = .next t ∧ (getPkg t pkg).invals = P.invals - 1 ∧ (getPkg t pkg).tlb = P.tlb ∧ t.slots = s.slots ∧
      t.wregs = s.wregs) ∧
  (∀ i (v : W64), s.args = [pkg, i, v.toNat] → i < 256 →
    let mask : W64 := [0xFFFFFFFFFF000, 0x3FFFFFFFF000, 0xFFFFFFFFFF, 0x3FFFFFFFFFFE].getD (i % 4) 0
    ∃ t, exec .rangeWrite s = .next t ∧ getReg t (dieWin pkg 1 (8 * i)) = v &&& mask ∧ (∀ r, r ≠ dieWin pkg 1 (8 * i) → getReg t r = getReg s r) ∧
      (getPkg t pkg).invals = P.invals + 1 ∧ t.slots = s.slots ∧ t.mem = s.mem ∧
      ∀ u, u = s ∨ u = t →
        let reg (k : Nat) := getReg u (dieWin pkg 1 (32 * (i / 4) + 8 * k))
        let base := bits (reg 0) 12 40 * 4096
        bitOf (reg 3) 5 = true → ∀ e ∈ (getPkg t pkg).tlb, ¬ (e.part = bits (reg 3) 6 40 * 64 ∧ e.vbase < base + 4096 * (bits (reg 2) 0 40 + 1) ∧
          base < e.vbase + e.len))

/-- R328, R341, R411 and R441: a descriptor in a package's GDDR-7 without an error, written to DWQ, DWQP or DWQR, joins the
queue as it stands there; a write with no region, of a misaligned address or of one without translation is dropped; with the
queue full, or behind a held write, a write is held. It rests on the model's reading in log entry 54. R332 and R340 to R346:
the descriptor of a queue that holds one starts on the first free channel in service, for at least half a cycle a line, or
with the code of the check that it fails, or of its partition's end; two lines of it land a cycle; when it completes, its
blob in GDDR-7, its lines stand in the Attic, decrypted where it is encrypted and its tag matches, and poisoned where a
source word is uncorrectable, the tag does not match or no channel remains; STATUS is written, the counter rises and the
descriptor goes. A channel that faults hands its descriptor to another, from its first line, or ends it; and a burst that
fails for good makes its granule uncorrectable. It rests on the model's reading in log entries 4, 6, 48 and 63. -/
def Obligations.Dumbwaiter : Prop :=
  (∀ (s : State) (pkg src lv : Nat) (v : W64), pkg < 4 →
    let P := getPkg s pkg
    let va := bits v 6 46 * 64
    let joins (i : Instr) (part : Nat) (sys record : Bool) (pa : Nat) : Prop := ∃ t e, exec i s = .next t ∧ (getPkg t pkg).dwq = P.dwq ++ [e] ∧
      e.part = part ∧ e.sys = sys ∧ e.pa = pa ∧ e.d = (List.range 8).map (fun k => rd64 s (pa + 8 * k)) ∧ e.record = record ∧ e.kv = false ∧
      e.running = none ∧ e.code = 0 ∧ e.pages = [] ∧ e.key = none ∧ Listed t .dumbwaiterStart [pkg] ∧ t.slots = s.slots ∧ t.mem = s.mem
    let held (i : Instr) (w : List Nat) : Prop := ∃ t, exec i s = .next t ∧ (getPkg t pkg).dwq = P.dwq ∧
      (getPkg t pkg).heldWrites = P.heldWrites ++ [w] ∧ t.slots = s.slots ∧ t.mem = s.mem
    let clean (pa : Nat) : Prop := pa % 64 = 0 ∧ (∃ q c, placeOf pa = .gddr q c) ∧ ∀ k < 8, readable s (pa + 8 * k) = true
    (s.args = [pkg, src, v.toNat, lv] →
      (unitHeld s pkg 2 = true → held .dwq [2, 0, src, v.toNat, lv]) ∧
      (unitHeld s pkg 2 = false →
        (2048 ≤ src ∨ regionOf s src = 0 ∨ v.toNat % 64 ≠ 0 ∨ xlateUnit s pkg (partOfCore s src) va 0 true = none ∨
            xlateUnit s pkg (partOfCore s src) va 1 true = none → ∃ t, exec .dwq s = .next t ∧ t.pkgs = s.pkgs ∧ t.slots = s.slots) ∧
        (∀ pa, src < 2048 → regionOf s src ≠ 0 → v.toNat % 64 = 0 → clean pa →
          (∀ need, need < 2 → xlateUnit s pkg (partOfCore s src) va need true = some pa) →
          (dwQueued s pkg < 64 → joins .dwq (partOfCore s src) (lv == 1) false pa) ∧
          (64 ≤ dwQueued s pkg → held .dwq [2, 0, src, v.toNat, lv])))) ∧
    (s.args = [pkg, v.toNat] →
      (unitHeld s pkg 2 = true → held .dwqp [2, 1, 2048, v.toNat, 1] ∧ held .dwqr [2, 2, 2048, v.toNat, 1]) ∧
      (unitHeld s pkg 2 = false → clean (bits v 6 40 * 64) →
        (dwQueued s pkg < 64 →
          let part := partOf s (bits (getReg s (dieWin pkg 2 8)) 6 40 * 64)
          joins .dwqp part true false (bits v 6 40 * 64) ∧ joins .dwqr part true true (bits v 6 40 * 64)) ∧
        (64 ≤ dwQueued s pkg → held .dwqp [2, 1, 2048, v.toNat, 1] ∧ held .dwqr [2, 2, 2048, v.toNat, 1])))) ∧
  (∀ (s : State) (pkg : Nat) (e : DwEnt), pkg < 4 →
    let P := getPkg s pkg
    let fresh (y : DwEnt) : DwEnt := { y with cut := false, landed := 0, buf := [], bad := false }
    let timed (t : State) : Prop := ∃ due, s.now + (e.lines + 1) / 2 ≤ due ∧ (due, Instr.dumbwaiterComplete, [pkg, e.op]) ∈ t.agenda
    let dst (k : Nat) : Nat := slicePa (coreAt e.col ((e.dst + k) / 0x1800000)) ((e.dst + k) % 0x1800000)
    let inGddr := ∀ i < 128 * e.lines + 48, ∃ q c, placeOf (e.blobPa i) = .gddr q c
    let placed := e.dst % 128 = 0 ∧ e.col < 128 ∧ e.dst + 128 * e.lines ≤ 0x18000000
    (s.args = [pkg] → P.dwq = [e] → e.running = none → e.code = 0 →
      ((findPart s e.part).isSome = true ∨ e.again = true → switchHeld s e = true → ∃ t, exec .dumbwaiterStart s = .next t ∧ (getPkg t pkg).dwq = [e]) ∧
      (findPart s e.part = none → e.again = false → ∃ t, exec .dumbwaiterStart s = .next t ∧ (getPkg t pkg).dwq = [{ e with code := 9 }] ∧
        Listed t .dumbwaiterComplete [pkg, e.op] ∧ t.slots = s.slots ∧ t.mem = s.mem) ∧
      (∀ ch, (findPart s e.part).isSome = true ∨ e.again = true → switchHeld s e = false → (freeChans s pkg).head? = some ch →
        (∀ pages, checkDw s pkg e = .ok pages → ∃ t, exec .dumbwaiterStart s = .next t ∧ t.slots = s.slots ∧ t.mem = s.mem ∧ timed t ∧
          (getPkg t pkg).dwq = [fresh { e with
            running := some ch, pages := pages, key := if e.gcm then some (keySlot s pkg e.slotNo).key else none }]) ∧
        (∀ code, checkDw s pkg e = .error code → ∃ t, exec .dumbwaiterStart s = .next t ∧ t.slots = s.slots ∧ t.mem = s.mem ∧
          (getPkg t pkg).dwq = [fresh { e with running := some ch, code := code }] ∧ Listed t .dumbwaiterComplete [pkg, e.op]))) ∧
    (s.args = [pkg, e.op, 1] → P.dwq = [e] → e.running.isSome = true → e.code = 0 → e.key = none → e.bad = false → e.landed + 2 ≤ e.lines →
      e.buf.length = 128 * e.landed → inGddr → placed → bitOf (e.w 3) 47 = false →
      (∀ i < 256, blobErr s e (128 * e.landed + i) = false) → ∃ t y, exec .dumbwaiterComplete s = .next t ∧ (getPkg t pkg).dwq = [y] ∧
        y.landed = e.landed + 2 ∧ y.bad = false ∧ y.buf.length = 128 * y.landed ∧ t.slots = s.slots ∧
        (∀ k, 128 * e.landed ≤ k → k < 128 * e.landed + 256 → memByte t (dst k) = blobByte s e k) ∧
        (y.landed < e.lines → (s.now + 1, Instr.dumbwaiterComplete, [pkg, e.op, 1]) ∈ t.agenda)) ∧
    (s.args = [pkg, e.op] → P.dwq = [e] → e.running.isSome = true ∨ e.code ≠ 0 → e.kv = false → bitOf (e.w 3) 47 = false → e.record = false →
      e.swen = false → e.pa % 64 = 0 → (∃ q c, placeOf e.pa = .gddr q c) → wordErr s (e.pa + 56) ≠ .ecc →
      let ends (code : Nat) (P : State → Prop) : Prop := ∃ t, exec .dumbwaiterComplete s = .next t ∧ (getPkg t pkg).dwq = [] ∧
        rd64 t (e.pa + 56) = BitVec.ofNat 64 (2 ^ 63 + code * 2 ^ 48) ∧
        RaisedOne s t (bits (e.w 3) 29 11) (bits (e.w 3) 25 4) (bitOf (e.w 3) 40) ∧ t.slots = s.slots ∧ P t ∧
        (code ≠ 0 → getReg t (dieWin pkg 2 0x20) = BitVec.ofNat 64 (2 ^ 63 + code * 2 ^ 48 + e.pa / 64 % 2 ^ 40 * 64))
      let poisoned (t : State) : Prop := ∀ k < 128 * e.lines, t.syn.find (dst k / 8) = some 0xFF
      (e.code = 0 → e.bad = false → e.key = none → e.gcm = false → placed → inGddr → e.landed ≤ e.lines → e.buf.length = 128 * e.landed →
        (blobBad s e = false → ends 0 (fun t => ∀ k < 128 * e.lines, 128 * e.landed ≤ k → memByte t (dst k) = blobByte s e k)) ∧
        ((∃ k < 128 * e.lines, 128 * e.landed ≤ k ∧ blobErr s e k = true) → ends 4 poisoned)) ∧
      (∀ key, e.code = 0 → e.bad = false → e.key = some key → placed → inGddr → e.landed = 0 → e.buf = [] →
        (∀ i < 128 * e.lines + 48, blobErr s e i = false) →
        let raw (o n : Nat) : List Byte := (List.range n).map (fun i => blobByte s e (o + i))
        let k := leBytes 32 key.toNat
        let ok := gcmOk k (raw 0 12) (raw 0 32) (raw 32 (128 * e.lines)) (raw (32 + 128 * e.lines) 16)
        (ok = true → ends 0 (fun t => ∀ j < e.lines, ∀ i < 128, memByte t (dst (128 * j + i)) =
          (ctrMode (keySchedule k) (raw 0 12) (2 + 8 * j) (pieces 16 8 (raw (32 + 128 * j) 128))).getD i 0)) ∧
        (ok = false → ends 5 poisoned)) ∧
      (e.code = 8 → placed → ends 8 poisoned) ∧
      (e.code ≠ 0 → e.code ≠ 8 → ends e.code (fun t => ∀ x, x < e.pa + 56 ∨ e.pa + 64 ≤ x → memByte t x = memByte s x))) ∧
    (∀ ch < 4, s.args = [pkg, ch] → P.dwq = [e] → e.running = some ch → e.code = 0 →
      ((∃ c < 4, c ≠ ch ∧ P.dwChans.getLsbD c = true) → ∃ t y, exec .dumbwaiterChannelFault s = .next t ∧
        (getPkg t pkg).dwChans = P.dwChans &&& ~~~(BitVec.ofNat 4 (2 ^ ch)) ∧ (getPkg t pkg).dwq = [y] ∧
        (∃ c, y.running = some c ∧ c < 4 ∧ c ≠ ch) ∧ y = fresh { e with running := y.running } ∧ timed t ∧ t.slots = s.slots) ∧
      ((∀ c < 4, c ≠ ch → P.dwChans.getLsbD c = false) → ∃ t, exec .dumbwaiterChannelFault s = .next t ∧ (getPkg t pkg).dwChans = 0 ∧
        (getPkg t pkg).dwq = [{ e with running := none, cut := true, code := 8 }] ∧ Listed t .dumbwaiterComplete [pkg, e.op] ∧ t.slots = s.slots)) ∧
    (∀ pa ch, s.args = [pa, 1] → placeOf pa = .gddr pkg ch →
      (pa / 32 ∈ P.poison → exec .gddrBurstError s = .next s) ∧
      (pa / 32 ∉ P.poison → poisonFull s pkg pa = false → ∃ t, exec .gddrBurstError s = .next t ∧ (getPkg t pkg).poison = pa / 32 :: P.poison ∧
        t.mem = s.mem ∧ t.slots = s.slots) ∧
      (pa / 32 ∉ P.poison → poisonFull s pkg pa = true → ∃ t f c, exec .gddrBurstError s = .next t ∧ Listed t .warmStart [pkg, f, c])) ∧
    (∀ pa ch, s.args = [pa, 0] → placeOf pa = .gddr pkg ch → exec .gddrBurstError s = .next s))

/-- R356 to R359, R362 and R368: a projection, its second lap and a merge are forked into the Sinter's queue of four, a
projection into the matrix queue as well, with what they capture at issue; they stall while a queue is full; a misaligned or
forbidden descriptor address traps ALIGN or PROT, and a KEEP that does not follow on traps PROT. A second lap reads nothing
at its address. It rests on the model's reading in log entry 32. -/
def Obligations.SinterIssue : Prop := ∀ (s : State) (w : BitVec 3) (a b : BitVec 5) (m : BitVec 4) (c k q : BitVec 1),
  let p := xr s a
  let T := (myCore s).sint
  let Q := (myCore s).sq
  let t0 := me s
  let desc := recordAt s p 4
  let pr := projOf desc
  let open_ := heldByFreeze s s.curCore s.curSlot = false
  let new (o : SOp) (merge lap2 keep rq : Bool) (arg : W64) : Prop := o.op = s.nextId ∧ o.slot = s.curSlot ∧ o.inc = t0.incarn ∧
    o.lvl = lvlOf t0 ∧ o.merge = merge ∧ o.lap2 = lap2 ∧ o.keep = keep ∧ o.rq = rq ∧ o.arg = arg ∧
    o.cc = (if c = 1 then some m.toNat else none) ∧ o.failed = none ∧ o.answer = none ∧ o.abandoned = false ∧ o.flags = 0 ∧ o.grads = []
  let forks (i : Instr) (o : SOp) (u : Sinter) : Prop := o.begun = false ∧ o.addr = p ∧ ∃ y : MOp, y.kind = .vproj ∧ y.op = s.nextId ∧
    y.slot = s.curSlot ∧ y.raise = false ∧
    Engages i s w id (fun co => { co with sq := co.sq ++ [o], mq := co.mq ++ [y], sint := u })
      (if Q = [] ∧ open_ then [(s.now, .matrixOpBegin, [s.curCore, s.nextId])] else [])
  let inside := p.toNat + 32 ≤ 0x40000 ∧ (lvlOf t0 = true ∨ sysOnlyRange s s.curCore p.toNat 32 = false)
  let room := Q.length < 4 ∧ queueFull s = false
  let follows := k = 0 ∨ T.last = some (pr.shard, pr.tok0)
  let last := some (pr.shard, pr.tok0 + pr.n)
  let hw := fmtBits pr.hfmt / 8
  (∀ x ∈ Q.head?, x.merge = true → x.begun = true ∨ heldByFreeze s s.curCore x.slot = true) →
  (RecordOk s p 32 → room → follows → q = 0 →
    ∃ o, new o false false (k == 1) false 0 ∧ o.desc = desc ∧ o.rep = none ∧ forks (.vproj w a m c k q) o { T with last := last }) ∧
  (RecordOk s p 32 → room → follows → q = 1 → pr.hfmt ∈ [6, 7, 0x0B, 0x0C] → pr.haddr % hw = 0 → pr.haddr + hw * pr.h ≤ 0x40000 →
    (∀ g < 64, touch s s.curCore (partOf s t0.part) g ≠ .restore) →
    (∀ j, pr.haddr ≤ j → j < pr.haddr + hw * pr.h → s.localBad.find (localPa s.curCore (j / 8 * 8) / 8) = none) →
    ∃ o hid, new o false false (k == 1) true 0 ∧ o.desc = desc ∧ o.rep = some (desc, hid, T.labels.toList) ∧ hid.length = pr.h ∧
      (∀ i < pr.h, hid[i]? = some (decodeNum pr.hfmt (localBytesAt s (BitVec.ofNat 64 (pr.haddr + hw * i)) hw))) ∧
      forks (.vproj w a m c k q) o { T with last := last, replay := o.rep }) ∧
  (RecordOk s p 32 → room → follows → q = 1 → 8 * pr.haddr % fmtBits pr.hfmt ≠ 0 ∨ 0x200000 < 8 * pr.haddr + fmtBits pr.hfmt * pr.h →
    ∃ o hid, new o false false (k == 1) true 0 ∧ o.desc = desc ∧ o.rep = some (desc, hid, T.labels.toList) ∧
      forks (.vproj w a m c k q) o { T with last := last, replay := o.rep }) ∧
  (p.toNat % 32 = 0 → inside → room →
    ∃ o, new o false true false false (xr s b) ∧ o.rep = T.replay ∧ forks (.vprojLap2 w a b m c) o T) ∧
  (Q.length < 4 → ∃ t o, exec (.hmerge w a m c) s = .next t ∧ Onward s t w ∧ new o true false false false p ∧ (myCore t).sq = Q ++ [o] ∧
    (myCore t).mq = (myCore s).mq ∧ (myCore t).sint = T ∧ t.mem = s.mem ∧ t.wregs = s.wregs ∧ (∀ n, bare (slotAt t n) = bare (slotAt s n)) ∧
    o.begun = decide (Q = [] ∧ open_) ∧
    (Q = [] → open_ → pkgOfCore (bits p 0 11) = pkgOfCore s.curCore →
      ∃ due, s.now + 20 ≤ due ∧ (due, Instr.hmergeSourceAnswer, [s.curCore, bits p 0 11, s.nextId, 0]) ∈ t.agenda)) ∧
  (4 ≤ Q.length → Stalls (.hmerge w a m c) s) ∧
  (¬ room → (RecordOk s p 32 → Stalls (.vproj w a m c k q) s) ∧
    (p.toNat % 32 = 0 → inside → Stalls (.vprojLap2 w a b m c) s)) ∧
  (canTrap s → p.toNat % 32 ≠ 0 → (NoShort s → Traps (.vproj w a m c k q) s 0x03 0 p t0.pc) ∧
    Traps (.vprojLap2 w a b m c) s 0x03 0 p t0.pc) ∧
  (canTrap s → p.toNat % 32 = 0 → ¬ inside → (NoShort s → Traps (.vproj w a m c k q) s 0x05 0 p t0.pc) ∧
    Traps (.vprojLap2 w a b m c) s 0x05 0 p t0.pc) ∧
  (canTrap s → RecordOk s p 32 → room → ¬ follows → Traps (.vproj w a m c k q) s 0x05 0 p t0.pc)

/-- R358, R361, R365, R367, R370 and R371: reading, summarising, labelling and drawing join the Sinter first: they stall
while it works, and deliver the slot's oldest recorded Sinter fault, one at a time; each then gives what the state holds, and
names what it traps for. `sdraw` checks its address before the join, `snorm` after it; the other selectors of `hread` trap
before it. -/
def Obligations.SinterReading : Prop := ∀ (s : State) (w : BitVec 3) (a b d : BitVec 5),
  let p := xr s a
  let T := (myCore s).sint
  let t0 := me s
  let ready := (myCore s).sq = [] ∧ ∀ r ∈ t0.records, r.unit ≠ 5
  let word (hi : W32) (lo : Nat) : W64 := BitVec.ofNat 64 (hi.toNat * 2 ^ 32 + lo)
  let rec4 := recordAt s p 4
  let d3 := rec4.getD 3 0
  let mode := bits d3 0 2
  let inside (n : Nat) := p.toNat + n ≤ 0x40000 ∧ (lvlOf t0 = true ∨ sysOnlyRange s s.curCore p.toNat n = false)
  let named := p.toNat < 75 ∨ 128 ≤ p.toNat ∧ p.toNat < 192
  let bias := (xr s b).setWidth 32
  let bad := bits p 50 14 ≠ 0 ∨ fNan bias = true ∨ bias = 0x7F800000
  let drawOk := RecordOk s p 32 ∧ p.toNat + 32 ≤ 0x3FE00 ∧ ready
  let draws (v : W64) : Prop := ∃ t, exec (.sdraw w a d) s = .next t ∧ Onward s t w ∧
    { t with slots := s.slots, issued := s.issued, mem := s.mem, localBad := s.localBad } = s ∧
    (∀ n, bare (slotAt t n) = bare (if n < s.now + 2 then slotAt s n else putX (slotAt s n) d.toNat v)) ∧
    ∀ x, memByte t x = let q := localPa s.curCore (p.toNat + 8)
      if q ≤ x ∧ x < q + 8 then (rec4.getD 1 0 + 1).extractLsb' (8 * (x - q)) 8 else memByte s x
  let settled := drawOk ∧ recordIllegal T d3 = false ∧ T.valid = true ∧ T.broken = false
  (ready →
    (∀ x v, p.toNat < 64 → T.heap[p.toNat]? = some (x, v) → GivesX (.hread w a d) s w d 2 (word x (2 ^ 31 + v))) ∧
    (p.toNat < 64 → T.heap.length ≤ p.toNat → GivesX (.hread w a d) s w d 2 0) ∧
    (∀ j l, j < 8 → p.toNat = 64 + j → l = T.labels.toList.getD j ⟨false, 0, 0, 0, false⟩ →
      GivesX (.hread w a d) s w d 2 (word l.logit ((if l.v then 2 ^ 31 else 0) + (if l.lv then 2 ^ 30 else 0) + l.tok))) ∧
    (p = 72 → GivesX (.hread w a d) s w d 2 (word T.m T.s.toNat)) ∧
    (p = 73 → GivesX (.hread w a d) s w d 2 (sinterStatus T)) ∧
    (p = 74 → GivesX (.hread w a d) s w d 2 (BitVec.ofNat 64 ((if T.drawnV then 2 ^ 63 else 0) + T.drawn))) ∧
    (∀ x y, 128 ≤ p.toNat → p.toNat < 192 → T.shards[p.toNat - 128]? = some (x, y) → GivesX (.hread w a d) s w d 2 (word x y.toNat)) ∧
    (128 ≤ p.toNat → p.toNat < 192 → T.shards.length ≤ p.toNat - 128 → GivesX (.hread w a d) s w d 2 0)) ∧
  (canTrap s → ¬ named → Traps (.hread w a d) s 0x0F 0 p t0.pc) ∧
  (ready → p.toNat + 64 ≤ 0x3FE00 → LocalOk s p 64 64 false false → inside 64 →
    let id (i : Nat) : Nat := match T.heap[i]? with | some (_, v) => v | none => 0x3FFFF
    (∀ y ∈ T.heap, y.2 < 2 ^ 18) →
    ∃ after, Stores (.snorm w a) s w after ∧ (∀ x, x < localPa s.curCore p.toNat ∨ localPa s.curCore p.toNat + 64 ≤ x → after x = memByte s x) ∧
      ∃ ds : List W64, ds.length = 8 ∧ (∀ j < 64, after (localPa s.curCore p.toNat + j) = (ds.getD (j / 8) 0).extractLsb' (8 * (j % 8)) 8) ∧
        ds.take 3 = [word T.m T.s.toNat, word (fAdd T.m (fLog2 T.s)) (heapTotal T).toNat, sinterStatus T] ∧ ds.drop 6 = [0, 0] ∧
        (∀ i < 8, ((ds.getD 3 0).toNat + 2 ^ 64 * (ds.getD 4 0).toNat + 2 ^ 128 * (ds.getD 5 0).toNat) / 2 ^ (18 * i) % 2 ^ 18 = id i) ∧
        (ds.getD 5 0).toNat / 2 ^ 16 = 0) ∧
  (canTrap s → ready → p.toNat % 64 ≠ 0 → Traps (.snorm w a) s 0x03 0 p t0.pc) ∧
  (canTrap s → ready → p.toNat % 64 = 0 → ¬ inside 64 → Traps (.snorm w a) s 0x05 0 p t0.pc) ∧
  (ready → ¬ bad →
    let old := vget ⟨false, 0, 0, 0, false⟩ T.labels (bits p 0 3)
    let l : Label := if bitOf p 8 then { lv := true, tok := bits p 32 18, bias := bias, logit := old.logit, v := false }
      else ⟨false, 0, 0, 0, false⟩
    Engages (.slabel w a b) s w (fun u => u) (fun co => { co with sint := { T with labels := vset T.labels (bits p 0 3) l } }) []) ∧
  (canTrap s → ready → bad → Traps (.slabel w a b) s 0x05 0 p t0.pc) ∧
  (settled →
    (T.heap = [] → GivesX (.sdraw w a d) s w d 2 (BitVec.ofNat 64 (2 ^ 28 + 0x3FFFF))) ∧
    (∀ x r, T.heap = x :: r →
      (bitOf d3 3 = false →
        let all := T.heap.length
        let lacks := mode = 3 ∧ T.complete = false ∨ mode = 2 ∧ T.complete = false ∧
          ∀ n, n < all → fGe ((heapMass T).getD (n + 1) 0) (fMul (BitVec.ofNat 32 (bits d3 32 32)) T.s) = false
        (mode = 0 → GivesX (.sdraw w a d) s w d 2 (BitVec.ofNat 64 x.2)) ∧
        (mode = 1 → draws (BitVec.ofNat 64 (heapDraw T (uniform rec4) (min (bits d3 24 7) all)))) ∧
        (∀ n, mode = 2 → n < all → (∀ j ≤ n, fGe ((heapMass T).getD (j + 1) 0) (fMul (BitVec.ofNat 32 (bits d3 32 32)) T.s) = decide (j = n)) →
          draws (BitVec.ofNat 64 (heapDraw T (uniform rec4) (n + 1)))) ∧
        (mode = 2 → T.complete = true →
          (∀ n, n < all → fGe ((heapMass T).getD (n + 1) 0) (fMul (BitVec.ofNat 32 (bits d3 32 32)) T.s) = false) →
          draws (BitVec.ofNat 64 (heapDraw T (uniform rec4) all))) ∧
        (mode = 3 → T.complete = true → draws (BitVec.ofNat 64 (heapDraw T (uniform rec4) all))) ∧
        (lacks → bitOf d3 2 = true → draws (lap2Request T (uniform rec4) (mode == 2))) ∧
        (canTrap s → lacks → bitOf d3 2 = false → Traps (.sdraw w a d) s 0x0A 0 (spillVal 1 T (heapTotal T)) t0.pc)) ∧
      (bitOf d3 3 = true →
        let l := vget ⟨false, 0, 0, 0, false⟩ T.labels (bits d3 18 3)
        let accept := fGt (fDiv (fExp2 (fSub l.logit T.m)) T.s) (fMul (uniform rec4) (BitVec.ofNat 32 (bits d3 32 32)))
        draws (BitVec.ofNat 64 ((if accept then 0 else 2 ^ 27) + l.tok))))) ∧
  (canTrap s → NoShort s → (p.toNat % 32 ≠ 0 → Traps (.sdraw w a d) s 0x03 0 p t0.pc) ∧
    (p.toNat % 32 = 0 → ¬ inside 32 → Traps (.sdraw w a d) s 0x05 0 p t0.pc)) ∧
  (canTrap s → drawOk → recordIllegal T d3 = true → Traps (.sdraw w a d) s 0x05 0 p t0.pc) ∧
  (canTrap s → drawOk → recordIllegal T d3 = false → T.valid = false ∨ T.broken = true →
    Traps (.sdraw w a d) s 0x0A 0 (spillVal 4 T 0) t0.pc) ∧
  ((myCore s).sq ≠ [] → Stalls (.slabel w a b) s ∧ Stalls (.snorm w a) s ∧ (named → Stalls (.hread w a d) s) ∧
    (p.toNat % 32 = 0 → inside 32 → Stalls (.sdraw w a d) s)) ∧
  (∀ older r younger, canTrap s → (myCore s).sq = [] → t0.records = older ++ r :: younger → r.unit = 5 → (∀ x ∈ older, x.unit ≠ 5) →
    let delivers (i : Instr) : Prop := ∃ t, exec i s = .next t ∧
      TrapEntry (modMe s (fun u => { u with records := older ++ younger })) t r.cause r.unit r.value t0.pc
    delivers (.slabel w a b) ∧ delivers (.snorm w a) ∧ (named → delivers (.hread w a d)) ∧
    (NoShort s → p.toNat % 32 = 0 → inside 32 → delivers (.sdraw w a d)))

/-- R359, R362, R363, R368 and R369: a merge's source answers with its state once the operations it held when the request
came have completed; the merge joins the spans, or faults and leaves the state BROKEN; a projection begins, and its state
takes its place when it completes; a descriptor that fails a check, and a second lap without its replay entry, completes 24
cycles later with its fault; gradients are written 32 at a time. It rests on the model's reading in log entries 4 and 63. -/
def Obligations.SinterOperations : Prop := ∀ (s : State) (core src op : Nat) (o : SOp), core < 2048 → src < 2048 →
  (getCore s core).sq = [o] → o.op = op →
  let A := (getCore s core).sint
  let live := sameTask s core o.slot o.inc = true ∧ o.abandoned = false
  let free := (getSlot s core o.slot).records.length < 16
  let record (c : Nat) (v : W64) : Rec :=
    { obj := match o.cc with | some n => .cc n | none => .sinter, order := op, cause := c, unit := 5, value := v, alt := none }
  let raised (t : State) : Prop := match o.cc with | some n => RaisedOne s t core n true | none => (getCore t core).cc = (getCore s core).cc
  let after (B : Option Sinter) : Sinter := match B with | some B => { B with replay := A.replay, last := A.last } | none => A
  (∀ m, s.args = [core, src, op, m] →
    let mark := if m = 0 then s.nextId else m
    let waits := src ≠ core ∧ ∃ x ∈ (getCore s src).sq, x.op < mark ∧ x.op ≠ op
    let barred := partOfCore s src ≠ partOfCore s core ∨ inSvc s src = false
    let back (t : State) : Prop := t.slots = s.slots ∧ t.mem = s.mem ∧ (pkgOfCore src = pkgOfCore core →
      ∃ due, s.now + 20 ≤ due ∧ (due, Instr.hmergeApply, [core, op]) ∈ t.agenda)
    (¬ waits → ¬ barred → ∃ t, exec .hmergeSourceAnswer s = .next t ∧ back t ∧
      (getCore t core).sq = [{ o with answer := some (getCore s src).sint }]) ∧
    (¬ waits → barred → ∃ t, exec .hmergeSourceAnswer s = .next t ∧ back t ∧ (getCore t core).sq = [{ o with failed := some (0x05, o.arg) }]) ∧
    (waits → ∃ t, exec .hmergeSourceAnswer s = .next t ∧ { t with agenda := s.agenda } = s ∧
      (s.now + 1, Instr.hmergeSourceAnswer, [core, src, op, mark]) ∈ t.agenda)) ∧
  (s.args = [core, op] → (∀ m ∈ (getCore s core).mq, m.op ≠ op) → o.abandoned = false →
    let broke (t : State) (c : Nat) (v : W64) : Prop := (getCore t core).sq = [] ∧ (getCore t core).sint = { A with broken := true } ∧
      raised t ∧ t.mem = s.mem ∧ record c v ∈ (getSlot t core o.slot).records
    (∀ B, o.failed = none → o.answer = some B →
      (mergeOk A B = true → ∃ t, exec .hmergeApply s = .next t ∧ (getCore t core).sq = [] ∧ raised t ∧ t.mem = s.mem ∧
        let C := (getCore t core).sint
        C.heap.length = min 64 (A.heap.length + B.heap.length) ∧ (∀ x ∈ C.heap, x ∈ A.heap ∨ x ∈ B.heap) ∧
        C.spanA = A.spanA ∧ C.spanC = A.spanC + B.spanC ∧ C.shards = A.shards ++ B.shards ∧ C.rpl = false ∧ C.valid = true ∧
        C.m = (if fGt B.m A.m then B.m else A.m) ∧ C.nanseen = (A.nanseen || B.nanseen) ∧ C.broken = (A.broken || B.broken) ∧
        C.complete = (A.complete && B.complete && decide (A.heap.length + B.heap.length ≤ 64)) ∧ C.replay = A.replay) ∧
      (mergeOk A B = false → live → free → ∃ t, exec .hmergeApply s = .next t ∧
        broke t 0x05 (BitVec.ofNat 64 (2 ^ 63 + B.spanA * 256 + A.spanA)))) ∧
    (∀ c v, o.failed = some (c, v) → live → free → ∃ t, exec .hmergeApply s = .next t ∧ broke t c v) ∧
    (∀ c v, o.failed = some (c, v) → live → ¬ free → ∃ t, exec .hmergeApply s = .next t ∧ { t with agenda := s.agenda } = s ∧
      (s.now + 1, Instr.hmergeApply, [core, op]) ∈ t.agenda)) ∧
  (s.args = [core, op] → o.abandoned = false → o.grads = [] →
    let ends (t : State) (C : Sinter) : Prop := (getCore t core).sq = [] ∧ (∀ m ∈ (getCore t core).mq, m.op ≠ op) ∧
      (getCore t core).sint = C ∧ raised t ∧ t.mem = s.mem
    (o.failed = none → ∃ t, exec .vprojComplete s = .next t ∧ ends t (after o.answer)) ∧
    (∀ c v, o.failed = some (c, v) → live → free → ∃ t, exec .vprojComplete s = .next t ∧
      ends t { after o.answer with broken := true } ∧ record c v ∈ (getSlot t core o.slot).records) ∧
    (∀ c v, o.failed = some (c, v) → live → ¬ free → ∃ t, exec .vprojComplete s = .next t ∧ { t with agenda := s.agenda } = s ∧
      (s.now + 1, Instr.vprojComplete, [core, op]) ∈ t.agenda)) ∧
  (∀ base (gs : List W32), s.args = [core, op, 1] → o.abandoned = false → o.grads = gs.zipIdx.map (fun g => (base + 4 * g.2, g.1)) →
    base % 4 = 0 → base + 4 * gs.length ≤ 0x40000 → (∀ j < 32768, s.localBad.find (localPa core (8 * j) / 8) = none) →
    ∃ t, exec .vprojComplete s = .next t ∧ (getCore t core).sq = [{ o with grads := o.grads.drop 32 }] ∧ t.slots = s.slots ∧
      t.agenda = s.agenda ∧ ∀ x, memByte t x = let y := x - localPa core base
        if localPa core base ≤ x ∧ y < 4 * min 32 gs.length then (gs.getD (y / 4) 0).extractLsb' (8 * (y % 4)) 8 else memByte s x) ∧
  (∀ y, s.args = [core, op] → o.begun = false → heldByFreeze s core o.slot = false →
    (getCore s core).mq = [y] → y.op = op → y.kind = .vproj →
    let p := projOf o.desc
    let fails (e : Nat × W64) : Prop := ∃ t, exec .matrixOpBegin s = .next t ∧ (getCore t core).sq = [{ o with begun := true, failed := some e }] ∧
      (s.now + 24, Instr.vprojComplete, [core, op]) ∈ t.agenda ∧ t.slots = s.slots ∧ t.mem = s.mem
    (∀ e, o.lap2 = false → o.rq = false → projCheck s core o.lvl true o.addr p = some e → fails e) ∧
    (o.lap2 = true → o.rep = none ∨ A.rpl = false ∨ A.spanC ≠ 1 ∨ bitOf o.arg 31 = false ∧ A.spanA ≠ bits o.arg 18 6 →
      fails (0x0A, spillVal 3 A 0)) ∧
    (o.lap2 = false → o.rq = false → projCheck s core o.lvl true o.addr p = none →
      runFree (posOfCore core) (getCore s core) op s.now (s.now + projCycles p) = true →
      ∃ t o1, exec .matrixOpBegin s = .next t ∧ (getCore t core).sq = [o1] ∧ o1.begun = true ∧ o1.op = op ∧ (getCore t core).sint = A ∧
        (o1.failed = none → (s.now + projCycles p + 24, Instr.vprojComplete, [core, op]) ∈ t.agenda ∧ ∃ C, o1.answer = some C ∧
          (o.keep = false ∨ A.heap.length ≤ 64 → C.heap.length ≤ 64) ∧ C.valid = true ∧ C.rpl = false ∧
          (o.keep = false → (∀ x ∈ C.heap, p.tok0 ≤ x.2 ∧ x.2 < p.tok0 + p.n) ∧ C.shards = [(C.m, C.s)] ∧ C.spanA = p.shard ∧
            C.spanC = 1 ∧ C.nshard = p.nshard ∧ C.broken = false ∧ C.drawnV = false))))

/-- R328, R378, R379, R392 and R393: the mailboxes take and give dwords in order, hold a write while full, and a held one is
taken when there is room; FDBASE and FLBASE take a value in range only; a write of a placing register resets the page
manager. It rests on the model's reading in log entries 50 and 54. -/
def Obligations.PackageWindow : Prop := ∀ (s : State) (pkg : Nat) (v : W64), pkg < 4 →
  let P := getPkg s pkg
  let keeps (t : State) : Prop := t.slots = s.slots ∧ t.cores = s.cores ∧ t.parts = s.parts
  let sets (t : State) (off : Nat) (x : W64) : Prop :=
    ∀ a, getReg t a = if a = ccWin pkg off then x else getReg s a
  let fresh (t : State) : Prop := (getPkg t pkg).px = [] ∧
    let n := kvPages t pkg
    (0 < n → Within (kvBase t pkg, kvAreaLen t pkg) (gddrPa pkg 0, 0xB01000000) →
      kvDepth t pkg = n ∧ (∀ k < n, pageRef t pkg k = 0 ∧ rdN t (kvStackAt t pkg k) 4 = n - 1 - k) ∧
      ∀ x, x < kvBase t pkg ∨ kvBase t pkg + kvAreaLen t pkg ≤ x → memByte t x = memByte s x)
  (s.args = [pkg, v.toNat] →
    (unitHeld s pkg 6 = false →
      (P.mbin.length < 256 → ∃ t, exec .mbin s = .next t ∧ (getPkg t pkg).mbin = P.mbin ++ [v] ∧ keeps t ∧ t.mem = s.mem ∧
        getReg t (ccWin pkg 0) = if P.mbin = [] then getReg s (ccWin pkg 0) ||| 1 else getReg s (ccWin pkg 0)) ∧
      (256 ≤ P.mbin.length → ∃ t, exec .mbin s = .next t ∧ getPkg t pkg = { P with heldWrites := P.heldWrites ++ [[6, v.toNat]] } ∧
        keeps t ∧ t.mem = s.mem ∧ t.wregs = s.wregs)) ∧
    (unitHeld s pkg 7 = false →
      (P.mbout.length < 256 → ∃ t, exec .mbout s = .next t ∧ getPkg t pkg = { P with mbout := P.mbout ++ [v] } ∧ keeps t ∧ t.mem = s.mem ∧
        t.wregs = s.wregs) ∧
      (256 ≤ P.mbout.length → ∃ t, exec .mbout s = .next t ∧ getPkg t pkg = { P with heldWrites := P.heldWrites ++ [[7, v.toNat]] } ∧
        keeps t ∧ t.mem = s.mem ∧ t.wregs = s.wregs)) ∧
    (0x1000000 ≤ bits v 5 27 * 32 → bits v 0 4 ≤ 9 → ∃ t, exec .fdbase s = .next t ∧ sets t 0x040 (v &&& 0xFFFFFFEF) ∧ fresh t ∧ keeps t) ∧
    (bits v 5 27 * 32 < 0x1000000 ∨ 9 < bits v 0 4 → exec .fdbase s = .next s) ∧
    (0x1000000 ≤ bits v 6 26 * 64 → bits v 32 4 ≤ 12 → ∃ t, exec .flbase s = .next t ∧ sets t 0x380 (v &&& 0xFFFFFFFC0) ∧ fresh t ∧ keeps t) ∧
    (bits v 6 26 * 64 < 0x1000000 ∨ 12 < bits v 32 4 → exec .flbase s = .next s) ∧
    (∃ t, exec .kvpool s = .next t ∧ sets t 0x340 (v &&& 0x3FFFFFFFF000) ∧ fresh t ∧ keeps t) ∧
    (∃ t, exec .kvsize s = .next t ∧ sets t 0x348 (v &&& 0xFFFFFF00FFFFFF) ∧ fresh t ∧ keeps t) ∧
    (∃ t, exec .kvref s = .next t ∧ sets t 0x350 (v &&& 0x3FFFFFFFFFC0) ∧ fresh t ∧ keeps t)) ∧
  (s.args = [pkg] →
    (∀ r, P.mbin = v :: r → ∃ t, exec .mbinpop s = .next t ∧ getPkg t pkg = { P with mbin := r } ∧ Listed t .heldWriteTaken [pkg, 6] ∧
      keeps t ∧ t.mem = s.mem ∧ t.wregs = s.wregs) ∧
    (P.mbin = [] → exec .mbinpop s = .next s) ∧
    (∀ r, P.mbout = v :: r → ∃ t, exec .mboutpop s = .next t ∧ getPkg t pkg = { P with mbout := r } ∧ Listed t .heldWriteTaken [pkg, 7] ∧
      keeps t ∧ t.mem = s.mem ∧ t.wregs = s.wregs) ∧
    (P.mbout = [] → exec .mboutpop s = .next s)) ∧
  (s.args = [pkg, 6] → P.heldWrites = [[6, v.toNat]] → P.mbin.length < 256 → ∃ t, exec .heldWriteTaken s = .next t ∧
    getPkg t pkg = { P with mbin := P.mbin ++ [v], heldWrites := [] } ∧ keeps t ∧ t.mem = s.mem) ∧
  (s.args = [pkg, 7] → P.heldWrites = [[7, v.toNat]] → P.mbout.length < 256 → ∃ t, exec .heldWriteTaken s = .next t ∧
    getPkg t pkg = { P with mbout := P.mbout ++ [v], heldWrites := [] } ∧ keeps t ∧ t.mem = s.mem)

/-- R391, R392 and R395: a record written to KVQ or KVQP joins the queue as it stands in memory, and a full queue holds the
write; a record with a reserved bit set ends with code 1, one whose sequence is paged out with code 7, and neither changes
anything. It rests on the model's reading in log entries 45 and 49. R389, R390 and R392: ALLOC empties a sequence, COMMIT
makes speculative tokens part of it and drops the pages of the rest, and FREE gives every page back: a page counted down to 0
stands on the free stack. -/
def Obligations.PageManagerLists : Prop :=
  (∀ (s : State) (pkg src lv : Nat) (v : W64), pkg < 4 →
    let P := getPkg s pkg
    let at_ (pa : Nat) : KvRec → Prop := fun r => r.pa = pa ∧ r.d = (List.range 8).map (fun i => rd64 s (pa + 8 * i)) ∧
      r.op = bits (rd64 s pa) 56 8
    let clean (pa : Nat) : Prop := pa % 64 = 0 ∧ (∃ q c, placeOf pa = .gddr q c) ∧ ∀ i < 8, readable s (pa + 8 * i) = true
    let joins (i : Instr) (part : Nat) (sys : Bool) (pa : Nat) : Prop := ∃ t r, exec i s = .next t ∧ (getPkg t pkg).kvq = P.kvq ++ [r] ∧
      at_ pa r ∧ r.part = part ∧ r.sys = sys ∧ t.slots = s.slots ∧ t.mem = s.mem
    (unitHeld s pkg 5 = false → P.kvq ≠ [] →
      (s.args = [pkg, src, v.toNat, lv] → src < 2048 → regionOf s src ≠ 0 → v.toNat % 64 = 0 → P.kvq.length < 64 →
        ∀ pa, clean pa → (∀ need, need < 2 → xlateUnit s pkg (partOfCore s src) (bits v 6 46 * 64) need true = some pa) →
          joins .kvq (partOfCore s src) (lv == 1) pa) ∧
      (s.args = [pkg, v.toNat] → P.kvq.length < 64 → clean (bits v 6 40 * 64) →
        joins .kvqp (partOf s (bits (getReg s (ccWin pkg 0x308)) 6 40 * 64)) true (bits v 6 40 * 64)) ∧
      (s.args = [pkg, v.toNat] → 64 ≤ P.kvq.length → ∃ t, exec .kvqp s = .next t ∧
        getPkg t pkg = { P with heldWrites := P.heldWrites ++ [[5, 1, 2048, v.toNat, 1]] } ∧ t.slots = s.slots ∧ t.mem = s.mem)) ∧
    (s.args = [pkg, src, v.toNat, lv] → unitHeld s pkg 5 = false → (2048 ≤ src ∨ regionOf s src = 0 ∨ v.toNat % 64 ≠ 0) →
      ∃ t, exec .kvq s = .next t ∧ t.pkgs = s.pkgs ∧ t.slots = s.slots) ∧
    (∀ op i r k lo n pl, (op, i) ∈ [(1, Instr.alloc), (2, .append), (3, .commit), (4, .fork), (5, .free), (6, .lookup), (7, .insert),
        (8, .evict), (9, .stage), (10, .pageout)] → RecordStands s pkg op r k lo n pl → k.paged s = true → RecordFails i s pkg r 7) ∧
    (∀ op i r, (op, i) ∈ [(1, Instr.alloc), (2, .append), (3, .commit), (4, .fork), (5, .free), (6, .lookup), (7, .insert), (8, .evict),
        (9, .stage), (10, .pageout), (11, .pagein)] → s.args = [pkg] → P.kvq = [r] → P.kvWait = none → r.op = op → r.reservedOk = false →
      r.pa % 64 = 0 → (∃ c, placeOf r.pa = .gddr pkg c) → P.poison = [] → RecordFails i s pkg r 1)) ∧
  (∀ (s : State) (pkg op : Nat) (r : KvRec) (k : KvAt) (lo n pl : Nat),
    RecordStands s pkg op r k lo n pl → k.paged s = false →
    let copied (t : State) (c : Nat) : Prop := ∀ i < k.penb s / 8 * 8, k.rd t (k.penAt s (1 - c) + i) 1 = k.rd s (k.penAt s c + i) 1
    let uses (l : List (Nat × Nat)) (j : Nat) : Nat := (l.filter (fun x => k.entry s x.1 x.2 == j)).length
    let counts (t : State) (l : List (Nat × Nat)) : Prop := kvDepth s pkg + k.listLen s ≤ kvPages s pkg → ∀ j < kvPages s pkg,
      uses l j < pageRef s pkg j → pageRef t pkg j = pageRef s pkg j - uses l j
    (op = 1 → ∃ t, exec .alloc s = .next t ∧ RecordDone s t pkg r 0 [] ∧ k.clen t = 0 ∧ k.slen t = 0 ∧ k.truelen t = 0 ∧
      bits (k.dw t 7) 32 32 = 0 ∧ k.dw t 6 = 0 ∧ k.paged t = false ∧ k.psel t = 0 ∧ k.maxb t = k.maxb s ∧
      (∀ i < k.listLen s, k.rd t (k.ptr s 2 + 4 * i) 4 = noPage) ∧ copied t 0 ∧ ∀ j < kvPages s pkg, pageRef t pkg j = pageRef s pkg j) ∧
    (let c := k.clen s
     let l := k.slen s
     let m := bits (r.w 1) 0 7
     let out (b : Nat) : Prop := (c + m + 15) / 16 ≤ b ∧ b < (c + l + 15) / 16
     let dropped := (List.range (k.groups s)).flatMap (fun g =>
       ((List.range (k.maxb s)).filter (fun b => decide ((c + m + 15) / 16 ≤ b) && decide (b < (c + l + 15) / 16))).map (fun b => (g, b)))
     (op = 3 → m ≤ l → c + l ≤ 16 * k.maxb s → kvDepth s pkg + k.listLen s ≤ kvPages s pkg →
       ∃ t, exec .commit s = .next t ∧ RecordDone s t pkg r 0 [] ∧ k.clen t = (c + m) % 2 ^ 32 ∧
         k.slen t = 0 ∧ k.truelen t = (k.truelen s + m) % 2 ^ 32 ∧ k.dw t 6 = r.w 2 ∧ k.psel t = 1 - k.psel s ∧ copied t (1 - k.psel s) ∧
         (∀ g b, g < k.groups s → b < k.maxb s → (out b → k.entry t g b = noPage) ∧ (¬ out b → k.entry t g b = k.entry s g b)) ∧
         counts t dropped) ∧
     (op = 3 → l < m → RecordFails .commit s pkg r 4)) ∧
    (op = 5 → kvDepth s pkg + k.listLen s ≤ kvPages s pkg →
      let all := (List.range (k.groups s)).flatMap (fun g => (List.range (k.maxb s)).map (fun b => (g, b)))
      ∃ t, exec .free s = .next t ∧ RecordDone s t pkg r 0 [] ∧ k.clen t = 0 ∧ k.slen t = 0 ∧
        (∀ g b, g < k.groups s → b < k.maxb s → k.entry t g b = noPage) ∧ counts t all ∧
        (∀ e, k.listLen s = 1 → k.entry s 0 0 = e → e < kvPages s pkg → pageRef s pkg e = 1 → pageRef t pkg e = 0 ∧
          kvDepth t pkg = kvDepth s pkg + 1 ∧ rdN t (kvStackAt s pkg (kvDepth s pkg)) 4 = e)))

/-- R392 and R399: APPEND changes no page where every block it enters has one of its own; where it enters one block of one
group, it takes the page on top of the free stack where the block has none, a copy where it is shared, and ends with code 3
where no page is free; it ends with code 4 where its count is out of range; FORK shares the parent's pages with the child. It
rests on the model's reading in log entry 49. R396 to R398: LOOKUP pins the pages of the longest cached prefix and gives its
length, the tokens left and their chunks; INSERT stamps a hash that is present and enters one that is not in the lowest free
entry; EVICT drops the unprotected block of lowest score and moves the later blocks down. INSERT and EVICT are stated for one
block of one group. It rests on the model's reading in log entries 49 and 50. -/
def Obligations.PageAllocationAndPrefixes : Prop :=
  (∀ (s : State) (pkg op : Nat) (r : KvRec) (k : KvAt) (lo n pl : Nat),
    RecordStands s pkg op r k lo n pl → k.paged s = false →
    let m := bits (r.w 1) 0 7
    let a := k.clen s + k.slen s
    let b := a / 16
    let fits := 1 ≤ m ∧ m ≤ 64 ∧ a + m ≤ 16 * k.maxb s
    let one := k.groups s = 1 ∧ (a + m - 1) / 16 = b
    let d := kvDepth s pkg
    let top := rdN s (kvStackAt s pkg (d - 1)) 4
    let given := 0 < d ∧ d ≤ kvPages s pkg ∧ top < kvPages s pkg
    let e := k.entry s 0 b
    let grown (t : State) : Prop := RecordDone s t pkg r 0 [] ∧ k.slen t = (k.slen s + m) % 2 ^ 32 ∧ k.clen t = k.clen s ∧ k.truelen t = k.truelen s
    (op = 2 → fits → (∀ g j, g < k.groups s → b ≤ j → j ≤ (a + m - 1) / 16 → k.entry s g j < kvPages s pkg ∧ pageRef s pkg (k.entry s g j) ≤ 1) →
      ∃ t, exec .append s = .next t ∧ grown t ∧ (∀ g j, g < k.groups s → j < k.maxb s → k.entry t g j = k.entry s g j) ∧
        ∀ j < kvPages s pkg, pageRef t pkg j = pageRef s pkg j) ∧
    (op = 2 → fits → one → given → kvPages s pkg ≤ e →
      ∃ t, exec .append s = .next t ∧ grown t ∧ k.entry t 0 b = top ∧ pageRef t pkg top = 1 ∧ kvDepth t pkg = d - 1 ∧
        k.rmap t b = (b + (k.truelen s - k.clen s) / 16) % 2 ^ 32 ∧ k.score t b = 0 ∧
        ∀ j < kvPages s pkg, j ≠ top → pageRef t pkg j = pageRef s pkg j) ∧
    (op = 2 → fits → one → given → e < kvPages s pkg → 1 < pageRef s pkg e → top ≠ e →
      ∃ t, exec .append s = .next t ∧ grown t ∧ k.entry t 0 b = top ∧ pageRef t pkg top = 1 ∧ pageRef t pkg e = pageRef s pkg e - 1 ∧
        kvDepth t pkg = d - 1 ∧ k.rmap t b = k.rmap s b ∧
        ∀ i < kvPageBytes s pkg, memByte t (pageAt s pkg top + i) = memByte s (pageAt s pkg e + i)) ∧
    (op = 2 → fits → one → d = 0 → kvPages s pkg ≤ e → RecordFails .append s pkg r 3) ∧
    (op = 2 → ¬ fits → RecordFails .append s pkg r 4) ∧
    (op = 4 → ∀ c : KvAt, c = { k with sd := bits (r.w 1) 6 46 * 64 } → SeqInPlace s c lo n → c.paged s = false →
      (∀ x ∈ seqAreas s k, ∀ y ∈ seqAreas s c, Apart x y) → c.groups s = k.groups s → c.maxb s = k.maxb s → c.penb s = k.penb s →
      k.clen s ≤ 16 * k.maxb s →
      let u := (k.clen s + 15) / 16
      let f := bits (k.dw s 7) 32 32 + 1
      let uses (j : Nat) : Nat :=
        (((List.range (k.groups s)).flatMap (fun g => (List.range u).map (fun b => (g, b)))).filter (fun x => k.entry s x.1 x.2 == j)).length
      (∀ j < kvPages s pkg, pageRef s pkg j + uses j ≤ 0xFFFF) →
      ∃ t, exec .fork s = .next t ∧ RecordDone s t pkg r 0 [] ∧ bits (k.dw t 7) 32 32 = f % 2 ^ 32 ∧ k.slen t = k.slen s ∧ k.clen t = k.clen s ∧
        (∀ g j, g < k.groups s → j < k.maxb s → c.entry t g j = (if j < u then k.entry s g j else noPage) ∧ k.entry t g j = k.entry s g j) ∧
        (∀ j < u, c.rmap t j = k.rmap s j ∧ c.score t j = k.score s j) ∧
        (∀ j < kvPages s pkg, pageRef t pkg j = pageRef s pkg j + uses j) ∧
        c.clen t = k.clen s ∧ c.slen t = 0 ∧ c.truelen t = k.truelen s ∧ c.psel t = 0 ∧ c.dw t 6 = k.dw s 6 ∧ bits (c.dw t 7) 32 32 = 0 ∧
        bits (c.dw t 5) 0 32 = bits (k.dw s 5) 0 32 ∧ bits (c.dw t 5) 32 32 = Nat.xor (bits (k.dw s 5) 32 32) (f % 2 ^ 32) ∧
        ∀ i < k.penb s / 8 * 8, ∀ z < 2, c.rd t (c.penAt s z + i) 1 = k.rd s (k.penAt s (k.psel s) + i) 1)) ∧
  (∀ (s : State) (pkg op : Nat) (r : KvRec) (k : KvAt) (lo n pl : Nat),
    RecordStands s pkg op r k lo n pl → k.paged s = false →
    let P := getPkg s pkg
    let ids := bits (r.w 1) 6 46 * 64
    let G := k.groups s
    (op = 6 → let N := bits (r.w 2) 32 32
      let chunk := bits (r.w 2) 0 16
      let hits := hitPx s pkg G (k.hashes s ids ((N - 1) / 16))
      let L := hits.length
      let page (b g : Nat) : Nat := rdN s (kvRecordAt s pkg (hits.getD b 0) g) 4
      let uses (j : Nat) : Nat := (((List.range L).flatMap (fun b => (List.range G).map (fun g => page b g))).filter (fun x => x == j)).length
      k.clen s = 0 → k.slen s = 0 → 1 ≤ N → N ≤ 2 ^ 20 → 16 ≤ chunk → chunk ≤ 4096 → chunk % 16 = 0 → Within (ids, 4 * N) (lo, n) →
      (L ≤ k.maxb s → (∀ b < L, ∀ g < G, page b g < kvPages s pkg) → (∀ j < kvPages s pkg, pageRef s pkg j + uses j ≤ 0xFFFF) →
        ∃ t, exec .lookup s = .next t ∧
          RecordDone s t pkg r 0 [BitVec.ofNat 64 L, BitVec.ofNat 64 (N - 16 * L), BitVec.ofNat 64 ((N - 16 * L + chunk - 1) / chunk)] ∧
          k.clen t = 16 * L ∧ k.truelen t = 16 * L ∧ (∀ b < L, k.rmap t b = b ∧ k.score t b = 0 ∧ ∀ g < G, k.entry t g b = page b g) ∧
          (∀ j < kvPages s pkg, pageRef t pkg j = pageRef s pkg j + uses j) ∧
          (∀ x ∈ hits, P.pxStamp < (getPx t pkg x).stamp) ∧ (getPkg t pkg).pxStamp = P.pxStamp + L) ∧
      (k.maxb s < L → RecordFails .lookup s pkg r 4)) ∧
    (op = 7 → let b0 := bits (r.w 2) 32 32
      let h := (k.hashes s ids (b0 + 1)).getD b0 []
      bits (r.w 2) 0 16 = 1 → 16 * (b0 + 1) ≤ k.clen s → b0 + 1 ≤ k.maxb s → (∀ b ≤ b0, k.rmap s b = b) → G = 1 →
      k.entry s 0 b0 < kvPages s pkg → pageRef s pkg (k.entry s 0 b0) < 0xFFFF → Within (ids, 64 * (b0 + 1)) (lo, n) →
      (∀ e, findPx s pkg h = some e → ∃ t, exec .insert s = .next t ∧ RecordDone s t pkg r 0 [] ∧
        getPx t pkg e = { getPx s pkg e with stamp := P.pxStamp + 1 } ∧ ∀ x ≠ e, getPx t pkg x = getPx s pkg x) ∧
      (∀ e < 64, findPx s pkg h = none → (getPx s pkg e).valid = false → (∀ x < e, (getPx s pkg x).valid = true) →
        ∃ t, exec .insert s = .next t ∧ RecordDone s t pkg r 0 [] ∧
          getPx t pkg e = ⟨true, 0, BitVec.ofNat 128 (leNat h), P.pxStamp + 1⟩ ∧ (∀ x ≠ e, getPx t pkg x = getPx s pkg x) ∧
          rdN t (kvRecordAt s pkg e 0) 4 = k.entry s 0 b0 ∧ pageRef t pkg (k.entry s 0 b0) = pageRef s pkg (k.entry s 0 b0) + 1)) ∧
    (op = 8 → let c := k.clen s
      let nb := (c + 15) / 16
      let free (b : Nat) : Prop := b < nb ∧ bits (k.dw s 1) 16 16 ≤ 16 * b ∧ 16 * (b + 1) + bits (k.dw s 1) 0 16 ≤ c
      let rank (b : Nat) : Nat := scoreRank (k.score s b)
      bits (r.w 1) 0 16 = 1 → k.slen s = 0 → nb ≤ k.maxb s → G = 1 → kvDepth s pkg < kvPages s pkg →
      (∀ b, free b → (∀ x, free x → rank b < rank x ∨ rank b = rank x ∧ b ≤ x) →
        ∃ t, exec .evict s = .next t ∧ RecordDone s t pkg r 0 [] ∧ k.clen t = c - 16 ∧ k.truelen t = k.truelen s ∧
          k.entry t 0 (nb - 1) = noPage ∧ (∀ j < nb - 1, let i := if j < b then j else j + 1
            k.entry t 0 j = k.entry s 0 i ∧ k.rmap t j = k.rmap s i ∧ k.score t j = k.score s i) ∧
          (k.entry s 0 b < kvPages s pkg → 0 < pageRef s pkg (k.entry s 0 b) →
            pageRef t pkg (k.entry s 0 b) = pageRef s pkg (k.entry s 0 b) - 1)) ∧
      ((∀ b, ¬ free b) → RecordFails .evict s pkg r 4)))

/-- R394 and R395: STAGE submits a descriptor for each page and its record ends when all have completed; PAGEOUT and PAGEIN
post a request to the flash ring, PAGEIN with a page for its entry on flash, stated for none or one; FLDONE with status 0
moves the list out or in, with another leaves it as it was and ends the record with code 5. It rests on the model's reading
in log entries 4 and 63. -/
def Obligations.StagingAndFlash : Prop := ∀ (s : State) (pkg : Nat) (r : KvRec) (k : KvAt) (lo n pl : Nat),
  let P := getPkg s pkg
  let pa (va : Nat) : W64 := BitVec.ofNat 64 (pl + (va - lo))
  (RecordStands s pkg 9 r k lo n pl → k.paged s = false →
    let g := bits (r.w 1) 0 8
    let b0 := bits (r.w 1) 32 32
    let n := bits (r.w 2) 56 8 + 1
    let e (i : Nat) : Nat := k.entry s g (b0 + i)
    let a (i : Nat) : Nat := pageAt s pkg (e i)
    (g < k.groups s → b0 + n ≤ k.maxb s → (∀ i < n, e i < kvPages s pkg) → unitHeld s pkg 2 = false → dwQueued s pkg + n ≤ 64 →
      ∃ t xs, exec .stage s = .next t ∧ (getPkg t pkg).dwq = P.dwq ++ xs ∧ xs.length = n ∧ (getPkg t pkg).kvWait = some (0, n, 0) ∧
        (getPkg t pkg).kvq = [r] ∧ Listed t .dumbwaiterStart [pkg] ∧ t.mem = s.mem ∧ t.slots = s.slots ∧ ∀ i x, xs[i]? = some x →
          x.kv = true ∧ x.part = r.part ∧ x.sys = r.sys ∧ x.running = none ∧ x.code = 0 ∧ x.src = a i % 4096 ∧ x.col = bits (r.w 2) 32 7 ∧
          (bits (r.w 2) 0 29 + i * kvPageBytes s pkg < 2 ^ 29 → x.dst = bits (r.w 2) 0 29 + i * kvPageBytes s pkg) ∧ x.gcm = false ∧
          (0 < kvPageBytes s pkg → 128 * x.lines = kvPageBytes s pkg) ∧ ∀ j < x.blobLen, x.blobPa j = a i + j) ∧
    (g < k.groups s → b0 + n ≤ k.maxb s → (∃ i < n, kvPages s pkg ≤ e i) → RecordFails .stage s pkg r 4) ∧
    (k.groups s ≤ g ∨ k.maxb s < b0 + n → RecordFails .stage s pkg r 4)) ∧
  (∀ code, pkg < 4 → s.args = [pkg] → P.kvq = [r] → P.kvWait = some (0, 0, code) → r.pa % 64 = 0 → (∃ c, placeOf r.pa = .gddr pkg c) →
    P.poison = [] → ∃ t, exec .stage s = .next t ∧ RecordDone s t pkg r code []) ∧
  (∀ a, flashAt s pkg = some a →
    let posts (i : Instr) (way : Nat) (saved : List Nat) : Prop := ∃ t, exec i s = .next t ∧ (getPkg t pkg).kvq = [r] ∧
      (getPkg t pkg).kvWait = some (way, P.flNext % 2 ^ 32, 0) ∧ (getPkg t pkg).flNext = P.flNext + 1 ∧ (getPkg t pkg).kvSaved = saved ∧
      rd64 t a = BitVec.ofNat 64 way ∧ rd64 t (a + 8) = pa k.sd ∧ rd64 t (a + 16) = pa (k.ptr s 2) ∧
      rd64 t (a + 24) = BitVec.ofNat 64 (k.listLen s) ∧ getReg t (ccWin pkg 0) = getReg s (ccWin pkg 0) ||| 16 ∧ t.slots = s.slots ∧
      (∀ i e, saved = [i] → e = rdN s (kvStackAt s pkg (kvDepth s pkg - 1)) 4 → k.rd t (k.ptr s 2 + 4 * i) 4 = e ∧
        (e < kvPages s pkg → pageRef t pkg e = 1) ∧ kvDepth t pkg = kvDepth s pkg - 1)
    let away := (List.range (k.listLen s)).filter (fun i => k.rd s (k.ptr s 2 + 4 * i) 4 == flashPage)
    (RecordStands s pkg 10 r k lo n pl → k.paged s = false → k.slen s = 0 → posts .pageout 1 []) ∧
    (RecordStands s pkg 10 r k lo n pl → k.paged s = false → k.slen s ≠ 0 → RecordFails .pageout s pkg r 4) ∧
    (RecordStands s pkg 11 r k lo n pl → k.paged s = true → away = [] → posts .pagein 2 []) ∧
    (∀ i, RecordStands s pkg 11 r k lo n pl → k.paged s = true → away = [i] → 0 < kvDepth s pkg → kvDepth s pkg ≤ kvPages s pkg →
      rdN s (kvStackAt s pkg (kvDepth s pkg - 1)) 4 < kvPages s pkg → posts .pagein 2 [i]) ∧
    (∀ i, RecordStands s pkg 11 r k lo n pl → k.paged s = true → away = [i] → kvDepth s pkg = 0 → RecordFails .pagein s pkg r 3)) ∧
  (∀ (v : W64) (way i x op : Nat) (s' : State), s' = { s with args := [pkg] } → P.kvWait = some (way, i, x) → s.args = [pkg, v.toNat] →
    RecordStands (modPkg s' pkg (fun p => { p with kvWait := none })) pkg op r k lo n pl →
    (i ≠ bits v 0 32 → way ≠ 0 → ∃ t, exec .fldone s = .next t ∧ t.pkgs = s.pkgs ∧ t.mem = s.mem ∧ getReg t (ccWin pkg 0x388) = v) ∧
    (i = bits v 0 32 → way = 1 → bits v 32 8 = 0 → kvDepth s pkg + k.listLen s ≤ kvPages s pkg →
      ∃ t, exec .fldone s = .next t ∧ RecordDone s t pkg r 0 [] ∧ k.paged t = true ∧
        ∀ j < k.listLen s, let e := k.rd s (k.ptr s 2 + 4 * j) 4
          k.rd t (k.ptr s 2 + 4 * j) 4 = if e < kvPages s pkg then flashPage else e) ∧
    (i = bits v 0 32 → way = 1 → bits v 32 8 ≠ 0 → ∃ t, exec .fldone s = .next t ∧ RecordDone s t pkg r 5 [] ∧
      ∀ a, a < r.pa + 32 ∨ r.pa + 40 ≤ a → memByte t a = memByte s a) ∧
    (i = bits v 0 32 → way = 2 → bits v 32 8 = 0 → ∃ t, exec .fldone s = .next t ∧ RecordDone s t pkg r 0 [] ∧ k.paged t = false ∧
      ∀ j < k.listLen s, k.rd t (k.ptr s 2 + 4 * j) 4 = k.rd s (k.ptr s 2 + 4 * j) 4) ∧
    (i = bits v 0 32 → way = 2 → bits v 32 8 ≠ 0 → ∀ j < k.listLen s, P.kvSaved = [j] → kvDepth s pkg < kvPages s pkg →
      k.rd s (k.ptr s 2 + 4 * j) 4 < kvPages s pkg → 0 < pageRef s pkg (k.rd s (k.ptr s 2 + 4 * j) 4) →
      ∃ t, exec .fldone s = .next t ∧ RecordDone s t pkg r 5 [] ∧ k.rd t (k.ptr s 2 + 4 * j) 4 = flashPage ∧
        pageRef t pkg (k.rd s (k.ptr s 2 + 4 * j) 4) = pageRef s pkg (k.rd s (k.ptr s 2 + 4 * j) 4) - 1))

/-- R400 to R402: a write of KSLOAD starts the unwrapping of a blob, held while the slot's key is in use or another load
runs; an authentic blob of the slot loads its key, any other clears it with the result that says why; a write of KSOWN sets
the owner and clears the key; an access from another source than the application cores changes none of it and reads 0. It
rests on the model's reading in log entries 15 and 55. R405, R407, R413 and R414: the commands of the management interface
and their answers, where the outbound mailbox has room; the answers of ATTEST, RECOVER and MINVER are open. The board test
port gives what the instruction captures before what is scanned in: IDCODE its code, BYPASS one 0, SAMPLE/PRELOAD and EXTEST
the pins, and touches nothing else of the machine. It rests on the model's reading in log entries 2, 15 and 69. -/
def Obligations.KeysAndManagement : Prop :=
  (∀ (s : State) (pkg : Nat) (v : W64), pkg < 4 →
    let P := getPkg s pkg
    let k := bits v 0 6
    let pa := bits v 6 40 * 64
    let off := pa - ccWin pkg 0
    let blob := rdBytes s (cohPa pkg off) 64
    let opened := gcmOpen (kek pkg) (blob.take 12) (blob.drop 60) ((blob.drop 12).take 32) ((blob.drop 44).take 16)
    let good : Bool := opened.2 && leNat (blob.drop 60) == k
    let there := ccWin pkg 0x1000000 ≤ pa ∧ pa < ccWin pkg 0 + 2 ^ 32 ∧ ∀ i < 8, readable s (pa + 8 * i) = true
    let keeps (t : State) : Prop := t.slots = s.slots ∧ t.mem = s.mem ∧ t.cores = s.cores
    let ends (res : Nat) (key : KeySlot) : Prop := ∃ t, exec .keyBlobUnwrap s = .next t ∧ keySlot t pkg k = key ∧
      (∀ x < 64, x ≠ k → keySlot t pkg x = keySlot s pkg x) ∧ (getPkg t pkg).keyBusy = none ∧
      getReg t (dieWin pkg 2 0x88) = BitVec.ofNat 64 (k * 256 + res) ∧ keeps t
    (s.args = [pkg, v.toNat] →
      (keyInUse s pkg k = false → P.keyBusy = none → ∃ t due, exec .ksload s = .next t ∧ getPkg t pkg = { P with keyBusy := some v } ∧
        getReg t (dieWin pkg 2 0x80) = v ∧ s.now < due ∧ (due, Instr.keyBlobUnwrap, [pkg]) ∈ t.agenda ∧ keeps t) ∧
      (keyInUse s pkg k = true ∨ P.keyBusy.isSome = true → ∃ t, exec .ksload s = .next t ∧
        getPkg t pkg = { P with keyHeld := P.keyHeld ++ [(64, v)] } ∧ keeps t ∧ t.wregs = s.wregs)) ∧
    (s.args = [pkg] → P.keyBusy = some v → P.keyHeld = [] →
      (there → ends (if good then 0 else 1) (if good then ⟨BitVec.ofNat 256 (leNat opened.1), true⟩ else ⟨0, false⟩)) ∧
      (¬ there → ends 2 ⟨0, false⟩)) ∧
    (∀ x < 64, s.args = [pkg, x, v.toNat] →
      (keyInUse s pkg x = false → ∃ t, exec .ksown s = .next t ∧ keySlot t pkg x = ⟨0, false⟩ ∧
        (∀ y < 64, y ≠ x → keySlot t pkg y = keySlot s pkg y) ∧
        (∀ a, getReg t a = if a = dieWin pkg 2 (0x100 + 16 * x) then v &&& 0x3FFFFFFFFFC0 else getReg s a) ∧ keeps t) ∧
      (keyInUse s pkg x = true → ∃ t, exec .ksown s = .next t ∧ getPkg t pkg = { P with keyHeld := P.keyHeld ++ [(x, v)] } ∧ keeps t ∧
        t.wregs = s.wregs)) ∧
    (let key (off : Nat) : Prop := off = 0x80 ∨ off = 0x88 ∨ 0x100 ≤ off ∧ off < 0x500 ∧ off % 16 = 0
     let same (t : State) : Prop := t.pkgs = s.pkgs ∧ t.slots = s.slots ∧ t.cores = s.cores ∧ t.agenda = s.agenda ∧
       ∀ off, key off → getReg t (dieWin pkg 2 off) = getReg s (dieWin pkg 2 off)
     ∀ src off lvl, src ≠ 2048 → key off → (readUnit s src pkg 2 off).1 = 0 ∧ same (readUnit s src pkg 2 off).2 ∧
       ∃ t, writeUnit s src lvl pkg 2 off v = some t ∧ same t)) ∧
  (∀ (s : State) (pkg x : Nat), pkg < 4 →
    let P := getPkg s pkg
    let answers (i : Instr) (l : List W64) : Prop := ∃ t, exec i s = .next t ∧ getPkg t pkg = { P with mbout := P.mbout ++ l } ∧
      t.slots = s.slots ∧ t.mem = s.mem ∧ t.wregs = s.wregs
    let base := getReg s (ccWin pkg 0x040)
    let entry (n : Nat) : Nat := cohPa pkg (bits base 5 27 * 32 + 32 * (n % 2 ^ (bits base 0 4 + 6)))
    let nonce := cohPa pkg (x - ccWin pkg 0)
    let image := rdBytes s (backing x) 256
    unitHeld s pkg 7 = false → P.mbout.length + P.keptLogs.length + 32 ≤ 256 →
    (s.args = [pkg] →
      answers .status [BitVec.ofNat 64 ((match P.st with | .porch => 1 | .dormant => 3 | _ => 2) * 2 ^ 56 + P.failStep % 256 * 256 +
        P.failCode % 256)] ∧
      answers .selftest ((List.range 32).map (fun i => Config.selfTestWord pkg i)) ∧
      ∃ t v, exec .minver s = .next t ∧ t.slots = s.slots ∧ t.mem = s.mem ∧ getPkg t pkg =
        { P with minver := if P.minver.toNat < P.version.toNat then P.version else P.minver, mbout := P.mbout ++ [v] }) ∧
    (s.args = [pkg, x] →
      answers .log ((List.range 4).map (fun i => rd64 s (entry x + 8 * i)) ++ P.keptLogs) ∧
      answers .unknownCommand [0xFFFFFFFFFFFFFFFF] ∧
      (ccWin pkg 0x1000000 ≤ x → x - ccWin pkg 0 + 514 ≤ 2 ^ 32 → P.measure.length = 64 →
        ∃ t v, exec .attest s = .next t ∧ getPkg t pkg = { P with mbout := P.mbout ++ [v] } ∧ t.slots = s.slots ∧
          let report := rdBytes t (nonce + 32) 368
          report.take 32 = rdBytes s nonce 32 ∧ (report.drop 32).take 64 = P.measure ∧ leNat ((report.drop 96).take 8) = P.version.toNat ∧
          leNat ((report.drop 104).take 8) = P.minver.toNat ∧ (∀ i < 8, leNat ((report.drop (112 + 32 * i)).take 32) = (P.trusted.getD i 0).toNat) ∧
          ∀ y, y < nonce + 32 → memByte t y = memByte s y) ∧
      (∃ t v, exec .recover s = .next t ∧ t.mem = s.mem ∧
        getPkg t pkg = (if imageOk s pkg x then { P with
          mbout := P.mbout ++ [v], version := BitVec.ofNat 64 (leNat ((image.drop 8).take 8)),
          measure := shake256 (image ++ rdBytes s (backing (x + 256)) (leNat ((image.drop 16).take 8))) 64 }
        else { P with mbout := P.mbout ++ [v] }) ∧
        (if imageOk s pkg x then ∃ f c, (s.now + 1, Instr.coldStart, [pkg, f, c]) ∈ t.agenda else t.agenda = s.agenda))) ∧
    (∀ bits : List Bool, s.args = pkg :: x :: bits.map (fun b => if b then 1 else 0) →
      ∃ t, exec .boardTest s = .next t ∧ { t with pkgs := s.pkgs, freeCtr := s.freeCtr } = s ∧ (∀ n < 4, n ≠ pkg → getPkg t n = getPkg s n) ∧
        let Q := getPkg t pkg
        let pins := x = 0 ∨ x = 2
        { Q with tapIr := P.tapIr, tapDr := P.tapDr, tapOut := P.tapOut, boundary := P.boundary, pins := P.pins } = P ∧ Q.tapIr = x ∧
        Q.tapOut.length = bits.length ∧
        (∃ captured, Q.tapOut ++ Q.tapDr = captured ++ bits ∧ (pins → captured.length = bits.length) ∧
          (x = 1 → captured = (List.range 32).map (fun i => (0x0A471F53).testBit i)) ∧ (¬ pins → x ≠ 1 → captured = [false])) ∧
        Q.boundary = (if pins then Q.tapDr else P.boundary) ∧ Q.pins = if x = 0 then Q.tapDr else []))

/-- R285, R409, R412, R413 and R417: a start that fails in step 1 to 7 sends the package to the Porch state; a cold start
leaves the package's memories empty and its registers at their reset values; a warm start and a wake leave it running without
keys; a lost part or a mesh hop stops the package and lets a warm start follow. It rests on the model's reading in log
entries 3, 11 and 52. -/
def Obligations.Starts : Prop := ∀ (s : State) (pkg f c : Nat), pkg < 4 →
  let P := getPkg s pkg
  let fails (i : Instr) : Prop := ∃ t, exec i s = .next t ∧ (getPkg t pkg).st = .porch ∧ (getPkg t pkg).failStep = f ∧
    (getPkg t pkg).failCode = c ∧ (getPkg t pkg).inService = false
  let bareDies (t : State) : Prop := ∀ q, pkgOfCore q = pkg → ∀ k < 5, getSlot t q k = slotDefault k
  let up (t : State) : Prop := ∀ k < 4, (getLink t pkg k).up = true ∧ (getLink t pkg k).rerouted = false ∧ (getLink t pkg k).held = []
  (s.args = [pkg, f, c] →
    (1 ≤ f → f ≤ 7 → fails .coldStart ∧ fails .warmStart ∧ (P.st = .dormant → fails .wakeFromDormant)) ∧
    (f = 0 → ∃ t, exec .coldStart s = .next t ∧ bareDies t ∧ up t ∧ (∀ q, pkgOfCore q = pkg → getCore t q = Core.reset) ∧
      (∀ x, ofPkg pkg x = true → memByte t x = 0) ∧ (∀ n off, off < 2 ^ 32 → getReg t (ccWin pkg off) = wregReset (ccWin pkg off) ∧
        (n < 5 → off < 0x10000 → getReg t (dieWin pkg n off) = wregReset (dieWin pkg n off))) ∧
      (getPkg t pkg).st = .running ∧ (getPkg t pkg).inService = true ∧ (getPkg t pkg).minver = P.minver ∧ (getPkg t pkg).mbin = [] ∧
      ∀ n < 4, (getPort t pkg n).part = none) ∧
    (f = 0 → ∃ t, exec .warmStart s = .next t ∧ bareDies t ∧ up t ∧ (getPkg t pkg).st = .running ∧ (getPkg t pkg).inService = true ∧
      (getPkg t pkg).keys = [] ∧ (getPkg t pkg).tlb = [] ∧ (getPkg t pkg).bars = [] ∧ (getPkg t pkg).lost = [] ∧ (getPkg t pkg).failStep = 0 ∧
      (∀ k < 64, getReg t (dieWin pkg 2 (0x100 + 16 * k)) = 0) ∧ (P.residency = [] → getReg t (ccWin pkg 0) = 0x20)) ∧
    (f = 0 → P.st = .dormant → ∃ t, exec .wakeFromDormant s = .next t ∧ (getPkg t pkg).st = .running ∧ (getPkg t pkg).keys = [] ∧
      (getPkg t pkg).dormantHeld = [] ∧ (∀ a v, (a, v, true) ∈ P.dormantHeld → Listed t .registerWrite [a, v.toNat, 0]) ∧ t.slots = s.slots ∧
      t.parts = s.parts ∧ (P.residency = [] → bitOf (getReg t (ccWin pkg 0)) 5 = true)) ∧
    (P.st ≠ .dormant → exec .wakeFromDormant s = .next s)) ∧
  (let stops (i : Instr) : Prop := ∃ t d a b, exec i s = .next t ∧ (getPkg t pkg).st = .stopped ∧ Listed t .packageOutOfService [pkg] ∧
      s.now < d ∧ (d, Instr.warmStart, [pkg, a, b]) ∈ t.agenda ∧ t.slots = s.slots ∧ t.mem = s.mem
   (s.args = [pkg] → stops .meshHopFailure) ∧
   ∀ core layer bank kind, s.args = [core, layer, bank, kind] → core < 2048 → pkgOfCore core = pkg → layer < 8 → bank < 8 →
     ((core, layer, bank, kind) ∈ P.lost → exec .partLoss s = .next s) ∧
     ((core, layer, bank, kind) ∉ P.lost → stops .partLoss ∧
       ∃ t, exec .partLoss s = .next t ∧ (getPkg t pkg).lost = P.lost ++ [(core, layer, bank, kind)]))

/-- R415 to R417, R419: a request of Dormant is refused with its reason or makes every running package dormant; a wake event
starts the wake of each; an access meanwhile is held at its source and is a wake event; and a change of the throttle level
shows in PWRSTAT and INTSTAT. It rests on the model's reading in log entries 11 and 21. -/
def Obligations.DormantAndPower : Prop := ∀ (s : State) (pkg x : Nat), pkg < 4 →
  let P := getPkg s pkg
  let asleep (n : Nat) : Prop := n < 4 ∧ (getPkg s n).st = .dormant
  let quiet := ∀ p ∈ s.agenda, p.2.1 ≠ .wakeFromDormant
  let wakes (t : State) : Prop := t.slots = s.slots ∧ t.mem = s.mem ∧
    (quiet → ∀ n, asleep n → ∃ due f c, s.now < due ∧ (due, Instr.wakeFromDormant, [n, f, c]) ∈ t.agenda)
  let held := ∀ p ∈ s.parts, p.state = 6
  let drained := ∀ n < 4, (getPkg s n).dwq = [] ∧ (getPkg s n).kvq = []
  let noFlash := ∀ n < 4, (getPkg s n).kvWait = none
  let sleeps (why : Nat) : Prop := ∃ t, exec .sleepctl s = .next t ∧ (∀ a, getReg t a = if a = ccWin pkg 0x410 then BitVec.ofNat 64 (why * 256) else getReg s a) ∧
    t.slots = s.slots ∧ t.mem = s.mem ∧ ∀ n < 4, (getPkg t n).st = if why = 0 ∧ (getPkg s n).st = .running then .dormant else (getPkg s n).st
  (s.args = [pkg, 1] → (held → drained → noFlash → sleeps 0) ∧ (¬ held → sleeps 1) ∧ (held → ¬ drained → sleeps 2) ∧
    (held → drained → ¬ noFlash → sleeps 3)) ∧
  (s.args = [pkg, x] → x ≠ 1 → exec .sleepctl s = .next s) ∧
  (s.args = [pkg] → ∃ t, exec .mctpWakeMessage s = .next t ∧ wakes t) ∧
  (∀ mac udp token : W64, s.args = [pkg, mac.toNat, udp.toNat, token.toNat] →
    (mac = Config.wakeMac → udp = Config.wakeUdp → token = Config.wakeToken → ∃ t, exec .wakeFrame s = .next t ∧ wakes t) ∧
    (mac ≠ Config.wakeMac ∨ udp ≠ Config.wakeUdp ∨ token ≠ Config.wakeToken → exec .wakeFrame s = .next s)) ∧
  (∀ (a : Nat) (v : W64) (store : Bool), s.args = [pkg, a, v.toNat, if store then 1 else 0] →
    (P.st = .dormant → (a < ccWin 0 0 ∨ ccWin 4 0 ≤ a ∨ 0x1000000 ≤ a % 0x100000000) →
      ∃ t, exec .dormantAccess s = .next t ∧ wakes t ∧ (getPkg t pkg).dormantHeld = P.dormantHeld ++ [(a, v, store)]) ∧
    (P.st ≠ .dormant → store = true → ∃ t, exec .dormantAccess s = .next t ∧ { t with agenda := s.agenda } = s ∧
      (s.now, Instr.registerWrite, [a, v.toNat, 0]) ∈ t.agenda) ∧
    (P.st ≠ .dormant → store = false → exec .dormantAccess s = .next s)) ∧
  (s.args = [pkg, x] →
    let level (i : Instr) (n : Nat) : Prop := ∃ t, exec i s = .next t ∧ (getPkg t pkg).throttle = n ∧
      getReg t (ccWin pkg 0x400) = BitVec.ofNat 64 (x % 65536 * 256 + n) ∧
      getReg t (ccWin pkg 0) = (if n = P.throttle then getReg s (ccWin pkg 0) else getReg s (ccWin pkg 0) ||| 0x40) ∧ t.slots = s.slots ∧ t.mem = s.mem
    level .throttleRaise (min 7 (P.throttle + 1)) ∧ level .throttleLower (P.throttle - 1))

/-- R423 to R426 and R442: a boundary element sends the flit of the channel whose turn it is, of those that have reached it,
while it has a credit; a good flit in sequence is delivered or passed on with its message, and acknowledged, a bad one is
counted at both ends and sent again, the sixteenth time losing the link; an acknowledgement returns the credits of every flit
up to it. It rests on the model's reading in log entries 13, 51 and 71. R433 to R435: a failing lane degrades both ends of
its link to x8; a lost link stops at both ends and its traffic is rerouted; the end of a reroute releases what waited; and a
package out of service has its corridors broken and every partition with a column there ended. It rests on the model's
reading in log entries 2 and 67. -/
def Obligations.Fabric : Prop :=
  (∀ (s : State) (pkg k : Nat), pkg < 4 → k < 4 →
    let l := getLink s pkg k
    let q := peerPkg pkg k
    let j := peerElem k
    let has (v : Nat) : Prop := (∃ f ∈ (vget [] l.vcq v).head?, f.since ≤ s.now) ∧ 0 < vget 0 l.credits v
    let turn (v : Nat) : Prop := v < 3 ∧ has v ∧ (v ≠ 2 → ¬ has 2) ∧ (v = 1 → ¬ (has 0 ∧ 1 ≤ l.sinceVc0)) ∧ (v = 0 → has 1 → 1 ≤ l.sinceVc0)
    (s.args = [pkg, k] →
      (∀ v f r, l.up = true → turn v → vget [] l.vcq v = f :: r → ∃ t, exec .flitSend s = .next t ∧
        (let m := getLink t pkg k
         vget [] m.vcq v = r ∧ vget 0 m.credits v = vget 0 l.credits v - 1 ∧ m.next = (l.next + 1) % 65536 ∧
         m.held = l.held ++ [{ f with lseq := l.next }] ∧ m.wire = l.wire ++ [{ f with lseq := l.next }] ∧
         ∀ u < 3, u ≠ v → vget [] m.vcq u = vget [] l.vcq u ∧ vget 0 m.credits u = vget 0 l.credits u) ∧
        Listed t .flitReceive [q, j, 1] ∧ (s.now + 1, Instr.flitSend, [pkg, k]) ∈ t.agenda ∧ t.slots = s.slots ∧ t.mem = s.mem) ∧
      (l.up = false ∨ (∀ v < 3, ¬ has v) → exec .flitSend s = .next s)) ∧
    (∀ good f r, s.args = [q, j, good] → l.wire = f :: r →
      let ok := good ≠ 0 ∧ f.typ ≠ 0 ∧ f.typ < 8 ∧ f.vc < 3
      (ok → f.lseq = (getLink s q j).expect → ∃ t, exec .flitReceive s = .next t ∧ (getLink t pkg k).wire = r ∧
        (getLink t q j).expect = (f.lseq + 1) % 65536 ∧
        (f.dstPkg = q → ∀ ev args, f.deliver = some (ev, args) → Listed t ev args) ∧
        (f.dstPkg ≠ q → f.len ≠ 0 → vget [] (getLink t q j).partials f.vc = vget [] (getLink s q j).partials f.vc ++ [f]) ∧
        (∀ g rest, f.dstPkg ≠ q → f.len = 0 → vget [] (getLink s q j).partials f.vc ++ [f] = g :: rest → g.vc < 3 →
          let e := (if j < 2 then 2 else 0) + (g.src + g.dst) % 2
          linkOn s q e = true → (getLink s q e).rerouting = false → vget [] (getLink t q j).partials f.vc = [] ∧
            vget [] (getLink t q e).vcq g.vc = vget [] (getLink s q e).vcq g.vc ++
              (g :: rest).map (fun x => { x with since := s.now + throughCycles j e })) ∧
        Listed t .flitAcknowledgement [pkg, k, f.lseq] ∧ t.slots = s.slots ∧ t.mem = s.mem) ∧
      (ok → f.lseq ≠ (getLink s q j).expect → ∃ t, exec .flitReceive s = .next t ∧ getLink t pkg k = { l with wire := r } ∧ { t with pkgs := s.pkgs } = s) ∧
      (¬ ok → ∃ t, exec .flitReceive s = .next t ∧ getLink t pkg k = { l with resends := l.resends + 1 } ∧
        bits (getReg t (ccWin q (0x508 + 32 * j))) 0 16 = min (bits (getReg s (ccWin q (0x508 + 32 * j))) 0 16 + 1) 0xFFFF ∧
        bits (getReg t (ccWin pkg (0x508 + 32 * k))) 16 16 = min (bits (getReg s (ccWin pkg (0x508 + 32 * k))) 16 16 + 1) 0xFFFF ∧
        (if l.resends + 1 < 16 then Listed t .flitReceive [q, j, 1] else Listed t .linkLost [pkg, k]) ∧ t.slots = s.slots ∧ t.mem = s.mem)) ∧
    (∀ a f b, s.args = [pkg, k, f.lseq] → l.held = a ++ f :: b → (∀ x ∈ a, x.lseq ≠ f.lseq) → ∃ t, exec .flitAcknowledgement s = .next t ∧
      (let m := getLink t pkg k
       m.held = b ∧ m.resends = 0 ∧ m.vcq = l.vcq ∧ m.wire = l.wire ∧
       ∀ v < 3, vget 0 m.credits v = vget 0 l.credits v + ((a ++ [f]).filter (fun x => x.vc == v)).length) ∧
      Listed t .flitSend [pkg, k] ∧ t.slots = s.slots ∧ t.mem = s.mem) ∧
    (∀ n, s.args = [pkg, k, n] → (∀ f ∈ l.held, f.lseq ≠ n) → exec .flitAcknowledgement s = .next s)) ∧
  (∀ (s : State) (pkg k : Nat), pkg < 4 → k < 4 →
    let l := getLink s pkg k
    let q := peerPkg pkg k
    let j := peerElem k
    (s.args = [pkg, k] →
      (l.up = true → ∃ t, exec .laneFailure s = .next t ∧ getLink t pkg k = { l with width := 1 } ∧
        getLink t q j = { getLink s q j with width := 1 } ∧ t.slots = s.slots ∧ t.cores = s.cores) ∧
      (l.up = false → exec .laneFailure s = .next s ∧ exec .linkLost s = .next s) ∧
      (l.up = true → ∃ t, exec .linkLost s = .next t ∧ t.slots = s.slots ∧ t.cores = s.cores ∧
        (∀ e ∈ [(pkg, k), (q, j)], (getLink t e.1 e.2).up = false ∧ (getLink t e.1 e.2).rerouted = true ∧ (getLink t e.1 e.2).rerouting = true ∧
          (getLink t e.1 e.2).wire = [] ∧ (getLink t e.1 e.2).held = [] ∧ Listed t .rerouteComplete [e.1, e.2])) ∧
      (∃ t, exec .rerouteComplete s = .next t ∧ (getLink t pkg k).rerouting = false ∧ (getLink t pkg k).waiting = [] ∧ t.slots = s.slots ∧
        t.mem = s.mem ∧ (l.rerouted = false → ∀ v < 3, vget [] (getLink t pkg k).vcq v = vget [] l.vcq v ++ l.waiting.filter (fun f => f.vc == v)))) ∧
    (s.args = [pkg] → ∃ t, exec .packageOutOfService s = .next t ∧ (getPkg t pkg).inService = false ∧
      (∀ c ∈ t.corrs, pkgOfCore c.2.home = pkg → c.2.broken = true) ∧
      ∀ p ∈ s.parts, p.parent = 0 → p.state ≠ 8 → (∃ c ∈ regionCols p, pkgOfCol c = pkg) → findPart s p.rcb = some p → findPart t p.rcb = none))

/-- R32, R42 and Tables 2-3 to 2-13: words written out field by field are the instructions they stand for, and the words that
R55 names are none. -/
def Obligations.DecodedWords : Prop :=
  decode 0b01000000100011001000010100000000#32 = .ok (.add 2 3 4 5) ∧
  decode 0b00000001001010010111111111111101#32 = .ok (.addi 0 10 11 8189) ∧
  decode 0b00000010100001000101000111001001#32 = .ok (.bfi 0 1 2 7 9) ∧
  decode 0b00000011100001111111111111111111#32 = .ok (.jal 0 1 262143) ∧
  decode 0b00001000000100001011111111111000#32 = .ok (.ld 0 4 5 3 2040) ∧
  decode 0b00001100000001000100001110011010#32 = .ok (.amoCas 0 1 2 3 2 1) ∧
  decode 0b00101110100000000000000000001011#32 = .ok (.fenceDie 1) ∧
  decode 0b00010010000001000100001110000001#32 = .ok (.vsub 0 4 1 2 3 4) ∧
  decode 0b00010110000001000100001100100100#32 = .ok (.vfnmaF16 0 1 2 3 4) ∧
  decode 0b00011000000110000010001000000000#32 = .ok (.mgang 0 1 2) ∧
  decode 0b00011100000000000010001000000000#32 = .ok (.gpatch 0 1 2) ∧
  decode 0b00011110100010000010011100000000#32 = .ok (.hread 0 1 7) ∧
  decode 0x0C814B39 = .ok (.amsend 0 10 11 3 1 1) ∧
  (decode 0).toOption = none ∧ (decode 0xFFFFFFFF).toOption = none

/-- R32, R42 to R55: the encoder and the decoder agree. Every well-formed instruction word decodes to the instruction it
encodes, and every word that decodes is the word of a well-formed instruction, so that no two words are one instruction and a
word of R55 is none. -/
def Obligations.EncodingRoundTrip : Prop :=
  (∀ i : Instr, i.isWord = true → i.wf = true → decode (encode i) = .ok i) ∧
  ∀ (w : W32) (i : Instr), decode w = .ok i → i.isWord = true ∧ i.wf = true ∧ encode i = w

/-- R30, R32, R36, R55, R109, R152 and R159: a step in which no step of the hardware comes first gives the next ready slot
its turn: the word at its pc, in its fetch buffer or fetched from a home that allows it, is decoded; an illegal word traps
ILL with the word, one that the handler slot forbids ILL; a legal one that waits for nothing is executed, and the core's next
instruction issues in a later cycle. The end of a drain comes behind the cycle's instructions (log entry 70). It rests on the
model's reading in log entries 14 and 27. -/
def Obligations.StepRunsTheDecodedInstruction : Prop := ∀ (s : State) (core slot : Nat),
  (∀ p ∈ s.agenda.head?, s.now < p.1 ∨ endsCycle p.2.1 = true) → pickSlot s = some (core, slot) → slot < 5 →
  let b := beginTurn s core slot
  let t := me b
  (slot = 4 → (getSlot b core 4).hcount < 256) →
  ∀ (word : W32) (c : State),
    (c = b ∧ ∃ p, t.fbuf.find? (fun p => p.1 == t.pc.toNat) = some p ∧ p.2 = word) ∨
    (t.fbuf.find? (fun p => p.1 == t.pc.toNat) = none ∧ ∃ pa perms d, xlate b (pkgOfCore core) core (partOf b t.part) t.pc.toNat = (.ok pa perms, d) ∧
      permits perms 4 (lvlOf t) = true ∧ fetchBarred d t pa = false ∧ errOf d pa t.pc = none ∧
      (dwordAt d pa).toNat / 2 ^ (8 * (pa % 8)) % 2 ^ 32 = word.toNat ∧ c = noteRead d pa) →
  let f := modMe (noteNext c core (me c)) (fun u => { u with fbuf := refill c core u word })
  let u0 := me f
  (∀ e, decode word = .error e → step s = .next (afterIssue (trapHere f 0x01 0 (word.setWidth 64)))) ∧
  (∀ i, decode word = .ok i → slot = 4 → handlerForbids i = true → step s = .next (afterIssue (trapHere f 0x01 0 0))) ∧
  ∀ i, decode word = .ok i → (slot = 4 → handlerForbids i = false) → u0.pend = [] → (slot = 4 ∨ u0.present = 0xFF) →
    (u0.w7 = true → (myCore f).csrPend = []) → (waitsForFlags i = true → u0.flagDue ≤ s.now ∧ ∀ x ∈ (myCore f).chim, x.slot ≠ slot) →
    regIndexOf u0 i = none → mrdIndexOf f i = none → u0.records = [] → u0.errs = [] →
    ∀ u, exec i f = .next u → step s = .next (finishInstr i false u) ∧ (let v := finishInstr i false u
      v.now = u.now ∧ v.mem = u.mem ∧ v.wregs = u.wregs ∧ v.issued = false ∧ (u.issued = false → v = u) ∧
      (u.issued = true → v.ver = u.ver + 1 ∧ (getCore v u.curCore).nextIssue = u.now + 1 ∧
        ∀ k < 5, (getSlot v u.curCore k).x = (getSlot u u.curCore k).x ∧ (getSlot v u.curCore k).v = (getSlot u u.curCore k).v ∧
          (getSlot v u.curCore k).pc = (getSlot u u.curCore k).pc ∧ (getSlot v u.curCore k).status = (getSlot u u.curCore k).status))

/-- The order of the model's steps (log entries 4 and 14; R30 for an instruction's turn): every instruction and every step of
the hardware completes in the cycle it is performed in, every step goes on, and time passes only in a step in which nothing
is due and no slot can issue. -/
def Obligations.EveryStepGoesOn : Prop :=
  (∀ (i : Instr) (s : State), ∃ t, exec i s = .next t ∧ t.now = s.now) ∧
  ∀ s : State, ∃ t, step s = .next t ∧ s.now ≤ t.now ∧
    (s.now < t.now → (∀ p ∈ s.agenda.head?, s.now < p.1) ∧ pickSlot s = none)

/-- Memory keeps its canonical form in every step: addresses strictly rise and no listed byte is 0, what an unlisted byte
reads as (log entry 3). -/
def Obligations.MemoryStaysCanonical : Prop := ∀ s t : State, MemCanonical s → step s = .next t → MemCanonical t

/-- The machine right after cold start, as the register tables give it: memory canonical and empty, every slot FREE with
STATUS, trap and mode registers 0 (the handler at system level), every core in service with ATTCAP and PANTRY at the slice's
end, FOYERCTL and DWSTAT at their reset values, no partition, no port bound, no queue holding anything. The registers' values
that no rule gives are the model's choice, log entry 1. -/
def Obligations.ResetState : Prop :=
  let s := State.reset
  MemCanonical s ∧ (∀ x, memByte s x = 0) ∧ s.parts = [] ∧ s.corrs = [] ∧ s.flights = [] ∧ s.agenda = [] ∧
  (∀ c k, k < 5 → let t := getSlot s c k
    t.st = .free ∧ t.status = (if k = 4 then 1 else 0) ∧ t.trapcause = 0 ∧ t.trappc = 0 ∧ t.trapval = 0 ∧ t.waitchk = 0 ∧ t.rndmode = 0 ∧
      t.flags = 0 ∧ t.records = [] ∧ t.errs = []) ∧
  (∀ c < 2048, inSvc s c = true ∧ attcap s c = 0x1800000 ∧ pantry s c = 0x1800000 ∧ regionOf s c = 0 ∧ (getCore s c).spillbase = 0) ∧
  ∀ p < 4, getReg s (dieWin p 0 0) = 0x100008 ∧ getReg s (dieWin p 2 0x18) = 0xF00 ∧ getReg s (ccWin p 0) = 0 ∧
    (getPkg s p).inService = true ∧ (∀ n < 4, (getPort s p n).part = none) ∧ (getPkg s p).dwq = [] ∧ (getPkg s p).kvq = [] ∧
    (getPkg s p).mbin = [] ∧ (getPkg s p).mbout = []
end

