-- ==== Sys2Proof/Laws/Lists.lean ====
section
/-! SUPPORT. Reading a keyed list after a write or a deletion. -/
namespace Sys2Proof

@[simp] theorem FMap.get_ins_same {α : Type} (d v : α) (m : FMap α) (k : Nat) :
    FMap.get d (FMap.ins m k v) k = v := by
  induction m with
  | nil => simp [FMap.ins, FMap.get]
  | cons p m ih =>
    simp only [FMap.ins]
    split
    · simp [FMap.get]
    · split
      · simp [FMap.get]
      · simp [FMap.get, *]

theorem FMap.get_ins_other {α : Type} (d v : α) (m : FMap α) {k j : Nat} (h : k ≠ j) :
    FMap.get d (FMap.ins m k v) j = FMap.get d m j := by
  induction m with
  | nil => simp [FMap.ins, FMap.get, h]
  | cons p m ih =>
    simp only [FMap.ins]
    split
    · rename_i e; simp [FMap.get, ← e, e ▸ h]
    · split
      · simp [FMap.get, h]
      · simp [FMap.get, ih]

@[simp] theorem FMap.find_ins_same {α : Type} (v : α) (m : FMap α) (k : Nat) :
    FMap.find (FMap.ins m k v) k = some v := by
  induction m with
  | nil => simp [FMap.ins, FMap.find]
  | cons p m ih =>
    simp only [FMap.ins]
    split
    · simp [FMap.find]
    · split
      · simp [FMap.find]
      · simp [FMap.find, *]

theorem FMap.find_ins_other {α : Type} (v : α) (m : FMap α) {k j : Nat} (h : k ≠ j) :
    FMap.find (FMap.ins m k v) j = FMap.find m j := by
  induction m with
  | nil => simp [FMap.ins, FMap.find, h]
  | cons p m ih =>
    simp only [FMap.ins]
    split
    · rename_i e; simp [FMap.find, ← e, e ▸ h]
    · split
      · simp [FMap.find, h]
      · simp [FMap.find, ih]

@[simp] theorem FMap.get_del_same {α : Type} (d : α) (m : FMap α) (k : Nat) : FMap.get d (FMap.del m k) k = d := by
  induction m with
  | nil => simp [FMap.del, FMap.get]
  | cons p m ih =>
    simp only [FMap.del]
    split
    · exact ih
    · simp [FMap.get, *]

theorem FMap.get_del_other {α : Type} (d : α) (m : FMap α) {k j : Nat} (h : k ≠ j) :
    FMap.get d (FMap.del m k) j = FMap.get d m j := by
  induction m with
  | nil => simp [FMap.del]
  | cons p m ih =>
    simp only [FMap.del]
    split
    · rename_i e; simp [FMap.get, e, h, ih]
    · simp [FMap.get, ih]

@[simp] theorem FMap.find_del_same {α : Type} (m : FMap α) (k : Nat) : FMap.find (FMap.del m k) k = none := by
  induction m with
  | nil => simp [FMap.del, FMap.find]
  | cons p m ih =>
    simp only [FMap.del]
    split
    · exact ih
    · simp [FMap.find, *]

theorem FMap.find_del_other {α : Type} (m : FMap α) {k j : Nat} (h : k ≠ j) :
    FMap.find (FMap.del m k) j = FMap.find m j := by
  induction m with
  | nil => simp [FMap.del]
  | cons p m ih =>
    simp only [FMap.del]
    split
    · rename_i e; simp [FMap.find, e, h, ih]
    · simp [FMap.find, ih]

end Sys2Proof
end

