-- ==== Sys2Proof/Laws/Memory.lean ====
section
/-! SUPPORT. Memory: a byte read after a write, and the canonical form that every memory operation keeps. -/
namespace Sys2Proof.Machine
open Sys2Proof

/-! ### Reading after writing -/

@[simp] theorem memByte_putByte_same (s : State) (pa : Nat) (b : Byte) : memByte (putByte s pa b) pa = b := by
  simp only [memByte, putByte, memSet]
  split
  · rename_i h; rw [FMap.get_del_same]; exact h.symm
  · rw [FMap.get_ins_same]

theorem memByte_putByte_other (s : State) {pa a : Nat} (b : Byte) (h : pa ≠ a) :
    memByte (putByte s pa b) a = memByte s a := by
  simp only [memByte, putByte, memSet]
  split
  · rw [FMap.get_del_other _ _ h]
  · rw [FMap.get_ins_other _ _ _ h]

/-- Every byte of memory after `n` bytes are written at an address. -/
theorem memByte_wrN (n : Nat) : ∀ (s : State) (pa v a : Nat),
    memByte (wrN s pa n v) a = if pa ≤ a ∧ a < pa + n then BitVec.ofNat 8 (v / 256 ^ (a - pa)) else memByte s a := by
  induction n with
  | zero => intro s pa v a; simp only [wrN]; rw [if_neg (by omega)]
  | succ n ih =>
    intro s pa v a
    simp only [wrN, ih]
    by_cases h : pa = a
    · subst h; rw [if_neg (by omega), if_pos (by omega)]; simp
    · rw [memByte_putByte_other _ _ h]
      by_cases h2 : pa + 1 ≤ a ∧ a < pa + 1 + n
      · rw [if_pos h2, if_pos (by omega), Nat.div_div_eq_div_mul]
        have : a - pa = (a - (pa + 1)) + 1 := by omega
        rw [this, Nat.pow_succ, Nat.mul_comm]
      · rw [if_neg h2, if_neg (by omega)]

theorem memByte_wrN_other (s : State) {pa n v a : Nat} (h : a < pa ∨ pa + n ≤ a) :
    memByte (wrN s pa n v) a = memByte s a := by
  rw [memByte_wrN, if_neg (by omega)]

/-- Reading depends on the bytes of the range alone. -/
theorem rdN_congr (n : Nat) : ∀ (s t : State) (pa : Nat), (∀ a, pa ≤ a → a < pa + n → memByte s a = memByte t a) →
    rdN s pa n = rdN t pa n := by
  induction n with
  | zero => intros; rfl
  | succ n ih =>
    intro s t pa h
    simp only [rdN]
    rw [h pa (by omega) (by omega), ih s t (pa + 1) (fun a h1 h2 => h a (by omega) (by omega))]

/-- What was written is read back. -/
theorem rdN_wrN_same (n : Nat) : ∀ (s : State) (pa v : Nat), rdN (wrN s pa n v) pa n = v % 256 ^ n := by
  induction n with
  | zero => intro s pa v; simp [rdN, Nat.mod_one]
  | succ n ih =>
    intro s pa v
    simp only [rdN, wrN]
    rw [memByte_wrN_other _ (by omega), memByte_putByte_same, ih]
    rw [BitVec.toNat_ofNat, show (256 : Nat) ^ (n + 1) = 256 * 256 ^ n by rw [Nat.pow_succ, Nat.mul_comm], Nat.mod_mul]

theorem rdN_wrN_other (s : State) {pa n v qa m : Nat} (h : qa + m ≤ pa ∨ pa + n ≤ qa) :
    rdN (wrN s pa n v) qa m = rdN s qa m :=
  rdN_congr m _ _ _ (fun a h1 h2 => memByte_wrN_other s (by omega))

theorem rdN_lt (s : State) (n : Nat) : ∀ pa, rdN s pa n < 256 ^ n := by
  induction n with
  | zero => intro pa; simp [rdN]
  | succ n ih =>
    intro pa
    simp only [rdN, Nat.pow_succ]
    have := ih (pa + 1)
    have := (memByte s pa).isLt
    omega

/-! ### What a write of memory leaves -/

/-- Writing bytes changes memory alone. -/
theorem wrN_frame (n : Nat) : ∀ (s : State) (pa v : Nat), { wrN s pa n v with mem := s.mem } = s := by
  induction n with
  | zero => intros; rfl
  | succ n ih =>
    intro s pa v
    simp only [wrN]
    have h := ih (putByte s pa (BitVec.ofNat 8 v)) (pa + 1) (v / 256)
    have h2 := congrArg (fun t : State => { t with mem := s.mem }) h
    exact h2

/-! ### The canonical form -/

/-- All addresses of a memory list lie above a bound. -/
def MemAbove (k : Nat) : List Host.Cell → Prop
  | [] => True
  | (a, _) :: r => k < a ∧ MemAbove k r

theorem memWf_cons (a : Nat) (b : Byte) (m : List Host.Cell) :
    memWf ((a, b) :: m) = true ↔ b ≠ 0 ∧ MemAbove a m ∧ memWf m = true := by
  induction m generalizing a b with
  | nil => simp [memWf, MemAbove]
  | cons p m ih =>
    obtain ⟨a', b'⟩ := p
    have mono : ∀ (l : List Host.Cell), a < a' → MemAbove a' l → MemAbove a l := by
      intro l; induction l with
      | nil => intros; trivial
      | cons q l ihl => intro h1 h2; exact ⟨Nat.lt_trans h1 h2.1, ihl h1 h2.2⟩
    simp only [memWf, Bool.and_eq_true, bne_iff_ne, ne_eq, decide_eq_true_eq, MemAbove]
    constructor
    · rintro ⟨⟨h1, h2⟩, h3⟩
      exact ⟨h1, ⟨h2, mono m h2 ((ih a' b').1 h3).2.1⟩, h3⟩
    · rintro ⟨h1, ⟨h2, _⟩, h3⟩
      exact ⟨⟨h1, h2⟩, h3⟩

theorem memAbove_ins (k : Nat) (m : List Host.Cell) {a : Nat} (b : Byte) (h : k < a) (hm : MemAbove k m) :
    MemAbove k (FMap.ins m a b) := by
  induction m with
  | nil => exact ⟨h, trivial⟩
  | cons p m ih =>
    simp only [FMap.ins]
    split
    · exact ⟨h, hm.2⟩
    · split
      · exact ⟨h, hm⟩
      · exact ⟨hm.1, ih hm.2⟩

theorem memAbove_del (k : Nat) (m : List Host.Cell) (a : Nat) (hm : MemAbove k m) : MemAbove k (FMap.del m a) := by
  induction m with
  | nil => trivial
  | cons p m ih =>
    simp only [FMap.del]
    split
    · exact ih hm.2
    · exact ⟨hm.1, ih hm.2⟩

theorem memAbove_mono {j k : Nat} (m : List Host.Cell) (h : j ≤ k) (hm : MemAbove k m) : MemAbove j m := by
  induction m with
  | nil => trivial
  | cons p m ih => exact ⟨Nat.lt_of_le_of_lt h hm.1, ih hm.2⟩

theorem memWf_ins (m : List Host.Cell) (a : Nat) {b : Byte} (hb : b ≠ 0) (hm : memWf m = true) :
    memWf (FMap.ins m a b) = true := by
  induction m with
  | nil => simpa [FMap.ins, memWf] using hb
  | cons p m ih =>
    obtain ⟨a', b'⟩ := p
    rw [memWf_cons] at hm
    simp only [FMap.ins]
    split
    · rename_i e; subst e; exact (memWf_cons _ _ _).2 ⟨hb, hm.2⟩
    · split
      · rename_i h; exact (memWf_cons _ _ _).2 ⟨hb, ⟨h, memAbove_mono m (Nat.le_of_lt h) hm.2.1⟩, (memWf_cons _ _ _).2 hm⟩
      · exact (memWf_cons _ _ _).2 ⟨hm.1, memAbove_ins _ _ _ (by omega) hm.2.1, ih hm.2.2⟩

theorem memWf_del (m : List Host.Cell) (a : Nat) (hm : memWf m = true) : memWf (FMap.del m a) = true := by
  induction m with
  | nil => rfl
  | cons p m ih =>
    obtain ⟨a', b'⟩ := p
    rw [memWf_cons] at hm
    simp only [FMap.del]
    split
    · exact ih hm.2.2
    · exact (memWf_cons _ _ _).2 ⟨hm.1, memAbove_del _ _ _ hm.2.1, ih hm.2.2⟩

/-- Writing a byte keeps the canonical form. -/
theorem memWf_memSet (m : List Host.Cell) (pa : Nat) (b : Byte) (hm : memWf m = true) : memWf (memSet m pa b) = true := by
  simp only [memSet]
  split
  · exact memWf_del m pa hm
  · rename_i h; exact memWf_ins m pa h hm

theorem memWf_wrN (n : Nat) : ∀ (s : State) (pa v : Nat), memWf s.mem = true → memWf (wrN s pa n v).mem = true := by
  induction n with
  | zero => intro s pa v h; exact h
  | succ n ih => intro s pa v h; exact ih _ _ _ (memWf_memSet _ _ _ h)

theorem memWf_wrBytes (l : List Byte) : ∀ (s : State) (pa : Nat), memWf s.mem = true → memWf (wrBytes s pa l).mem = true := by
  induction l with
  | nil => intro s pa h; exact h
  | cons b l ih => intro s pa h; exact ih _ _ (memWf_memSet _ _ _ h)

theorem freshDword_mem (s : State) (pa : Nat) : (freshDword s pa).mem = s.mem := by
  unfold freshDword; repeat' split
  all_goals rfl

theorem memWf_putDword (s : State) (pa : Nat) (v : W64) (h : memWf s.mem = true) : memWf (putDword s pa v).mem = true :=
  memWf_wrN _ _ _ _ (by rw [freshDword_mem]; exact h)

theorem memWf_putPoison (s : State) (pa : Nat) (v : W64) (h : memWf s.mem = true) : memWf (putPoison s pa v).mem = true :=
  memWf_wrN _ _ _ _ h

theorem memWf_putAcc (s : State) (c e : Nat) (v : BitVec 128) (h : memWf s.mem = true) : memWf (putAcc s c e v).mem = true :=
  memWf_wrN _ _ _ _ h

end Sys2Proof.Machine
end

