-- ==== Sys2Proof/Laws/State.lean ====
section
/-! SUPPORT. What each update of the state leaves as it is, one lemma per field and update. -/
namespace Sys2Proof.Machine
open Sys2Proof

/-! ### `setSlot` changes `slots` alone -/

@[simp] theorem setSlot_now (s : State) (c k : Nat) (t : Slot) : (setSlot s c k t).now = s.now := rfl
@[simp] theorem setSlot_ver (s : State) (c k : Nat) (t : Slot) : (setSlot s c k t).ver = s.ver := rfl
@[simp] theorem setSlot_nextId (s : State) (c k : Nat) (t : Slot) : (setSlot s c k t).nextId = s.nextId := rfl
@[simp] theorem setSlot_freeCtr (s : State) (c k : Nat) (t : Slot) : (setSlot s c k t).freeCtr = s.freeCtr := rfl
@[simp] theorem setSlot_issued (s : State) (c k : Nat) (t : Slot) : (setSlot s c k t).issued = s.issued := rfl
@[simp] theorem setSlot_curCore (s : State) (c k : Nat) (t : Slot) : (setSlot s c k t).curCore = s.curCore := rfl
@[simp] theorem setSlot_curSlot (s : State) (c k : Nat) (t : Slot) : (setSlot s c k t).curSlot = s.curSlot := rfl
@[simp] theorem setSlot_args (s : State) (c k : Nat) (t : Slot) : (setSlot s c k t).args = s.args := rfl
@[simp] theorem setSlot_agenda (s : State) (c k : Nat) (t : Slot) : (setSlot s c k t).agenda = s.agenda := rfl
@[simp] theorem setSlot_script (s : State) (c k : Nat) (t : Slot) : (setSlot s c k t).script = s.script := rfl
@[simp] theorem setSlot_mem (s : State) (c k : Nat) (t : Slot) : (setSlot s c k t).mem = s.mem := rfl
@[simp] theorem setSlot_localBad (s : State) (c k : Nat) (t : Slot) : (setSlot s c k t).localBad = s.localBad := rfl
@[simp] theorem setSlot_syn (s : State) (c k : Nat) (t : Slot) : (setSlot s c k t).syn = s.syn := rfl
@[simp] theorem setSlot_accBad (s : State) (c k : Nat) (t : Slot) : (setSlot s c k t).accBad = s.accBad := rfl
@[simp] theorem setSlot_wregs (s : State) (c k : Nat) (t : Slot) : (setSlot s c k t).wregs = s.wregs := rfl
@[simp] theorem setSlot_cores (s : State) (c k : Nat) (t : Slot) : (setSlot s c k t).cores = s.cores := rfl
@[simp] theorem setSlot_cols (s : State) (c k : Nat) (t : Slot) : (setSlot s c k t).cols = s.cols := rfl
@[simp] theorem setSlot_pkgs (s : State) (c k : Nat) (t : Slot) : (setSlot s c k t).pkgs = s.pkgs := rfl
@[simp] theorem setSlot_parts (s : State) (c k : Nat) (t : Slot) : (setSlot s c k t).parts = s.parts := rfl
@[simp] theorem setSlot_frameSlots (s : State) (c k : Nat) (t : Slot) : (setSlot s c k t).frameSlots = s.frameSlots := rfl
@[simp] theorem setSlot_frameCores (s : State) (c k : Nat) (t : Slot) : (setSlot s c k t).frameCores = s.frameCores := rfl
@[simp] theorem setSlot_frameRegs (s : State) (c k : Nat) (t : Slot) : (setSlot s c k t).frameRegs = s.frameRegs := rfl
@[simp] theorem setSlot_atticFrames (s : State) (c k : Nat) (t : Slot) : (setSlot s c k t).atticFrames = s.atticFrames := rfl
@[simp] theorem setSlot_images (s : State) (c k : Nat) (t : Slot) : (setSlot s c k t).images = s.images := rfl
@[simp] theorem setSlot_corrs (s : State) (c k : Nat) (t : Slot) : (setSlot s c k t).corrs = s.corrs := rfl
@[simp] theorem setSlot_flights (s : State) (c k : Nat) (t : Slot) : (setSlot s c k t).flights = s.flights := rfl
@[simp] theorem setSlot_lastArr (s : State) (c k : Nat) (t : Slot) : (setSlot s c k t).lastArr = s.lastArr := rfl

/-! ### `modSlot` changes `slots` alone -/

@[simp] theorem modSlot_now (s : State) (c k : Nat) (f : Slot → Slot) : (modSlot s c k f).now = s.now := rfl
@[simp] theorem modSlot_ver (s : State) (c k : Nat) (f : Slot → Slot) : (modSlot s c k f).ver = s.ver := rfl
@[simp] theorem modSlot_nextId (s : State) (c k : Nat) (f : Slot → Slot) : (modSlot s c k f).nextId = s.nextId := rfl
@[simp] theorem modSlot_freeCtr (s : State) (c k : Nat) (f : Slot → Slot) : (modSlot s c k f).freeCtr = s.freeCtr := rfl
@[simp] theorem modSlot_issued (s : State) (c k : Nat) (f : Slot → Slot) : (modSlot s c k f).issued = s.issued := rfl
@[simp] theorem modSlot_curCore (s : State) (c k : Nat) (f : Slot → Slot) : (modSlot s c k f).curCore = s.curCore := rfl
@[simp] theorem modSlot_curSlot (s : State) (c k : Nat) (f : Slot → Slot) : (modSlot s c k f).curSlot = s.curSlot := rfl
@[simp] theorem modSlot_args (s : State) (c k : Nat) (f : Slot → Slot) : (modSlot s c k f).args = s.args := rfl
@[simp] theorem modSlot_agenda (s : State) (c k : Nat) (f : Slot → Slot) : (modSlot s c k f).agenda = s.agenda := rfl
@[simp] theorem modSlot_script (s : State) (c k : Nat) (f : Slot → Slot) : (modSlot s c k f).script = s.script := rfl
@[simp] theorem modSlot_mem (s : State) (c k : Nat) (f : Slot → Slot) : (modSlot s c k f).mem = s.mem := rfl
@[simp] theorem modSlot_localBad (s : State) (c k : Nat) (f : Slot → Slot) : (modSlot s c k f).localBad = s.localBad := rfl
@[simp] theorem modSlot_syn (s : State) (c k : Nat) (f : Slot → Slot) : (modSlot s c k f).syn = s.syn := rfl
@[simp] theorem modSlot_accBad (s : State) (c k : Nat) (f : Slot → Slot) : (modSlot s c k f).accBad = s.accBad := rfl
@[simp] theorem modSlot_wregs (s : State) (c k : Nat) (f : Slot → Slot) : (modSlot s c k f).wregs = s.wregs := rfl
@[simp] theorem modSlot_cores (s : State) (c k : Nat) (f : Slot → Slot) : (modSlot s c k f).cores = s.cores := rfl
@[simp] theorem modSlot_cols (s : State) (c k : Nat) (f : Slot → Slot) : (modSlot s c k f).cols = s.cols := rfl
@[simp] theorem modSlot_pkgs (s : State) (c k : Nat) (f : Slot → Slot) : (modSlot s c k f).pkgs = s.pkgs := rfl
@[simp] theorem modSlot_parts (s : State) (c k : Nat) (f : Slot → Slot) : (modSlot s c k f).parts = s.parts := rfl
@[simp] theorem modSlot_frameSlots (s : State) (c k : Nat) (f : Slot → Slot) : (modSlot s c k f).frameSlots = s.frameSlots := rfl
@[simp] theorem modSlot_frameCores (s : State) (c k : Nat) (f : Slot → Slot) : (modSlot s c k f).frameCores = s.frameCores := rfl
@[simp] theorem modSlot_frameRegs (s : State) (c k : Nat) (f : Slot → Slot) : (modSlot s c k f).frameRegs = s.frameRegs := rfl
@[simp] theorem modSlot_atticFrames (s : State) (c k : Nat) (f : Slot → Slot) : (modSlot s c k f).atticFrames = s.atticFrames := rfl
@[simp] theorem modSlot_images (s : State) (c k : Nat) (f : Slot → Slot) : (modSlot s c k f).images = s.images := rfl
@[simp] theorem modSlot_corrs (s : State) (c k : Nat) (f : Slot → Slot) : (modSlot s c k f).corrs = s.corrs := rfl
@[simp] theorem modSlot_flights (s : State) (c k : Nat) (f : Slot → Slot) : (modSlot s c k f).flights = s.flights := rfl
@[simp] theorem modSlot_lastArr (s : State) (c k : Nat) (f : Slot → Slot) : (modSlot s c k f).lastArr = s.lastArr := rfl

/-! ### `modMe` changes `slots` alone -/

@[simp] theorem modMe_now (s : State) (f : Slot → Slot) : (modMe s f).now = s.now := rfl
@[simp] theorem modMe_ver (s : State) (f : Slot → Slot) : (modMe s f).ver = s.ver := rfl
@[simp] theorem modMe_nextId (s : State) (f : Slot → Slot) : (modMe s f).nextId = s.nextId := rfl
@[simp] theorem modMe_freeCtr (s : State) (f : Slot → Slot) : (modMe s f).freeCtr = s.freeCtr := rfl
@[simp] theorem modMe_issued (s : State) (f : Slot → Slot) : (modMe s f).issued = s.issued := rfl
@[simp] theorem modMe_curCore (s : State) (f : Slot → Slot) : (modMe s f).curCore = s.curCore := rfl
@[simp] theorem modMe_curSlot (s : State) (f : Slot → Slot) : (modMe s f).curSlot = s.curSlot := rfl
@[simp] theorem modMe_args (s : State) (f : Slot → Slot) : (modMe s f).args = s.args := rfl
@[simp] theorem modMe_agenda (s : State) (f : Slot → Slot) : (modMe s f).agenda = s.agenda := rfl
@[simp] theorem modMe_script (s : State) (f : Slot → Slot) : (modMe s f).script = s.script := rfl
@[simp] theorem modMe_mem (s : State) (f : Slot → Slot) : (modMe s f).mem = s.mem := rfl
@[simp] theorem modMe_localBad (s : State) (f : Slot → Slot) : (modMe s f).localBad = s.localBad := rfl
@[simp] theorem modMe_syn (s : State) (f : Slot → Slot) : (modMe s f).syn = s.syn := rfl
@[simp] theorem modMe_accBad (s : State) (f : Slot → Slot) : (modMe s f).accBad = s.accBad := rfl
@[simp] theorem modMe_wregs (s : State) (f : Slot → Slot) : (modMe s f).wregs = s.wregs := rfl
@[simp] theorem modMe_cores (s : State) (f : Slot → Slot) : (modMe s f).cores = s.cores := rfl
@[simp] theorem modMe_cols (s : State) (f : Slot → Slot) : (modMe s f).cols = s.cols := rfl
@[simp] theorem modMe_pkgs (s : State) (f : Slot → Slot) : (modMe s f).pkgs = s.pkgs := rfl
@[simp] theorem modMe_parts (s : State) (f : Slot → Slot) : (modMe s f).parts = s.parts := rfl
@[simp] theorem modMe_frameSlots (s : State) (f : Slot → Slot) : (modMe s f).frameSlots = s.frameSlots := rfl
@[simp] theorem modMe_frameCores (s : State) (f : Slot → Slot) : (modMe s f).frameCores = s.frameCores := rfl
@[simp] theorem modMe_frameRegs (s : State) (f : Slot → Slot) : (modMe s f).frameRegs = s.frameRegs := rfl
@[simp] theorem modMe_atticFrames (s : State) (f : Slot → Slot) : (modMe s f).atticFrames = s.atticFrames := rfl
@[simp] theorem modMe_images (s : State) (f : Slot → Slot) : (modMe s f).images = s.images := rfl
@[simp] theorem modMe_corrs (s : State) (f : Slot → Slot) : (modMe s f).corrs = s.corrs := rfl
@[simp] theorem modMe_flights (s : State) (f : Slot → Slot) : (modMe s f).flights = s.flights := rfl
@[simp] theorem modMe_lastArr (s : State) (f : Slot → Slot) : (modMe s f).lastArr = s.lastArr := rfl

/-! ### `setCore` changes `cores` alone -/

@[simp] theorem setCore_now (s : State) (c : Nat) (x : Core) : (setCore s c x).now = s.now := rfl
@[simp] theorem setCore_ver (s : State) (c : Nat) (x : Core) : (setCore s c x).ver = s.ver := rfl
@[simp] theorem setCore_nextId (s : State) (c : Nat) (x : Core) : (setCore s c x).nextId = s.nextId := rfl
@[simp] theorem setCore_freeCtr (s : State) (c : Nat) (x : Core) : (setCore s c x).freeCtr = s.freeCtr := rfl
@[simp] theorem setCore_issued (s : State) (c : Nat) (x : Core) : (setCore s c x).issued = s.issued := rfl
@[simp] theorem setCore_curCore (s : State) (c : Nat) (x : Core) : (setCore s c x).curCore = s.curCore := rfl
@[simp] theorem setCore_curSlot (s : State) (c : Nat) (x : Core) : (setCore s c x).curSlot = s.curSlot := rfl
@[simp] theorem setCore_args (s : State) (c : Nat) (x : Core) : (setCore s c x).args = s.args := rfl
@[simp] theorem setCore_agenda (s : State) (c : Nat) (x : Core) : (setCore s c x).agenda = s.agenda := rfl
@[simp] theorem setCore_script (s : State) (c : Nat) (x : Core) : (setCore s c x).script = s.script := rfl
@[simp] theorem setCore_mem (s : State) (c : Nat) (x : Core) : (setCore s c x).mem = s.mem := rfl
@[simp] theorem setCore_localBad (s : State) (c : Nat) (x : Core) : (setCore s c x).localBad = s.localBad := rfl
@[simp] theorem setCore_syn (s : State) (c : Nat) (x : Core) : (setCore s c x).syn = s.syn := rfl
@[simp] theorem setCore_accBad (s : State) (c : Nat) (x : Core) : (setCore s c x).accBad = s.accBad := rfl
@[simp] theorem setCore_wregs (s : State) (c : Nat) (x : Core) : (setCore s c x).wregs = s.wregs := rfl
@[simp] theorem setCore_slots (s : State) (c : Nat) (x : Core) : (setCore s c x).slots = s.slots := rfl
@[simp] theorem setCore_cols (s : State) (c : Nat) (x : Core) : (setCore s c x).cols = s.cols := rfl
@[simp] theorem setCore_pkgs (s : State) (c : Nat) (x : Core) : (setCore s c x).pkgs = s.pkgs := rfl
@[simp] theorem setCore_parts (s : State) (c : Nat) (x : Core) : (setCore s c x).parts = s.parts := rfl
@[simp] theorem setCore_frameSlots (s : State) (c : Nat) (x : Core) : (setCore s c x).frameSlots = s.frameSlots := rfl
@[simp] theorem setCore_frameCores (s : State) (c : Nat) (x : Core) : (setCore s c x).frameCores = s.frameCores := rfl
@[simp] theorem setCore_frameRegs (s : State) (c : Nat) (x : Core) : (setCore s c x).frameRegs = s.frameRegs := rfl
@[simp] theorem setCore_atticFrames (s : State) (c : Nat) (x : Core) : (setCore s c x).atticFrames = s.atticFrames := rfl
@[simp] theorem setCore_images (s : State) (c : Nat) (x : Core) : (setCore s c x).images = s.images := rfl
@[simp] theorem setCore_corrs (s : State) (c : Nat) (x : Core) : (setCore s c x).corrs = s.corrs := rfl
@[simp] theorem setCore_flights (s : State) (c : Nat) (x : Core) : (setCore s c x).flights = s.flights := rfl
@[simp] theorem setCore_lastArr (s : State) (c : Nat) (x : Core) : (setCore s c x).lastArr = s.lastArr := rfl

/-! ### `modCore` changes `cores` alone -/

@[simp] theorem modCore_now (s : State) (c : Nat) (f : Core → Core) : (modCore s c f).now = s.now := rfl
@[simp] theorem modCore_ver (s : State) (c : Nat) (f : Core → Core) : (modCore s c f).ver = s.ver := rfl
@[simp] theorem modCore_nextId (s : State) (c : Nat) (f : Core → Core) : (modCore s c f).nextId = s.nextId := rfl
@[simp] theorem modCore_freeCtr (s : State) (c : Nat) (f : Core → Core) : (modCore s c f).freeCtr = s.freeCtr := rfl
@[simp] theorem modCore_issued (s : State) (c : Nat) (f : Core → Core) : (modCore s c f).issued = s.issued := rfl
@[simp] theorem modCore_curCore (s : State) (c : Nat) (f : Core → Core) : (modCore s c f).curCore = s.curCore := rfl
@[simp] theorem modCore_curSlot (s : State) (c : Nat) (f : Core → Core) : (modCore s c f).curSlot = s.curSlot := rfl
@[simp] theorem modCore_args (s : State) (c : Nat) (f : Core → Core) : (modCore s c f).args = s.args := rfl
@[simp] theorem modCore_agenda (s : State) (c : Nat) (f : Core → Core) : (modCore s c f).agenda = s.agenda := rfl
@[simp] theorem modCore_script (s : State) (c : Nat) (f : Core → Core) : (modCore s c f).script = s.script := rfl
@[simp] theorem modCore_mem (s : State) (c : Nat) (f : Core → Core) : (modCore s c f).mem = s.mem := rfl
@[simp] theorem modCore_localBad (s : State) (c : Nat) (f : Core → Core) : (modCore s c f).localBad = s.localBad := rfl
@[simp] theorem modCore_syn (s : State) (c : Nat) (f : Core → Core) : (modCore s c f).syn = s.syn := rfl
@[simp] theorem modCore_accBad (s : State) (c : Nat) (f : Core → Core) : (modCore s c f).accBad = s.accBad := rfl
@[simp] theorem modCore_wregs (s : State) (c : Nat) (f : Core → Core) : (modCore s c f).wregs = s.wregs := rfl
@[simp] theorem modCore_slots (s : State) (c : Nat) (f : Core → Core) : (modCore s c f).slots = s.slots := rfl
@[simp] theorem modCore_cols (s : State) (c : Nat) (f : Core → Core) : (modCore s c f).cols = s.cols := rfl
@[simp] theorem modCore_pkgs (s : State) (c : Nat) (f : Core → Core) : (modCore s c f).pkgs = s.pkgs := rfl
@[simp] theorem modCore_parts (s : State) (c : Nat) (f : Core → Core) : (modCore s c f).parts = s.parts := rfl
@[simp] theorem modCore_frameSlots (s : State) (c : Nat) (f : Core → Core) : (modCore s c f).frameSlots = s.frameSlots := rfl
@[simp] theorem modCore_frameCores (s : State) (c : Nat) (f : Core → Core) : (modCore s c f).frameCores = s.frameCores := rfl
@[simp] theorem modCore_frameRegs (s : State) (c : Nat) (f : Core → Core) : (modCore s c f).frameRegs = s.frameRegs := rfl
@[simp] theorem modCore_atticFrames (s : State) (c : Nat) (f : Core → Core) : (modCore s c f).atticFrames = s.atticFrames := rfl
@[simp] theorem modCore_images (s : State) (c : Nat) (f : Core → Core) : (modCore s c f).images = s.images := rfl
@[simp] theorem modCore_corrs (s : State) (c : Nat) (f : Core → Core) : (modCore s c f).corrs = s.corrs := rfl
@[simp] theorem modCore_flights (s : State) (c : Nat) (f : Core → Core) : (modCore s c f).flights = s.flights := rfl
@[simp] theorem modCore_lastArr (s : State) (c : Nat) (f : Core → Core) : (modCore s c f).lastArr = s.lastArr := rfl

/-! ### `modMyCore` changes `cores` alone -/

@[simp] theorem modMyCore_now (s : State) (f : Core → Core) : (modMyCore s f).now = s.now := rfl
@[simp] theorem modMyCore_ver (s : State) (f : Core → Core) : (modMyCore s f).ver = s.ver := rfl
@[simp] theorem modMyCore_nextId (s : State) (f : Core → Core) : (modMyCore s f).nextId = s.nextId := rfl
@[simp] theorem modMyCore_freeCtr (s : State) (f : Core → Core) : (modMyCore s f).freeCtr = s.freeCtr := rfl
@[simp] theorem modMyCore_issued (s : State) (f : Core → Core) : (modMyCore s f).issued = s.issued := rfl
@[simp] theorem modMyCore_curCore (s : State) (f : Core → Core) : (modMyCore s f).curCore = s.curCore := rfl
@[simp] theorem modMyCore_curSlot (s : State) (f : Core → Core) : (modMyCore s f).curSlot = s.curSlot := rfl
@[simp] theorem modMyCore_args (s : State) (f : Core → Core) : (modMyCore s f).args = s.args := rfl
@[simp] theorem modMyCore_agenda (s : State) (f : Core → Core) : (modMyCore s f).agenda = s.agenda := rfl
@[simp] theorem modMyCore_script (s : State) (f : Core → Core) : (modMyCore s f).script = s.script := rfl
@[simp] theorem modMyCore_mem (s : State) (f : Core → Core) : (modMyCore s f).mem = s.mem := rfl
@[simp] theorem modMyCore_localBad (s : State) (f : Core → Core) : (modMyCore s f).localBad = s.localBad := rfl
@[simp] theorem modMyCore_syn (s : State) (f : Core → Core) : (modMyCore s f).syn = s.syn := rfl
@[simp] theorem modMyCore_accBad (s : State) (f : Core → Core) : (modMyCore s f).accBad = s.accBad := rfl
@[simp] theorem modMyCore_wregs (s : State) (f : Core → Core) : (modMyCore s f).wregs = s.wregs := rfl
@[simp] theorem modMyCore_slots (s : State) (f : Core → Core) : (modMyCore s f).slots = s.slots := rfl
@[simp] theorem modMyCore_cols (s : State) (f : Core → Core) : (modMyCore s f).cols = s.cols := rfl
@[simp] theorem modMyCore_pkgs (s : State) (f : Core → Core) : (modMyCore s f).pkgs = s.pkgs := rfl
@[simp] theorem modMyCore_parts (s : State) (f : Core → Core) : (modMyCore s f).parts = s.parts := rfl
@[simp] theorem modMyCore_frameSlots (s : State) (f : Core → Core) : (modMyCore s f).frameSlots = s.frameSlots := rfl
@[simp] theorem modMyCore_frameCores (s : State) (f : Core → Core) : (modMyCore s f).frameCores = s.frameCores := rfl
@[simp] theorem modMyCore_frameRegs (s : State) (f : Core → Core) : (modMyCore s f).frameRegs = s.frameRegs := rfl
@[simp] theorem modMyCore_atticFrames (s : State) (f : Core → Core) : (modMyCore s f).atticFrames = s.atticFrames := rfl
@[simp] theorem modMyCore_images (s : State) (f : Core → Core) : (modMyCore s f).images = s.images := rfl
@[simp] theorem modMyCore_corrs (s : State) (f : Core → Core) : (modMyCore s f).corrs = s.corrs := rfl
@[simp] theorem modMyCore_flights (s : State) (f : Core → Core) : (modMyCore s f).flights = s.flights := rfl
@[simp] theorem modMyCore_lastArr (s : State) (f : Core → Core) : (modMyCore s f).lastArr = s.lastArr := rfl

/-! ### `modCol` changes `cols` alone -/

@[simp] theorem modCol_now (s : State) (c : Nat) (f : Col → Col) : (modCol s c f).now = s.now := rfl
@[simp] theorem modCol_ver (s : State) (c : Nat) (f : Col → Col) : (modCol s c f).ver = s.ver := rfl
@[simp] theorem modCol_nextId (s : State) (c : Nat) (f : Col → Col) : (modCol s c f).nextId = s.nextId := rfl
@[simp] theorem modCol_freeCtr (s : State) (c : Nat) (f : Col → Col) : (modCol s c f).freeCtr = s.freeCtr := rfl
@[simp] theorem modCol_issued (s : State) (c : Nat) (f : Col → Col) : (modCol s c f).issued = s.issued := rfl
@[simp] theorem modCol_curCore (s : State) (c : Nat) (f : Col → Col) : (modCol s c f).curCore = s.curCore := rfl
@[simp] theorem modCol_curSlot (s : State) (c : Nat) (f : Col → Col) : (modCol s c f).curSlot = s.curSlot := rfl
@[simp] theorem modCol_args (s : State) (c : Nat) (f : Col → Col) : (modCol s c f).args = s.args := rfl
@[simp] theorem modCol_agenda (s : State) (c : Nat) (f : Col → Col) : (modCol s c f).agenda = s.agenda := rfl
@[simp] theorem modCol_script (s : State) (c : Nat) (f : Col → Col) : (modCol s c f).script = s.script := rfl
@[simp] theorem modCol_mem (s : State) (c : Nat) (f : Col → Col) : (modCol s c f).mem = s.mem := rfl
@[simp] theorem modCol_localBad (s : State) (c : Nat) (f : Col → Col) : (modCol s c f).localBad = s.localBad := rfl
@[simp] theorem modCol_syn (s : State) (c : Nat) (f : Col → Col) : (modCol s c f).syn = s.syn := rfl
@[simp] theorem modCol_accBad (s : State) (c : Nat) (f : Col → Col) : (modCol s c f).accBad = s.accBad := rfl
@[simp] theorem modCol_wregs (s : State) (c : Nat) (f : Col → Col) : (modCol s c f).wregs = s.wregs := rfl
@[simp] theorem modCol_slots (s : State) (c : Nat) (f : Col → Col) : (modCol s c f).slots = s.slots := rfl
@[simp] theorem modCol_cores (s : State) (c : Nat) (f : Col → Col) : (modCol s c f).cores = s.cores := rfl
@[simp] theorem modCol_pkgs (s : State) (c : Nat) (f : Col → Col) : (modCol s c f).pkgs = s.pkgs := rfl
@[simp] theorem modCol_parts (s : State) (c : Nat) (f : Col → Col) : (modCol s c f).parts = s.parts := rfl
@[simp] theorem modCol_frameSlots (s : State) (c : Nat) (f : Col → Col) : (modCol s c f).frameSlots = s.frameSlots := rfl
@[simp] theorem modCol_frameCores (s : State) (c : Nat) (f : Col → Col) : (modCol s c f).frameCores = s.frameCores := rfl
@[simp] theorem modCol_frameRegs (s : State) (c : Nat) (f : Col → Col) : (modCol s c f).frameRegs = s.frameRegs := rfl
@[simp] theorem modCol_atticFrames (s : State) (c : Nat) (f : Col → Col) : (modCol s c f).atticFrames = s.atticFrames := rfl
@[simp] theorem modCol_images (s : State) (c : Nat) (f : Col → Col) : (modCol s c f).images = s.images := rfl
@[simp] theorem modCol_corrs (s : State) (c : Nat) (f : Col → Col) : (modCol s c f).corrs = s.corrs := rfl
@[simp] theorem modCol_flights (s : State) (c : Nat) (f : Col → Col) : (modCol s c f).flights = s.flights := rfl
@[simp] theorem modCol_lastArr (s : State) (c : Nat) (f : Col → Col) : (modCol s c f).lastArr = s.lastArr := rfl

/-! ### `modPkg` changes `pkgs` alone -/

@[simp] theorem modPkg_now (s : State) (p : Nat) (f : Pkg → Pkg) : (modPkg s p f).now = s.now := rfl
@[simp] theorem modPkg_ver (s : State) (p : Nat) (f : Pkg → Pkg) : (modPkg s p f).ver = s.ver := rfl
@[simp] theorem modPkg_nextId (s : State) (p : Nat) (f : Pkg → Pkg) : (modPkg s p f).nextId = s.nextId := rfl
@[simp] theorem modPkg_freeCtr (s : State) (p : Nat) (f : Pkg → Pkg) : (modPkg s p f).freeCtr = s.freeCtr := rfl
@[simp] theorem modPkg_issued (s : State) (p : Nat) (f : Pkg → Pkg) : (modPkg s p f).issued = s.issued := rfl
@[simp] theorem modPkg_curCore (s : State) (p : Nat) (f : Pkg → Pkg) : (modPkg s p f).curCore = s.curCore := rfl
@[simp] theorem modPkg_curSlot (s : State) (p : Nat) (f : Pkg → Pkg) : (modPkg s p f).curSlot = s.curSlot := rfl
@[simp] theorem modPkg_args (s : State) (p : Nat) (f : Pkg → Pkg) : (modPkg s p f).args = s.args := rfl
@[simp] theorem modPkg_agenda (s : State) (p : Nat) (f : Pkg → Pkg) : (modPkg s p f).agenda = s.agenda := rfl
@[simp] theorem modPkg_script (s : State) (p : Nat) (f : Pkg → Pkg) : (modPkg s p f).script = s.script := rfl
@[simp] theorem modPkg_mem (s : State) (p : Nat) (f : Pkg → Pkg) : (modPkg s p f).mem = s.mem := rfl
@[simp] theorem modPkg_localBad (s : State) (p : Nat) (f : Pkg → Pkg) : (modPkg s p f).localBad = s.localBad := rfl
@[simp] theorem modPkg_syn (s : State) (p : Nat) (f : Pkg → Pkg) : (modPkg s p f).syn = s.syn := rfl
@[simp] theorem modPkg_accBad (s : State) (p : Nat) (f : Pkg → Pkg) : (modPkg s p f).accBad = s.accBad := rfl
@[simp] theorem modPkg_wregs (s : State) (p : Nat) (f : Pkg → Pkg) : (modPkg s p f).wregs = s.wregs := rfl
@[simp] theorem modPkg_slots (s : State) (p : Nat) (f : Pkg → Pkg) : (modPkg s p f).slots = s.slots := rfl
@[simp] theorem modPkg_cores (s : State) (p : Nat) (f : Pkg → Pkg) : (modPkg s p f).cores = s.cores := rfl
@[simp] theorem modPkg_cols (s : State) (p : Nat) (f : Pkg → Pkg) : (modPkg s p f).cols = s.cols := rfl
@[simp] theorem modPkg_parts (s : State) (p : Nat) (f : Pkg → Pkg) : (modPkg s p f).parts = s.parts := rfl
@[simp] theorem modPkg_frameSlots (s : State) (p : Nat) (f : Pkg → Pkg) : (modPkg s p f).frameSlots = s.frameSlots := rfl
@[simp] theorem modPkg_frameCores (s : State) (p : Nat) (f : Pkg → Pkg) : (modPkg s p f).frameCores = s.frameCores := rfl
@[simp] theorem modPkg_frameRegs (s : State) (p : Nat) (f : Pkg → Pkg) : (modPkg s p f).frameRegs = s.frameRegs := rfl
@[simp] theorem modPkg_atticFrames (s : State) (p : Nat) (f : Pkg → Pkg) : (modPkg s p f).atticFrames = s.atticFrames := rfl
@[simp] theorem modPkg_images (s : State) (p : Nat) (f : Pkg → Pkg) : (modPkg s p f).images = s.images := rfl
@[simp] theorem modPkg_corrs (s : State) (p : Nat) (f : Pkg → Pkg) : (modPkg s p f).corrs = s.corrs := rfl
@[simp] theorem modPkg_flights (s : State) (p : Nat) (f : Pkg → Pkg) : (modPkg s p f).flights = s.flights := rfl
@[simp] theorem modPkg_lastArr (s : State) (p : Nat) (f : Pkg → Pkg) : (modPkg s p f).lastArr = s.lastArr := rfl

/-! ### `modPart` changes `parts` alone -/

@[simp] theorem modPart_now (s : State) (r : Nat) (f : Part → Part) : (modPart s r f).now = s.now := rfl
@[simp] theorem modPart_ver (s : State) (r : Nat) (f : Part → Part) : (modPart s r f).ver = s.ver := rfl
@[simp] theorem modPart_nextId (s : State) (r : Nat) (f : Part → Part) : (modPart s r f).nextId = s.nextId := rfl
@[simp] theorem modPart_freeCtr (s : State) (r : Nat) (f : Part → Part) : (modPart s r f).freeCtr = s.freeCtr := rfl
@[simp] theorem modPart_issued (s : State) (r : Nat) (f : Part → Part) : (modPart s r f).issued = s.issued := rfl
@[simp] theorem modPart_curCore (s : State) (r : Nat) (f : Part → Part) : (modPart s r f).curCore = s.curCore := rfl
@[simp] theorem modPart_curSlot (s : State) (r : Nat) (f : Part → Part) : (modPart s r f).curSlot = s.curSlot := rfl
@[simp] theorem modPart_args (s : State) (r : Nat) (f : Part → Part) : (modPart s r f).args = s.args := rfl
@[simp] theorem modPart_agenda (s : State) (r : Nat) (f : Part → Part) : (modPart s r f).agenda = s.agenda := rfl
@[simp] theorem modPart_script (s : State) (r : Nat) (f : Part → Part) : (modPart s r f).script = s.script := rfl
@[simp] theorem modPart_mem (s : State) (r : Nat) (f : Part → Part) : (modPart s r f).mem = s.mem := rfl
@[simp] theorem modPart_localBad (s : State) (r : Nat) (f : Part → Part) : (modPart s r f).localBad = s.localBad := rfl
@[simp] theorem modPart_syn (s : State) (r : Nat) (f : Part → Part) : (modPart s r f).syn = s.syn := rfl
@[simp] theorem modPart_accBad (s : State) (r : Nat) (f : Part → Part) : (modPart s r f).accBad = s.accBad := rfl
@[simp] theorem modPart_wregs (s : State) (r : Nat) (f : Part → Part) : (modPart s r f).wregs = s.wregs := rfl
@[simp] theorem modPart_slots (s : State) (r : Nat) (f : Part → Part) : (modPart s r f).slots = s.slots := rfl
@[simp] theorem modPart_cores (s : State) (r : Nat) (f : Part → Part) : (modPart s r f).cores = s.cores := rfl
@[simp] theorem modPart_cols (s : State) (r : Nat) (f : Part → Part) : (modPart s r f).cols = s.cols := rfl
@[simp] theorem modPart_pkgs (s : State) (r : Nat) (f : Part → Part) : (modPart s r f).pkgs = s.pkgs := rfl
@[simp] theorem modPart_frameSlots (s : State) (r : Nat) (f : Part → Part) : (modPart s r f).frameSlots = s.frameSlots := rfl
@[simp] theorem modPart_frameCores (s : State) (r : Nat) (f : Part → Part) : (modPart s r f).frameCores = s.frameCores := rfl
@[simp] theorem modPart_frameRegs (s : State) (r : Nat) (f : Part → Part) : (modPart s r f).frameRegs = s.frameRegs := rfl
@[simp] theorem modPart_atticFrames (s : State) (r : Nat) (f : Part → Part) : (modPart s r f).atticFrames = s.atticFrames := rfl
@[simp] theorem modPart_images (s : State) (r : Nat) (f : Part → Part) : (modPart s r f).images = s.images := rfl
@[simp] theorem modPart_corrs (s : State) (r : Nat) (f : Part → Part) : (modPart s r f).corrs = s.corrs := rfl
@[simp] theorem modPart_flights (s : State) (r : Nat) (f : Part → Part) : (modPart s r f).flights = s.flights := rfl
@[simp] theorem modPart_lastArr (s : State) (r : Nat) (f : Part → Part) : (modPart s r f).lastArr = s.lastArr := rfl

/-! ### `modFlight` changes `flights` alone -/

@[simp] theorem modFlight_now (s : State) (i : Nat) (f : Flight → Flight) : (modFlight s i f).now = s.now := rfl
@[simp] theorem modFlight_ver (s : State) (i : Nat) (f : Flight → Flight) : (modFlight s i f).ver = s.ver := rfl
@[simp] theorem modFlight_nextId (s : State) (i : Nat) (f : Flight → Flight) : (modFlight s i f).nextId = s.nextId := rfl
@[simp] theorem modFlight_freeCtr (s : State) (i : Nat) (f : Flight → Flight) : (modFlight s i f).freeCtr = s.freeCtr := rfl
@[simp] theorem modFlight_issued (s : State) (i : Nat) (f : Flight → Flight) : (modFlight s i f).issued = s.issued := rfl
@[simp] theorem modFlight_curCore (s : State) (i : Nat) (f : Flight → Flight) : (modFlight s i f).curCore = s.curCore := rfl
@[simp] theorem modFlight_curSlot (s : State) (i : Nat) (f : Flight → Flight) : (modFlight s i f).curSlot = s.curSlot := rfl
@[simp] theorem modFlight_args (s : State) (i : Nat) (f : Flight → Flight) : (modFlight s i f).args = s.args := rfl
@[simp] theorem modFlight_agenda (s : State) (i : Nat) (f : Flight → Flight) : (modFlight s i f).agenda = s.agenda := rfl
@[simp] theorem modFlight_script (s : State) (i : Nat) (f : Flight → Flight) : (modFlight s i f).script = s.script := rfl
@[simp] theorem modFlight_mem (s : State) (i : Nat) (f : Flight → Flight) : (modFlight s i f).mem = s.mem := rfl
@[simp] theorem modFlight_localBad (s : State) (i : Nat) (f : Flight → Flight) : (modFlight s i f).localBad = s.localBad := rfl
@[simp] theorem modFlight_syn (s : State) (i : Nat) (f : Flight → Flight) : (modFlight s i f).syn = s.syn := rfl
@[simp] theorem modFlight_accBad (s : State) (i : Nat) (f : Flight → Flight) : (modFlight s i f).accBad = s.accBad := rfl
@[simp] theorem modFlight_wregs (s : State) (i : Nat) (f : Flight → Flight) : (modFlight s i f).wregs = s.wregs := rfl
@[simp] theorem modFlight_slots (s : State) (i : Nat) (f : Flight → Flight) : (modFlight s i f).slots = s.slots := rfl
@[simp] theorem modFlight_cores (s : State) (i : Nat) (f : Flight → Flight) : (modFlight s i f).cores = s.cores := rfl
@[simp] theorem modFlight_cols (s : State) (i : Nat) (f : Flight → Flight) : (modFlight s i f).cols = s.cols := rfl
@[simp] theorem modFlight_pkgs (s : State) (i : Nat) (f : Flight → Flight) : (modFlight s i f).pkgs = s.pkgs := rfl
@[simp] theorem modFlight_parts (s : State) (i : Nat) (f : Flight → Flight) : (modFlight s i f).parts = s.parts := rfl
@[simp] theorem modFlight_frameSlots (s : State) (i : Nat) (f : Flight → Flight) : (modFlight s i f).frameSlots = s.frameSlots := rfl
@[simp] theorem modFlight_frameCores (s : State) (i : Nat) (f : Flight → Flight) : (modFlight s i f).frameCores = s.frameCores := rfl
@[simp] theorem modFlight_frameRegs (s : State) (i : Nat) (f : Flight → Flight) : (modFlight s i f).frameRegs = s.frameRegs := rfl
@[simp] theorem modFlight_atticFrames (s : State) (i : Nat) (f : Flight → Flight) : (modFlight s i f).atticFrames = s.atticFrames := rfl
@[simp] theorem modFlight_images (s : State) (i : Nat) (f : Flight → Flight) : (modFlight s i f).images = s.images := rfl
@[simp] theorem modFlight_corrs (s : State) (i : Nat) (f : Flight → Flight) : (modFlight s i f).corrs = s.corrs := rfl
@[simp] theorem modFlight_lastArr (s : State) (i : Nat) (f : Flight → Flight) : (modFlight s i f).lastArr = s.lastArr := rfl

/-! ### `setReg` changes `wregs` alone -/

@[simp] theorem setReg_now (s : State) (a : Nat) (v : W64) : (setReg s a v).now = s.now := rfl
@[simp] theorem setReg_ver (s : State) (a : Nat) (v : W64) : (setReg s a v).ver = s.ver := rfl
@[simp] theorem setReg_nextId (s : State) (a : Nat) (v : W64) : (setReg s a v).nextId = s.nextId := rfl
@[simp] theorem setReg_freeCtr (s : State) (a : Nat) (v : W64) : (setReg s a v).freeCtr = s.freeCtr := rfl
@[simp] theorem setReg_issued (s : State) (a : Nat) (v : W64) : (setReg s a v).issued = s.issued := rfl
@[simp] theorem setReg_curCore (s : State) (a : Nat) (v : W64) : (setReg s a v).curCore = s.curCore := rfl
@[simp] theorem setReg_curSlot (s : State) (a : Nat) (v : W64) : (setReg s a v).curSlot = s.curSlot := rfl
@[simp] theorem setReg_args (s : State) (a : Nat) (v : W64) : (setReg s a v).args = s.args := rfl
@[simp] theorem setReg_agenda (s : State) (a : Nat) (v : W64) : (setReg s a v).agenda = s.agenda := rfl
@[simp] theorem setReg_script (s : State) (a : Nat) (v : W64) : (setReg s a v).script = s.script := rfl
@[simp] theorem setReg_mem (s : State) (a : Nat) (v : W64) : (setReg s a v).mem = s.mem := rfl
@[simp] theorem setReg_localBad (s : State) (a : Nat) (v : W64) : (setReg s a v).localBad = s.localBad := rfl
@[simp] theorem setReg_syn (s : State) (a : Nat) (v : W64) : (setReg s a v).syn = s.syn := rfl
@[simp] theorem setReg_accBad (s : State) (a : Nat) (v : W64) : (setReg s a v).accBad = s.accBad := rfl
@[simp] theorem setReg_slots (s : State) (a : Nat) (v : W64) : (setReg s a v).slots = s.slots := rfl
@[simp] theorem setReg_cores (s : State) (a : Nat) (v : W64) : (setReg s a v).cores = s.cores := rfl
@[simp] theorem setReg_cols (s : State) (a : Nat) (v : W64) : (setReg s a v).cols = s.cols := rfl
@[simp] theorem setReg_pkgs (s : State) (a : Nat) (v : W64) : (setReg s a v).pkgs = s.pkgs := rfl
@[simp] theorem setReg_parts (s : State) (a : Nat) (v : W64) : (setReg s a v).parts = s.parts := rfl
@[simp] theorem setReg_frameSlots (s : State) (a : Nat) (v : W64) : (setReg s a v).frameSlots = s.frameSlots := rfl
@[simp] theorem setReg_frameCores (s : State) (a : Nat) (v : W64) : (setReg s a v).frameCores = s.frameCores := rfl
@[simp] theorem setReg_frameRegs (s : State) (a : Nat) (v : W64) : (setReg s a v).frameRegs = s.frameRegs := rfl
@[simp] theorem setReg_atticFrames (s : State) (a : Nat) (v : W64) : (setReg s a v).atticFrames = s.atticFrames := rfl
@[simp] theorem setReg_images (s : State) (a : Nat) (v : W64) : (setReg s a v).images = s.images := rfl
@[simp] theorem setReg_corrs (s : State) (a : Nat) (v : W64) : (setReg s a v).corrs = s.corrs := rfl
@[simp] theorem setReg_flights (s : State) (a : Nat) (v : W64) : (setReg s a v).flights = s.flights := rfl
@[simp] theorem setReg_lastArr (s : State) (a : Nat) (v : W64) : (setReg s a v).lastArr = s.lastArr := rfl

/-! ### `putByte` changes `mem` alone -/

@[simp] theorem putByte_now (s : State) (a : Nat) (b : Byte) : (putByte s a b).now = s.now := rfl
@[simp] theorem putByte_ver (s : State) (a : Nat) (b : Byte) : (putByte s a b).ver = s.ver := rfl
@[simp] theorem putByte_nextId (s : State) (a : Nat) (b : Byte) : (putByte s a b).nextId = s.nextId := rfl
@[simp] theorem putByte_freeCtr (s : State) (a : Nat) (b : Byte) : (putByte s a b).freeCtr = s.freeCtr := rfl
@[simp] theorem putByte_issued (s : State) (a : Nat) (b : Byte) : (putByte s a b).issued = s.issued := rfl
@[simp] theorem putByte_curCore (s : State) (a : Nat) (b : Byte) : (putByte s a b).curCore = s.curCore := rfl
@[simp] theorem putByte_curSlot (s : State) (a : Nat) (b : Byte) : (putByte s a b).curSlot = s.curSlot := rfl
@[simp] theorem putByte_args (s : State) (a : Nat) (b : Byte) : (putByte s a b).args = s.args := rfl
@[simp] theorem putByte_agenda (s : State) (a : Nat) (b : Byte) : (putByte s a b).agenda = s.agenda := rfl
@[simp] theorem putByte_script (s : State) (a : Nat) (b : Byte) : (putByte s a b).script = s.script := rfl
@[simp] theorem putByte_localBad (s : State) (a : Nat) (b : Byte) : (putByte s a b).localBad = s.localBad := rfl
@[simp] theorem putByte_syn (s : State) (a : Nat) (b : Byte) : (putByte s a b).syn = s.syn := rfl
@[simp] theorem putByte_accBad (s : State) (a : Nat) (b : Byte) : (putByte s a b).accBad = s.accBad := rfl
@[simp] theorem putByte_wregs (s : State) (a : Nat) (b : Byte) : (putByte s a b).wregs = s.wregs := rfl
@[simp] theorem putByte_slots (s : State) (a : Nat) (b : Byte) : (putByte s a b).slots = s.slots := rfl
@[simp] theorem putByte_cores (s : State) (a : Nat) (b : Byte) : (putByte s a b).cores = s.cores := rfl
@[simp] theorem putByte_cols (s : State) (a : Nat) (b : Byte) : (putByte s a b).cols = s.cols := rfl
@[simp] theorem putByte_pkgs (s : State) (a : Nat) (b : Byte) : (putByte s a b).pkgs = s.pkgs := rfl
@[simp] theorem putByte_parts (s : State) (a : Nat) (b : Byte) : (putByte s a b).parts = s.parts := rfl
@[simp] theorem putByte_frameSlots (s : State) (a : Nat) (b : Byte) : (putByte s a b).frameSlots = s.frameSlots := rfl
@[simp] theorem putByte_frameCores (s : State) (a : Nat) (b : Byte) : (putByte s a b).frameCores = s.frameCores := rfl
@[simp] theorem putByte_frameRegs (s : State) (a : Nat) (b : Byte) : (putByte s a b).frameRegs = s.frameRegs := rfl
@[simp] theorem putByte_atticFrames (s : State) (a : Nat) (b : Byte) : (putByte s a b).atticFrames = s.atticFrames := rfl
@[simp] theorem putByte_images (s : State) (a : Nat) (b : Byte) : (putByte s a b).images = s.images := rfl
@[simp] theorem putByte_corrs (s : State) (a : Nat) (b : Byte) : (putByte s a b).corrs = s.corrs := rfl
@[simp] theorem putByte_flights (s : State) (a : Nat) (b : Byte) : (putByte s a b).flights = s.flights := rfl
@[simp] theorem putByte_lastArr (s : State) (a : Nat) (b : Byte) : (putByte s a b).lastArr = s.lastArr := rfl

/-! ### `schedule` changes `agenda` alone -/

@[simp] theorem schedule_now (s : State) (d : Nat) (e : Instr) (a : List Nat) : (schedule s d e a).now = s.now := rfl
@[simp] theorem schedule_ver (s : State) (d : Nat) (e : Instr) (a : List Nat) : (schedule s d e a).ver = s.ver := rfl
@[simp] theorem schedule_nextId (s : State) (d : Nat) (e : Instr) (a : List Nat) : (schedule s d e a).nextId = s.nextId := rfl
@[simp] theorem schedule_freeCtr (s : State) (d : Nat) (e : Instr) (a : List Nat) : (schedule s d e a).freeCtr = s.freeCtr := rfl
@[simp] theorem schedule_issued (s : State) (d : Nat) (e : Instr) (a : List Nat) : (schedule s d e a).issued = s.issued := rfl
@[simp] theorem schedule_curCore (s : State) (d : Nat) (e : Instr) (a : List Nat) : (schedule s d e a).curCore = s.curCore := rfl
@[simp] theorem schedule_curSlot (s : State) (d : Nat) (e : Instr) (a : List Nat) : (schedule s d e a).curSlot = s.curSlot := rfl
@[simp] theorem schedule_args (s : State) (d : Nat) (e : Instr) (a : List Nat) : (schedule s d e a).args = s.args := rfl
@[simp] theorem schedule_script (s : State) (d : Nat) (e : Instr) (a : List Nat) : (schedule s d e a).script = s.script := rfl
@[simp] theorem schedule_mem (s : State) (d : Nat) (e : Instr) (a : List Nat) : (schedule s d e a).mem = s.mem := rfl
@[simp] theorem schedule_localBad (s : State) (d : Nat) (e : Instr) (a : List Nat) : (schedule s d e a).localBad = s.localBad := rfl
@[simp] theorem schedule_syn (s : State) (d : Nat) (e : Instr) (a : List Nat) : (schedule s d e a).syn = s.syn := rfl
@[simp] theorem schedule_accBad (s : State) (d : Nat) (e : Instr) (a : List Nat) : (schedule s d e a).accBad = s.accBad := rfl
@[simp] theorem schedule_wregs (s : State) (d : Nat) (e : Instr) (a : List Nat) : (schedule s d e a).wregs = s.wregs := rfl
@[simp] theorem schedule_slots (s : State) (d : Nat) (e : Instr) (a : List Nat) : (schedule s d e a).slots = s.slots := rfl
@[simp] theorem schedule_cores (s : State) (d : Nat) (e : Instr) (a : List Nat) : (schedule s d e a).cores = s.cores := rfl
@[simp] theorem schedule_cols (s : State) (d : Nat) (e : Instr) (a : List Nat) : (schedule s d e a).cols = s.cols := rfl
@[simp] theorem schedule_pkgs (s : State) (d : Nat) (e : Instr) (a : List Nat) : (schedule s d e a).pkgs = s.pkgs := rfl
@[simp] theorem schedule_parts (s : State) (d : Nat) (e : Instr) (a : List Nat) : (schedule s d e a).parts = s.parts := rfl
@[simp] theorem schedule_frameSlots (s : State) (d : Nat) (e : Instr) (a : List Nat) : (schedule s d e a).frameSlots = s.frameSlots := rfl
@[simp] theorem schedule_frameCores (s : State) (d : Nat) (e : Instr) (a : List Nat) : (schedule s d e a).frameCores = s.frameCores := rfl
@[simp] theorem schedule_frameRegs (s : State) (d : Nat) (e : Instr) (a : List Nat) : (schedule s d e a).frameRegs = s.frameRegs := rfl
@[simp] theorem schedule_atticFrames (s : State) (d : Nat) (e : Instr) (a : List Nat) : (schedule s d e a).atticFrames = s.atticFrames := rfl
@[simp] theorem schedule_images (s : State) (d : Nat) (e : Instr) (a : List Nat) : (schedule s d e a).images = s.images := rfl
@[simp] theorem schedule_corrs (s : State) (d : Nat) (e : Instr) (a : List Nat) : (schedule s d e a).corrs = s.corrs := rfl
@[simp] theorem schedule_flights (s : State) (d : Nat) (e : Instr) (a : List Nat) : (schedule s d e a).flights = s.flights := rfl
@[simp] theorem schedule_lastArr (s : State) (d : Nat) (e : Instr) (a : List Nat) : (schedule s d e a).lastArr = s.lastArr := rfl

end Sys2Proof.Machine
end

