-- ==== Sys2Proof/Laws/Registers.lean ====
section
/-! SUPPORT. When register writes land: what a write added to a slot's pending ones does to every later cycle. -/
namespace Sys2Proof.Machine
open Sys2Proof Sys2Proof.Safety

/-! ### The issuing slot after an update -/

@[simp] theorem getSlot_setSlot_same (s : State) (c k : Nat) (u : Slot) : getSlot (setSlot s c k u) c k = u :=
  FMap.get_ins_same _ _ _ _
@[simp] theorem getSlot_modSlot_same (s : State) (c k : Nat) (f : Slot → Slot) :
    getSlot (modSlot s c k f) c k = f (getSlot s c k) := FMap.get_ins_same _ _ _ _
@[simp] theorem me_modMe (s : State) (f : Slot → Slot) : me (modMe s f) = f (me s) := FMap.get_ins_same _ _ _ _
theorem modMe_find (s : State) (f : Slot → Slot) {key : Nat} (h : key ≠ slotKey s.curCore s.curSlot) :
    (modMe s f).slots.find key = s.slots.find key := FMap.find_ins_other _ _ (Ne.symm h)

/-- An update of the issuing slot alone leaves the rest of the state. -/
theorem mineOnly_modMe (s : State) (f : Slot → Slot) : MineOnly s (modMe s f) := ⟨rfl, fun _ h => modMe_find s f h⟩

theorem mineOnly_refl (s : State) : MineOnly s s := ⟨rfl, fun _ _ => rfl⟩

theorem mineOnly_curCore {s t : State} (h : MineOnly s t) : t.curCore = s.curCore := by
  have e := congrArg State.curCore h.1; exact e
theorem mineOnly_curSlot {s t : State} (h : MineOnly s t) : t.curSlot = s.curSlot := by
  have e := congrArg State.curSlot h.1; exact e
theorem mineOnly_now {s t : State} (h : MineOnly s t) : t.now = s.now := by
  have e := congrArg State.now h.1; exact e

theorem mineOnly_trans {s t u : State} (h : MineOnly s t) (g : MineOnly t u) : MineOnly s u := by
  refine ⟨?_, fun key hk => ?_⟩
  · have h1 := congrArg (fun x : State => { x with slots := s.slots, issued := s.issued }) g.1
    exact h1.trans h.1
  · rw [g.2 key (by rw [mineOnly_curCore h, mineOnly_curSlot h]; exact hk), h.2 key hk]

theorem mineOnly_issued (s : State) (b : Bool) : MineOnly s { s with issued := b } := ⟨rfl, fun _ _ => rfl⟩

/-! ### Landing leaves the pending list and commutes with its replacement -/

/-- A slot with its register files and its pending list replaced. -/
def setFiles (u : Slot) (x : Vector W64 32) (v : Vector W256 32) (k : Vector W32 8) (b : BitVec 8) (l : List Pend) : Slot :=
  { u with x := x, v := v, k := k, present := b, pend := l }

theorem putCsr_setFiles (u : Slot) (h : Bool) (r : Nat) (a : W64) (x : Vector W64 32) (v : Vector W256 32)
    (k : Vector W32 8) (b : BitVec 8) (l : List Pend) :
    (setFiles u x v k b l).putCsr h r a = setFiles (u.putCsr h r a) x v k b l := by
  simp only [Slot.putCsr]
  by_cases h000 : r = 0x000
  · rw [if_pos h000, if_pos h000]; rfl
  rw [if_neg h000, if_neg h000]
  by_cases h001 : r = 0x001
  · rw [if_pos h001, if_pos h001]; rfl
  rw [if_neg h001, if_neg h001]
  by_cases h002 : r = 0x002
  · rw [if_pos h002, if_pos h002]; rfl
  rw [if_neg h002, if_neg h002]
  by_cases h003 : r = 0x003
  · rw [if_pos h003, if_pos h003]; rfl
  rw [if_neg h003, if_neg h003]
  by_cases h004 : r = 0x004
  · rw [if_pos h004, if_pos h004]; rfl
  rw [if_neg h004, if_neg h004]
  by_cases h018 : r = 0x018
  · rw [if_pos h018, if_pos h018]; rfl
  rw [if_neg h018, if_neg h018]
  by_cases h019 : r = 0x019
  · rw [if_pos h019, if_pos h019]; rfl
  rw [if_neg h019, if_neg h019]
  by_cases hh : h = true
  · rw [if_pos hh, if_pos hh]
  rw [if_neg hh, if_neg hh]
  by_cases h010 : r = 0x010
  · rw [if_pos h010, if_pos h010]; rfl
  rw [if_neg h010, if_neg h010]
  by_cases h011 : r = 0x011
  · rw [if_pos h011, if_pos h011]; rfl
  rw [if_neg h011, if_neg h011]
  by_cases h012 : r = 0x012
  · rw [if_pos h012, if_pos h012]; rfl
  rw [if_neg h012, if_neg h012]
  by_cases h013 : r = 0x013
  · rw [if_pos h013, if_pos h013]; rfl
  rw [if_neg h013, if_neg h013]

theorem putCsr_setPend (u : Slot) (h : Bool) (r : Nat) (v : W64) (l : List Pend) :
    ({ u with pend := l } : Slot).putCsr h r v = { u.putCsr h r v with pend := l } := by
  have e1 := putCsr_setFiles u h r v u.x u.v u.k u.present l
  have e2 := putCsr_setFiles u h r v u.x u.v u.k u.present u.pend
  have e3 := congrArg (fun t : Slot => { t with pend := l }) e2
  exact e1.trans e3.symm

theorem land_setPend (u : Slot) (h : Bool) (p : Pend) (l : List Pend) :
    ({ u with pend := l } : Slot).land h p = { u.land h p with pend := l } := by
  obtain ⟨f, i, v, d, r⟩ := p
  cases f <;> simp only [Slot.land, putCsr_setPend]
  split <;> rfl

theorem land_pend (u : Slot) (h : Bool) (p : Pend) : (u.land h p).pend = u.pend := by
  have e := congrArg Slot.pend (land_setPend u h p u.pend)
  exact e

theorem landAll_setPend (h : Bool) (l : List Pend) : ∀ (ps : List Pend) (u : Slot),
    landAll h ps { u with pend := l } = { landAll h ps u with pend := l } := by
  intro ps
  induction ps with
  | nil => intro u; rfl
  | cons p ps ih => intro u; simp only [landAll, land_setPend, ih]

theorem landAll_append (h : Bool) : ∀ (a b : List Pend) (u : Slot), landAll h (a ++ b) u = landAll h b (landAll h a u) := by
  intro a
  induction a with
  | nil => intros; rfl
  | cons p a ih => intro b u; simp only [List.cons_append, landAll, ih]

/-- The due part of a pending list. -/
def dueOf (n : Nat) (l : List Pend) : List Pend := l.filter (fun p => !p.var && decide (p.due ≤ n))
/-- The part of a pending list that is not due. -/
def restOf (n : Nat) (l : List Pend) : List Pend := l.filter (fun p => p.var || decide (n < p.due))

theorem landDue_eq (u : Slot) (h : Bool) (n : Nat) :
    u.landDue h n = { landAll h (dueOf n u.pend) u with pend := restOf n u.pend } := by
  simp only [Slot.landDue, dueOf, restOf, landAll_setPend]

theorem var_restOf (n : Nat) (l : List Pend) : (restOf n l).filter (fun p => p.var) = l.filter (fun p => p.var) := by
  induction l with
  | nil => rfl
  | cons p l ih =>
    simp only [restOf] at ih ⊢
    cases hv : p.var <;> by_cases hd : n < p.due <;> simp [hv, hd, ih]

theorem bare_landDue (u : Slot) (h : Bool) (n : Nat) :
    bare (u.landDue h n) = bare { landAll h (dueOf n u.pend) u with pend := u.pend } := by
  rw [landDue_eq]
  simp only [bare, var_restOf]

/-! ### Which landings commute -/

/-- Two landings whose order does not matter. -/
def Commute (h : Bool) (p q : Pend) : Prop := ∀ u : Slot, (u.land h p).land h q = (u.land h q).land h p

theorem vset_comm {α : Type} {n : Nat} (v : Vector α n) {i j : Nat} (a b : α) (hij : i ≠ j) :
    vset (vset v i a) j b = vset (vset v j b) i a := by
  simp only [vset, Vector.set!_eq_setIfInBounds]
  ext k hk
  simp only [Vector.getElem_setIfInBounds]
  split_ifs <;> simp_all

theorem vset_vset {α : Type} {n : Nat} (v : Vector α n) (i : Nat) (a b : α) : vset (vset v i a) i b = vset v i b := by
  simp only [vset, Vector.set!_eq_setIfInBounds]
  exact Vector.setIfInBounds_setIfInBounds ..

theorem vget_vset {α : Type} {n : Nat} (d : α) (v : Vector α n) (i j : Nat) (a : α) (hi : i < n) :
    vget d (vset v i a) j = if i = j then a else vget d v j := by
  obtain ⟨⟨l⟩, h⟩ := v
  subst h
  simp only [vget, vset, Vector.set!_eq_setIfInBounds, Vector.setIfInBounds, List.setIfInBounds_toArray, Vector.toList_mk,
    List.getD_eq_getElem?_getD]
  simp only [List.getElem?_set]
  have hi' : i < l.length := by simpa using hi
  split <;> simp_all

/-- Whether two writes go to one register. -/
def samePlace (p q : Pend) : Bool := q.file == p.file && q.idx == p.idx

/-- Whether a write goes to one of the three register files. -/
def isReg (p : Pend) : Bool := p.file == .x || p.file == .v || p.file == .k

theorem commute_reg (h : Bool) (p q : Pend) (hp : isReg p = true) (hpq : samePlace p q = false) : Commute h p q := by
  intro u
  obtain ⟨pf, pi, pv, pd, pr⟩ := p
  obtain ⟨qf, qi, qv, qd, qr⟩ := q
  cases pf <;> simp [isReg] at hp <;> cases qf <;>
    simp only [samePlace, beq_self_eq_true, Bool.true_and, beq_eq_false_iff_ne, ne_eq] at hpq
  case x.x =>
    by_cases h1 : pi = 0 <;> by_cases h2 : qi = 0 <;> simp only [Slot.land, h1, h2, if_true, if_false]
    congr 1
    · exact vset_comm _ _ _ (Ne.symm hpq)
    · by_cases h3 : 24 ≤ pi <;> by_cases h4 : 24 ≤ qi <;> simp only [h3, h4, if_true, if_false]
      rw [BitVec.or_assoc, BitVec.or_comm (BitVec.ofNat 8 _), ← BitVec.or_assoc]
  case v.v => simp only [Slot.land]; congr 1; exact vset_comm _ _ _ (Ne.symm hpq)
  case k.k => simp only [Slot.land]; congr 1; exact vset_comm _ _ _ (Ne.symm hpq)
  case x.csr =>
    by_cases h1 : pi = 0 <;> simp only [Slot.land, h1, if_true, if_false]
    have e1 := putCsr_setFiles u h qi (qv.setWidth 64) (vset u.x pi (pv.setWidth 64)) u.v u.k
      (if 24 ≤ pi then u.present ||| BitVec.ofNat 8 (2 ^ (pi - 24)) else u.present) u.pend
    have e2 := putCsr_setFiles u h qi (qv.setWidth 64) u.x u.v u.k u.present u.pend
    have e3 := congrArg (fun t : Slot => { t with
      x := vset t.x pi (pv.setWidth 64)
      present := if 24 ≤ pi then t.present ||| BitVec.ofNat 8 (2 ^ (pi - 24)) else t.present }) e2
    exact e1.trans e3.symm
  case v.csr =>
    simp only [Slot.land]
    have e1 := putCsr_setFiles u h qi (qv.setWidth 64) u.x (vset u.v pi pv) u.k u.present u.pend
    have e2 := putCsr_setFiles u h qi (qv.setWidth 64) u.x u.v u.k u.present u.pend
    have e3 := congrArg (fun t : Slot => { t with v := vset t.v pi pv }) e2
    exact e1.trans e3.symm
  case k.csr =>
    simp only [Slot.land]
    have e1 := putCsr_setFiles u h qi (qv.setWidth 64) u.x u.v (vset u.k pi (pv.setWidth 32)) u.present u.pend
    have e2 := putCsr_setFiles u h qi (qv.setWidth 64) u.x u.v u.k u.present u.pend
    have e3 := congrArg (fun t : Slot => { t with k := vset t.k pi (pv.setWidth 32) }) e2
    exact e1.trans e3.symm
  all_goals (simp only [Slot.land] <;> first | rfl | (split <;> rfl))

/-- A later write to one register overwrites an earlier one. -/
theorem land_absorb (h : Bool) (p q : Pend) (hp : isReg p = true) (hpq : samePlace p q = true) (u : Slot) :
    (u.land h q).land h p = u.land h p := by
  obtain ⟨pf, pi, pv, pd, pr⟩ := p
  obtain ⟨qf, qi, qv, qd, qr⟩ := q
  simp only [samePlace, Bool.and_eq_true, beq_iff_eq] at hpq
  obtain ⟨rfl, rfl⟩ := hpq
  cases qf <;> simp [isReg] at hp
  · by_cases h1 : qi = 0 <;> simp only [Slot.land, h1, if_true, if_false]
    by_cases h3 : 24 ≤ qi <;> simp only [h3, if_true, if_false, vset_vset]
    congr 1
    rw [BitVec.or_assoc, BitVec.or_self]
  · simp only [Slot.land, vset_vset]
  · simp only [Slot.land, vset_vset]

theorem landAll_commute (h : Bool) (p : Pend) : ∀ (l : List Pend), (∀ q ∈ l, Commute h p q) → ∀ u : Slot,
    landAll h l (u.land h p) = (landAll h l u).land h p := by
  intro l
  induction l with
  | nil => intros; rfl
  | cons q l ih =>
    intro hl u
    simp only [landAll]
    rw [hl q List.mem_cons_self, ih (fun r hr => hl r (List.mem_cons_of_mem _ hr))]

/-! ### A write added to the pending ones -/

theorem dueOf_insPend_late (p : Pend) (n : Nat) (hn : n < p.due) (l : List Pend) : dueOf n (insPend p l) = dueOf n l := by
  have hp : (!p.var && decide (p.due ≤ n)) = false := by simp [Nat.not_le.2 hn]
  induction l with
  | nil => simp [insPend, dueOf, hp]
  | cons q l ih =>
    simp only [insPend]
    split
    · simp only [dueOf]; rw [List.filter_cons_of_neg (by simp [hp])]
    · simp only [dueOf] at ih ⊢
      simp only [List.filter_cons, ih]

theorem var_insPend (p : Pend) (hv : p.var = false) (l : List Pend) :
    (insPend p l).filter (fun p => p.var) = l.filter (fun p => p.var) := by
  induction l with
  | nil => simp [insPend, hv]
  | cons q l ih =>
    simp only [insPend]
    split
    · rw [List.filter_cons_of_neg (by simp [hv])]
    · simp only [List.filter_cons, ih]

/-- Once it is due, an added write lands as if last, if every later one that is due commutes with it. -/
theorem landAll_insPend (h : Bool) (p : Pend) (n : Nat) (hv : p.var = false) (hn : p.due ≤ n) : ∀ (l : List Pend),
    (∀ q ∈ l, q.var = false → p.due < q.due → q.due ≤ n → Commute h p q) → ∀ u : Slot,
    landAll h (dueOf n (insPend p l)) u = (landAll h (dueOf n l) u).land h p := by
  intro l
  induction l with
  | nil => intro _ u; simp [insPend, dueOf, hv, hn, landAll]
  | cons q l ih =>
    intro hl u
    simp only [insPend]
    split
    · rename_i hall
      have e : dueOf n (p :: q :: l) = p :: dueOf n (q :: l) := by
        simp only [dueOf]; rw [List.filter_cons_of_pos (by simp [hv, hn])]
      rw [e]
      simp only [landAll]
      apply landAll_commute
      intro r hr
      simp only [dueOf, List.mem_filter, Bool.and_eq_true, Bool.not_eq_true', decide_eq_true_eq] at hr
      exact hl r hr.1 hr.2.1 (by simpa using (List.all_eq_true.1 hall) r hr.1) hr.2.2
    · have ih' := ih (fun r hr => hl r (List.mem_cons_of_mem _ hr))
      simp only [dueOf] at ih' ⊢
      simp only [List.filter_cons]
      split
      · simp only [landAll]; exact ih' _
      · exact ih' u

/-- Writes to a register that is overwritten may be left out. -/
theorem landAll_drop (h : Bool) (p : Pend) (hp : isReg p = true) (keep : Pend → Bool)
    (hk : ∀ q, keep q = false → samePlace p q = true) : ∀ (l : List Pend) (u v : Slot), u.land h p = v.land h p →
    (landAll h (l.filter keep) u).land h p = (landAll h l v).land h p := by
  intro l
  induction l with
  | nil => intro u v e; exact e
  | cons q l ih =>
    intro u v e
    have step : ∀ u v : Slot, u.land h p = v.land h p → (u.land h q).land h p = (v.land h q).land h p := by
      intro u v e
      cases hs : samePlace p q
      · rw [← commute_reg h p q hp hs, ← commute_reg h p q hp hs, e]
      · rw [land_absorb h p q hp hs, land_absorb h p q hp hs, e]
    by_cases hq : keep q = true
    · rw [List.filter_cons_of_pos hq]
      exact ih _ _ (step u v e)
    · rw [List.filter_cons_of_neg hq]
      simp only [landAll]
      refine ih _ _ ?_
      rw [land_absorb h p q hp (hk q (by simpa using hq)), e]

/-- The slot in any cycle after a register write is added: as before until the write is due, and with it from then on. -/
theorem bare_addPend (u : Slot) (h : Bool) (p : Pend) (hp : isReg p = true) (hv : p.var = false) (n : Nat) :
    bare ((u.addPend p).landDue h n) = bare (if n < p.due then u.landDue h n else (u.landDue h n).land h p) := by
  let keep : Pend → Bool := fun q => !(q.file == p.file && q.idx == p.idx && decide (p.due < q.due) && !q.var)
  have epend : (u.addPend p).pend = insPend p (u.pend.filter keep) := rfl
  have eadd : u.addPend p = { u with pend := insPend p (u.pend.filter keep) } := rfl
  have evar : (insPend p (u.pend.filter keep)).filter (fun p => p.var) = u.pend.filter (fun p => p.var) := by
    rw [var_insPend p hv, List.filter_filter]
    congr 1; funext q; cases hq : q.var <;> simp [keep, hq]
  have hkeep : ∀ q ∈ u.pend.filter keep, q.var = false → p.due < q.due → samePlace p q = false := by
    intro q hq hqv hqd
    have := (List.mem_filter.1 hq).2
    simpa [keep, hqv, hqd, samePlace, ← imp_iff_not_or] using this
  have efilter : dueOf n (u.pend.filter keep) = (dueOf n u.pend).filter keep := by
    simp only [dueOf, List.filter_filter]; congr 1; funext q; rw [Bool.and_comm]
  rw [bare_landDue, epend]
  by_cases hn : n < p.due
  · rw [if_pos hn, bare_landDue, dueOf_insPend_late p n hn, efilter]
    have e2 : (dueOf n u.pend).filter keep = dueOf n u.pend := by
      apply List.filter_eq_self.2
      intro q hq
      simp only [dueOf, List.mem_filter, Bool.and_eq_true, Bool.not_eq_true', decide_eq_true_eq] at hq
      have : ¬ p.due < q.due := by omega
      simp [keep, this]
    rw [e2, eadd, landAll_setPend]
    simp only [bare, evar]
  · rw [if_neg hn, eadd, landAll_setPend]
    have e3 := landAll_insPend h p n hv (by omega) (u.pend.filter keep)
      (fun q hq hqv hqd _ => commute_reg h p q hp (hkeep q hq hqv hqd)) u
    rw [e3, efilter, landAll_drop h p hp keep _ (dueOf n u.pend) u u rfl]
    · rw [landDue_eq, land_setPend (landAll h (dueOf n u.pend) u) h p (restOf n u.pend)]
      simp only [bare, evar, var_restOf]
    · intro q hq
      have : (q.file == p.file && q.idx == p.idx && decide (p.due < q.due) && !q.var) = true := by simpa [keep] using hq
      simp only [Bool.and_eq_true] at this
      simp [samePlace, this.1.1.1, this.1.1.2]

/-! ### `bare` and the landing of a register write -/

theorem bare_land_x (u : Slot) (h : Bool) (d due : Nat) (v : W64) :
    u.land h { file := .x, idx := d, val := v.setWidth 256, due := due, var := false } = putX u d v := by
  simp only [Slot.land, putX]
  split
  · rfl
  · simp [BitVec.setWidth_setWidth_of_le]

theorem land_v (u : Slot) (h : Bool) (d due : Nat) (v : W256) :
    u.land h { file := .v, idx := d, val := v, due := due, var := false } = putV u d v := rfl

theorem land_k (u : Slot) (h : Bool) (d due : Nat) (v : W32) :
    u.land h { file := .k, idx := d, val := v.setWidth 256, due := due, var := false } = putK u d v := by
  simp [Slot.land, putK, BitVec.setWidth_setWidth_of_le]

/-! ### What lands, and the rest of a slot -/

/-- The registers that writes land in from one slot, everything else from another. -/
def setRest (u a : Slot) : Slot :=
  { a with
    x := u.x, v := u.v, k := u.k, present := u.present, status := u.status, trapcause := u.trapcause, trappc := u.trappc,
    trapval := u.trapval, waitchk := u.waitchk, rndmode := u.rndmode, flags := u.flags, fmtA := u.fmtA, fmtB := u.fmtB,
    scaleA := u.scaleA, scaleB := u.scaleB }

theorem putCsr_setRest (u a : Slot) (h : Bool) (r : Nat) (v : W64) :
    (setRest u a).putCsr h r v = setRest (u.putCsr h r v) a := by
  simp only [Slot.putCsr]
  by_cases h000 : r = 0x000
  · rw [if_pos h000, if_pos h000]; rfl
  rw [if_neg h000, if_neg h000]
  by_cases h001 : r = 0x001
  · rw [if_pos h001, if_pos h001]; rfl
  rw [if_neg h001, if_neg h001]
  by_cases h002 : r = 0x002
  · rw [if_pos h002, if_pos h002]; rfl
  rw [if_neg h002, if_neg h002]
  by_cases h003 : r = 0x003
  · rw [if_pos h003, if_pos h003]; rfl
  rw [if_neg h003, if_neg h003]
  by_cases h004 : r = 0x004
  · rw [if_pos h004, if_pos h004]; rfl
  rw [if_neg h004, if_neg h004]
  by_cases h018 : r = 0x018
  · rw [if_pos h018, if_pos h018]; rfl
  rw [if_neg h018, if_neg h018]
  by_cases h019 : r = 0x019
  · rw [if_pos h019, if_pos h019]; rfl
  rw [if_neg h019, if_neg h019]
  by_cases hh : h = true
  · rw [if_pos hh, if_pos hh]
  rw [if_neg hh, if_neg hh]
  by_cases h010 : r = 0x010
  · rw [if_pos h010, if_pos h010]; rfl
  rw [if_neg h010, if_neg h010]
  by_cases h011 : r = 0x011
  · rw [if_pos h011, if_pos h011]; rfl
  rw [if_neg h011, if_neg h011]
  by_cases h012 : r = 0x012
  · rw [if_pos h012, if_pos h012]; rfl
  rw [if_neg h012, if_neg h012]
  by_cases h013 : r = 0x013
  · rw [if_pos h013, if_pos h013]; rfl
  rw [if_neg h013, if_neg h013]

theorem land_setRest (u a : Slot) (h : Bool) (p : Pend) : (setRest u a).land h p = setRest (u.land h p) a := by
  obtain ⟨f, i, v, d, r⟩ := p
  cases f <;> simp only [Slot.land, putCsr_setRest]
  · split <;> rfl
  all_goals rfl

theorem landAll_setRest (h : Bool) (a : Slot) : ∀ (l : List Pend) (u : Slot),
    landAll h l (setRest u a) = setRest (landAll h l u) a := by
  intro l
  induction l with
  | nil => intro u; rfl
  | cons p l ih => intro u; simp only [landAll, land_setRest, ih]

/-- Landing leaves alone whatever is no register. -/
theorem landAll_rest (h : Bool) (l : List Pend) (u : Slot) : setRest (landAll h l u) u = landAll h l u :=
  (landAll_setRest h u l u).symm

/-- What a cycle finds in a slot whose other fields are replaced. -/
theorem landDue_setRest (u a : Slot) (h : Bool) (n : Nat) (e : a.pend = u.pend) :
    (setRest u a).landDue h n = setRest (u.landDue h n) { a with pend := restOf n u.pend } := by
  have e2 : (setRest u a).pend = u.pend := e
  rw [landDue_eq, e2, landAll_setRest, landDue_eq]
  rfl

/-- A field that is no register reads in every cycle as it was set. -/
theorem landDue_rest (u : Slot) (h : Bool) (n : Nat) :
    setRest (u.landDue h n) { u with pend := restOf n u.pend } = u.landDue h n :=
  (landDue_setRest u u h n rfl).symm

/-! ### The shared operations of an instruction that completes -/

theorem slotAt_modMe (s : State) (f : Slot → Slot) (n : Nat) :
    slotAt (modMe s f) n = (f (me s)).landDue (s.curSlot == 4) n := by
  unfold slotAt
  rw [me_modMe]
  rfl

/-- The issuing slot after it goes on to the next word. -/
theorem me_retire (s : State) (w : BitVec 3) : me (retire s w) = { me s with
    pc := (me s).pc + 4, w7 := w == 7, stall := none,
    ready := s.now + 1 + (if w = 7 then 0 else w.toNat) } := by
  unfold retire
  rw [me_modMe]
  rfl

/-- The issuing slot after it continues elsewhere. -/
theorem me_goTo (s : State) (w : BitVec 3) (target : W64) : me (goTo s w target) = { me s with
    pc := target, w7 := w == 7, stall := none, fbuf := if inBuffer s target then (me s).fbuf else [],
    ready := s.now + 1 + (if w = 7 then 0 else w.toNat) + (if inBuffer s target then 0 else 3) } := by
  unfold goTo
  rw [me_modMe]
  rfl

theorem onward_retire (s : State) (w : BitVec 3) : Onward s (retire s w) w := by
  unfold Onward Goes retire
  rw [me_modMe]
  exact ⟨rfl, rfl, rfl, rfl, rfl⟩

theorem mineOnly_retire (s : State) (w : BitVec 3) : MineOnly s (retire s w) :=
  mineOnly_trans (mineOnly_issued s true) (mineOnly_modMe _ _)

/-- Going on to the next word leaves the registers of every cycle. -/
theorem slotAt_retire (s : State) (w : BitVec 3) (n : Nat) :
    slotAt (retire s w) n = { slotAt s n with
      pc := (me s).pc + 4, w7 := w == 7, stall := none,
      ready := s.now + 1 + (if w = 7 then 0 else w.toNat) } := by
  unfold retire
  rw [slotAt_modMe]
  have e := landDue_setRest (me s) { me s with
      pc := (me s).pc + 4, w7 := w == 7, stall := none,
      ready := s.now + 1 + (if w = 7 then 0 else w.toNat) } (s.curSlot == 4) n rfl
  have e2 := landDue_rest (me s) (s.curSlot == 4) n
  have e3 : slotAt s n = setRest ((me s).landDue (s.curSlot == 4) n) { me s with pend := restOf n (me s).pend } := e2.symm
  rw [e3]
  exact e

theorem bare_retire (s : State) (w : BitVec 3) (n : Nat) : bare (slotAt (retire s w) n) = bare (slotAt s n) := by
  rw [slotAt_retire]; rfl

/-- A register write of the issuing slot is found from its latency on. -/
theorem bare_wreg (s : State) (f : RFile) (idx lat : Nat) (v : W256) (hf : f = .x ∨ f = .v ∨ f = .k) (n : Nat) :
    bare (slotAt (wreg s f idx lat v) n) =
      bare (if n < s.now + lat then slotAt s n else
        (slotAt s n).land (s.curSlot == 4) { file := f, idx := idx, val := v, due := s.now + lat, var := false }) := by
  unfold wreg
  split
  · rename_i h
    obtain ⟨rfl, rfl⟩ := h
    split <;> rfl
  · rw [slotAt_modMe]
    exact bare_addPend _ _ _ (by rcases hf with rfl | rfl | rfl <;> rfl) rfl _

theorem mineOnly_wreg (s : State) (f : RFile) (idx lat : Nat) (v : W256) : MineOnly s (wreg s f idx lat v) := by
  unfold wreg
  split
  · exact mineOnly_refl s
  · exact mineOnly_modMe _ _

theorem me_wreg_pc (s : State) (f : RFile) (idx lat : Nat) (v : W256) : (me (wreg s f idx lat v)).pc = (me s).pc := by
  unfold wreg
  split
  · rfl
  · rw [me_modMe]; rfl

/-- Whatever writes one register and goes on, completes so. -/
theorem writes_wreg {i : Instr} {s : State} {w : BitVec 3} {f : RFile} {idx lat : Nat} {v : W256} {eff : Slot → Slot}
    (hf : f = .x ∨ f = .v ∨ f = .k)
    (heff : ∀ u : Slot, u.land (s.curSlot == 4) { file := f, idx := idx, val := v, due := s.now + lat, var := false } = eff u)
    (he : exec i s = .next (retire (wreg s f idx lat v) w)) : Writes i s w lat eff := by
  refine ⟨_, he, ?_, mineOnly_trans (mineOnly_wreg s f idx lat v) (mineOnly_retire _ w), fun n => ?_⟩
  · have h := onward_retire (wreg s f idx lat v) w
    unfold Onward Goes at h ⊢
    rw [me_wreg_pc, mineOnly_now (mineOnly_wreg s f idx lat v)] at h
    exact h
  · rw [bare_retire, bare_wreg s f idx lat v hf, heff]

theorem givesX_of {i : Instr} {s : State} {w : BitVec 3} {d : BitVec 5} {lat : Nat} {v : W64}
    (he : exec i s = .next (retire (wx s d lat v) w)) : GivesX i s w d lat v :=
  writes_wreg (.inl rfl) (fun u => bare_land_x u _ _ _ _) he

theorem givesV_of {i : Instr} {s : State} {w : BitVec 3} {d : BitVec 5} {lat : Nat} {v : W256}
    (he : exec i s = .next (retire (wv s d lat v) w)) : GivesV i s w d lat v :=
  writes_wreg (.inr (.inl rfl)) (fun u => land_v u _ _ _ _) he

theorem givesK_of {m : Nat} {i : Instr} {s : State} {w : BitVec 3} {d : BitVec m} {lat : Nat} {v : W32}
    (he : exec i s = .next (retire (wk s d lat v) w)) : GivesK i s w d lat v :=
  writes_wreg (.inr (.inr rfl)) (fun u => land_k u _ _ _ _) he

/-! ### Updates of the issuing slot that are no register write, and control transfers -/

/-- An update of the issuing slot that touches no register is seen in every cycle. -/
theorem slotAt_rest (s : State) (f : Slot → Slot) (hf : setRest (me s) (f (me s)) = f (me s))
    (hp : (f (me s)).pend = (me s).pend) (n : Nat) :
    slotAt (modMe s f) n = setRest (slotAt s n) { f (me s) with pend := restOf n (me s).pend } := by
  rw [slotAt_modMe, ← hf, landDue_setRest _ _ _ _ hp]
  rfl

theorem slotAt_pend (s : State) (n : Nat) : (slotAt s n).pend = restOf n (me s).pend := by
  unfold slotAt; rw [landDue_eq]

/-- The registers of a slot in a cycle, and the rest as the slot now stands. -/
theorem slotAt_self (s : State) (n : Nat) : slotAt s n = setRest (slotAt s n) { me s with pend := restOf n (me s).pend } :=
  (landDue_rest (me s) (s.curSlot == 4) n).symm

theorem goes_goTo (s : State) (w : BitVec 3) (target : W64) :
    Goes s (goTo s w target) w target (if inBuffer s target then 0 else 3) := by
  unfold Goes goTo
  rw [me_modMe]
  exact ⟨rfl, rfl, rfl, rfl, rfl⟩

theorem mineOnly_goTo (s : State) (w : BitVec 3) (target : W64) : MineOnly s (goTo s w target) :=
  mineOnly_trans (mineOnly_issued s true) (mineOnly_modMe _ _)

/-- Continuing elsewhere leaves the registers of every cycle; the fetch buffer stays or is emptied. -/
theorem bare_goTo (s : State) (w : BitVec 3) (target : W64) (n : Nat) :
    bare (slotAt (goTo s w target) n) =
      bare { slotAt s n with fbuf := if inBuffer s target then (me s).fbuf else [] } := by
  unfold goTo
  rw [slotAt_rest _ _ rfl rfl]
  have e2 := landDue_rest (me s) (s.curSlot == 4) n
  have e3 : slotAt s n = setRest ((me s).landDue (s.curSlot == 4) n) { me s with pend := restOf n (me s).pend } := e2.symm
  rw [e3]
  rfl

theorem me_wreg_fbuf (s : State) (f : RFile) (idx lat : Nat) (v : W256) : (me (wreg s f idx lat v)).fbuf = (me s).fbuf := by
  unfold wreg
  split
  · rfl
  · rw [me_modMe]; rfl

/-- Whatever writes a link and continues elsewhere, jumps so. -/
theorem jumps_wx {i : Instr} {s : State} {w : BitVec 3} {d : BitVec 5} {lat : Nat} {v target : W64}
    (he : exec i s = .next (goTo (wx s d lat v) w target)) : Jumps i s w target lat (fun u => putX u d.toNat v) := by
  have hb : inBuffer (wx s d lat v) target = inBuffer s target := by
    unfold inBuffer wx; rw [me_wreg_fbuf]
  refine ⟨_, he, ?_, mineOnly_trans (mineOnly_wreg _ _ _ _ _) (mineOnly_goTo _ _ _), fun n => ?_⟩
  · have h := goes_goTo (wx s d lat v) w target
    unfold Goes at h ⊢
    rw [hb, show (wx s d lat v).now = s.now from mineOnly_now (mineOnly_wreg _ _ _ _ _)] at h
    exact h
  · rw [bare_goTo, hb]
    have e := bare_wreg s .x d.toNat lat (v.setWidth 256) (.inl rfl) n
    have e2 : (me (wx s d lat v)).fbuf = (me s).fbuf := me_wreg_fbuf _ _ _ _ _
    rw [e2]
    have e3 := congrArg (fun u : Slot => { u with fbuf := if inBuffer s target then (me s).fbuf else [] }) e
    rw [show (fun u : Slot => putX u d.toNat v) = fun u => u.land (s.curSlot == 4)
      { file := .x, idx := d.toNat, val := v.setWidth 256, due := s.now + lat, var := false } from
      funext fun u => (bare_land_x u _ _ _ _).symm]
    exact e3

/-- Going to another instruction without writing a register. -/
theorem jumps_goTo {i : Instr} {s : State} {w : BitVec 3} {target : W64} (he : exec i s = .next (goTo s w target)) :
    Jumps i s w target 0 id := by
  refine ⟨_, he, goes_goTo s w target, mineOnly_goTo _ _ _, fun n => ?_⟩
  rw [bare_goTo, id_eq, ite_self]

/-- Going on to the next word without writing a register. -/
theorem writes_retire {i : Instr} {s : State} {w : BitVec 3} (he : exec i s = .next (retire s w)) : Writes i s w 0 id := by
  refine ⟨_, he, onward_retire s w, mineOnly_retire _ _, fun n => ?_⟩
  rw [bare_retire]
  split <;> rfl

end Sys2Proof.Machine
end

