-- ==== Sys2Proof/Laws/Access.lean ====
section
/-! SUPPORT. Local memory as the accesses of a slot meet it, and what issuing an access does. -/
namespace Sys2Proof.Machine
open Sys2Proof Sys2Proof.Safety

/-! ### Places -/

theorem placeOf_localPa {core a : Nat} (hc : core < 2048) (ha : a < 0x40000) :
    placeOf (localPa core a) = .localMem core a := by
  unfold placeOf localPa
  have e1 : (2199023255552 + 524288 * core + a) % 524288 = a := by omega
  have e2 : (2199023255552 + 524288 * core + a) / 524288 % 2048 = core := by omega
  rw [if_neg (by omega), if_neg (by omega), if_pos (by omega)]
  simp only [e1, e2]
  rw [if_pos ha]

theorem backing_localPa {core a : Nat} (hc : core < 2048) (ha : a < 0x40000) :
    backing (localPa core a) = localPa core a := by
  unfold backing; rw [placeOf_localPa hc ha]

theorem wordErr_clean {s : State} {core a : Nat} (hc : core < 2048) (ha : a < 0x40000)
    (h : s.localBad.find (localPa core a / 8) = none) : wordErr s (localPa core a) = .good := by
  unfold wordErr; rw [placeOf_localPa hc ha]; simp only [h]

theorem noteRead_clean {s : State} {core a : Nat} (hc : core < 2048) (ha : a < 0x40000)
    (h : s.localBad.find (localPa core a / 8) = none) : noteRead s (localPa core a) = s := by
  unfold noteRead; rw [placeOf_localPa hc ha]; simp only [countCorrected, placeOf_localPa hc ha, h]; rfl

theorem countCorrected_clean {s : State} {core a : Nat} (hc : core < 2048) (ha : a < 0x40000)
    (h : s.localBad.find (localPa core a / 8) = none) : countCorrected s (localPa core a) = s := by
  unfold countCorrected; rw [placeOf_localPa hc ha]; simp only [h]; rfl

/-- Some of the bytes of a range, as a number. -/
theorem rdN_sub (s : State) (m k n pa : Nat) (h : k + n ≤ m) : rdN s pa m / 256 ^ k % 256 ^ n = rdN s (pa + k) n := by
  induction k generalizing pa m with
  | zero =>
    simp only [Nat.pow_zero, Nat.div_one, Nat.add_zero]
    induction n generalizing pa m with
    | zero => simp [rdN, Nat.mod_one]
    | succ n ih =>
      obtain ⟨m, rfl⟩ : ∃ k, m = k + 1 := ⟨m - 1, by omega⟩
      have hb := (memByte s pa).isLt
      have e1 : (rdN s pa (m + 1)) % 256 = (memByte s pa).toNat := by simp only [rdN]; omega
      have e2 : (rdN s pa (m + 1)) / 256 = rdN s (pa + 1) m := by simp only [rdN]; omega
      rw [show (256 : Nat) ^ (n + 1) = 256 * 256 ^ n by rw [Nat.pow_succ, Nat.mul_comm], Nat.mod_mul, e1, e2,
        ih m (pa + 1) (by omega)]
      rfl
  | succ k ih =>
    obtain ⟨m, rfl⟩ : ∃ j, m = j + 1 := ⟨m - 1, by omega⟩
    have e2 : (rdN s pa (m + 1)) / 256 = rdN s (pa + 1) m := by
      have hb := (memByte s pa).isLt
      simp only [rdN]; omega
    rw [show pa + (k + 1) = pa + 1 + k by omega, ← ih m (pa + 1) (by omega),
      show (256 : Nat) ^ (k + 1) = 256 * 256 ^ k by rw [Nat.pow_succ, Nat.mul_comm], ← Nat.div_div_eq_div_mul, e2]

/-- An aligned word inside one dword of local memory. -/
theorem wordAt_local {s : State} {core a n : Nat} (hc : core < 2048) (ha : a + n ≤ 0x40000) (h8 : a % 8 + n ≤ 8) (hn : 0 < n) :
    wordAt s (localPa core a) n = rdN s (localPa core a) n := by
  have e : localPa core a / 8 * 8 = localPa core (a / 8 * 8) := by unfold localPa; omega
  have em : localPa core a % 8 = a % 8 := by unfold localPa; omega
  unfold wordAt dwordAt
  rw [placeOf_localPa hc (by omega), e, backing_localPa hc (by omega), em]
  simp only [rd64]
  have hlt : rdN s (localPa core (a / 8 * 8)) 8 < 2 ^ 64 := by
    have := rdN_lt s 8 (localPa core (a / 8 * 8)); norm_num at this ⊢; exact this
  rw [BitVec.toNat_ofNat, Nat.mod_eq_of_lt hlt, show (2 : Nat) ^ (8 * (a % 8)) = 256 ^ (a % 8) by rw [Nat.pow_mul],
    show (2 : Nat) ^ (8 * n) = 256 ^ n by rw [Nat.pow_mul], rdN_sub s 8 (a % 8) n _ h8]
  congr 1
  unfold localPa; omega

/-! ### The checks of a local access -/

theorem localGate_ok {s : State} {a : W64} {n al : Nat} {load dstore : Bool} (h : LocalOk s a n al load dstore) :
    localGate s a n al load dstore = none := by
  obtain ⟨_, h1, h2, h3, h4, h5, h6, h7⟩ := h
  have e' : (if load = true then shortGate s a n else none) = none := by
    split
    · rename_i hl; unfold shortGate; rw [h7 hl]; simp
    · rfl
  have f : addrGate s a n al (localAllowed s s.curCore s.curSlot (lvlOf (me s)) a.toNat n load dstore) = none := by
    unfold addrGate; rw [if_neg (by omega), if_neg (by simp [h3]; omega)]
  simp [localGate, localGateIf, e', f, granGate, h4, h5, h6]

theorem countAldShort_ok {s : State} {a : W64} {n al : Nat} {dstore : Bool} (h : LocalOk s a n al true dstore) :
    countAldShort s a.toNat n = s := by
  unfold countAldShort
  rw [h.2.2.2.2.2.2.2 rfl]
  simp

/-! ### Issuing an access -/

/-- What sending the accesses that may leave changes: whether they have been sent, what a message has waited, the agenda, the
environment's script and the packages' links. -/
def SentOnly (s t : State) : Prop :=
  { t with agenda := s.agenda, script := s.script, pkgs := s.pkgs, lastArr := s.lastArr, flights := s.flights } = s ∧
  ∀ id, (t.flights.find id).map (fun f => { f with sent := false, waitc := 0 }) =
    (s.flights.find id).map (fun f => { f with sent := false, waitc := 0 })

theorem sentOnly_refl (s : State) : SentOnly s s := ⟨rfl, fun _ => rfl⟩
theorem sentOnly_trans {s t u : State} (h : SentOnly s t) (g : SentOnly t u) : SentOnly s u := by
  refine ⟨?_, fun id => (g.2 id).trans (h.2 id)⟩
  have h1 := congrArg (fun x : State => { x with
    agenda := s.agenda, script := s.script, pkgs := s.pkgs, lastArr := s.lastArr, flights := s.flights }) g.1
  exact h1.trans h.1

theorem sentOnly_scheduleOnce (s : State) (n : Nat) (i : Instr) (l : List Nat) : SentOnly s (scheduleOnce s n i l) := by
  unfold scheduleOnce; split
  · exact sentOnly_refl s
  · exact ⟨rfl, fun _ => rfl⟩

theorem sentOnly_addWait (s : State) (id n : Nat) : SentOnly s (addWait s id n) := by
  unfold addWait
  split
  · rename_i f h
    refine ⟨rfl, fun j => ?_⟩
    by_cases hj : id = j
    · subst hj; simp only; rw [FMap.find_ins_same, h]; rfl
    · simp only; rw [FMap.find_ins_other _ _ hj]
  · exact sentOnly_refl s

theorem sentOnly_takeDelay (s : State) : SentOnly s (takeDelay s).2 := by
  unfold takeDelay; split <;> exact ⟨rfl, fun _ => rfl⟩

theorem sentOnly_arriveIn (s : State) (least key : Nat) (i : Instr) (l : List Nat) : SentOnly s (arriveIn s least key i l) := by
  unfold arriveIn
  have h := sentOnly_takeDelay s
  generalize takeDelay s = p at h ⊢
  obtain ⟨d, u⟩ := p
  simp only
  refine sentOnly_trans (t := match i with | .amsendArrival => addWait u (l.headD 0) d | _ => u) ?_ ⟨rfl, fun _ => rfl⟩
  split
  · exact sentOnly_trans h (sentOnly_addWait _ _ _)
  · exact h

theorem sentOnly_enqueueFlits (s : State) (pkg k vc : Nat) (fs : List Flit) : SentOnly s (enqueueFlits s pkg k vc fs) := by
  unfold enqueueFlits
  exact sentOnly_trans (t := modPkg s pkg _) ⟨rfl, fun _ => rfl⟩ (sentOnly_scheduleOnce _ _ _ _)

theorem sentOnly_send (s : State) (a b c d e f g k : Nat) (i : Instr) (l : List Nat) :
    SentOnly s (send s a b c d e f g k i l) := by
  unfold send
  split
  · exact sentOnly_arriveIn _ _ _ _ _
  · simp only
    split
    · exact ⟨rfl, fun _ => rfl⟩
    · exact sentOnly_enqueueFlits _ _ _ _ _

theorem sentOnly_modFlight (s : State) (id : Nat) : SentOnly s (modFlight s id (fun f => { f with sent := true })) := by
  refine ⟨rfl, fun j => ?_⟩
  unfold modFlight
  cases h : s.flights.find id with
  | none => rfl
  | some v =>
    simp only
    by_cases hj : id = j
    · subst hj; rw [FMap.find_ins_same, h]; rfl
    · rw [FMap.find_ins_other _ _ hj]

theorem sentOnly_sendReady (l : List (Nat × Flight)) : ∀ s : State, SentOnly s (sendReady l s) := by
  induction l with
  | nil => intro s; exact sentOnly_refl s
  | cons p l ih =>
    obtain ⟨id, f⟩ := p
    intro s
    simp only [sendReady]
    split
    · refine sentOnly_trans ?_ (ih _)
      split
      · exact sentOnly_trans (sentOnly_modFlight s id) ⟨rfl, fun _ => rfl⟩
      · exact sentOnly_trans (sentOnly_modFlight s id) (sentOnly_send _ _ _ _ _ _ _ _ _ _ _)
    · exact ih s

theorem sentOnly_pushAccesses (s : State) (core slot : Nat) : SentOnly s (pushAccesses s core slot) := sentOnly_sendReady _ s

end Sys2Proof.Machine
end

