-- ==== Sys2Proof/Laws/Vector.lean ====
section
/-! SUPPORT. Lanes of a vector built lane by lane, and what the shared vector operations do. -/
namespace Sys2Proof.Machine
open Sys2Proof Sys2Proof.Safety

/-! ### Lanes -/

theorem ofLanes_lt (wd : Nat) : ∀ l : List Nat, ofLanes wd l < 2 ^ (wd * l.length) := by
  intro l
  induction l with
  | nil => simp [ofLanes]
  | cons a l ih =>
    simp only [ofLanes, List.length_cons]
    have h1 : a % 2 ^ wd < 2 ^ wd := Nat.mod_lt _ (by positivity)
    have h2 : 2 ^ (wd * (l.length + 1)) = 2 ^ wd * 2 ^ (wd * l.length) := by rw [Nat.mul_add, Nat.mul_one, Nat.pow_add, Nat.mul_comm]
    rw [h2]
    calc a % 2 ^ wd + 2 ^ wd * ofLanes wd l < 2 ^ wd + 2 ^ wd * ofLanes wd l := by omega
      _ = 2 ^ wd * (ofLanes wd l + 1) := by rw [Nat.mul_add, Nat.mul_one, Nat.add_comm]
      _ ≤ 2 ^ wd * 2 ^ (wd * l.length) := Nat.mul_le_mul_left _ ih

theorem ofLanes_div (wd : Nat) : ∀ (l : List Nat) (j : Nat),
    ofLanes wd l / 2 ^ (wd * j) % 2 ^ wd = l.getD j 0 % 2 ^ wd := by
  intro l
  induction l with
  | nil => intro j; simp [ofLanes]
  | cons a l ih =>
    intro j
    have h1 : a % 2 ^ wd < 2 ^ wd := Nat.mod_lt _ (by positivity)
    cases j with
    | zero => simp [ofLanes]
    | succ j =>
      have e : (ofLanes wd (a :: l)) / 2 ^ wd = ofLanes wd l := by
        simp only [ofLanes]
        rw [Nat.add_mul_div_left _ _ (by positivity), Nat.div_eq_of_lt h1, Nat.zero_add]
      rw [show wd * (j + 1) = wd + wd * j by rw [Nat.mul_add, Nat.mul_one, Nat.add_comm], Nat.pow_add, ← Nat.div_div_eq_div_mul, e, ih]
      rfl

/-- A lane of a register made of a list of lanes. -/
theorem lane_ofLanes (wd : Nat) (l : List Nat) (h : wd * l.length ≤ 256) (j : Nat) :
    lane (BitVec.ofNat 256 (ofLanes wd l)) wd j = l.getD j 0 % 2 ^ wd := by
  unfold lane
  have h1 : ofLanes wd l < 2 ^ 256 := lt_of_lt_of_le (ofLanes_lt wd l) (Nat.pow_le_pow_right (by norm_num) h)
  rw [BitVec.toNat_ofNat, Nat.mod_eq_of_lt h1, ofLanes_div]

theorem lane_lt (v : W256) (wd j : Nat) : lane v wd j < 2 ^ wd := Nat.mod_lt _ (by positivity)

theorem lane_buildLanes (wd n : Nat) (f : Nat → Nat) (h : wd * n ≤ 256) {j : Nat} (hj : j < n) :
    lane (buildLanes wd n f) wd j = f j % 2 ^ wd := by
  unfold buildLanes
  rw [lane_ofLanes _ _ (by simpa using h)]
  simp [List.getD_eq_getElem?_getD, hj]

/-- Lanes under a mask: an active one is replaced, an inactive one kept. -/
theorem lane_maskLanes (k : W32) (wd n : Nat) (old : W256) (f : Nat → Nat) (h : wd * n ≤ 256) {j : Nat} (hj : j < n) :
    lane (maskLanes k wd n old f) wd j = if k.getLsbD j then f j % 2 ^ wd else lane old wd j := by
  unfold maskLanes
  rw [lane_buildLanes _ _ _ h hj]
  split
  · rfl
  · exact Nat.mod_eq_of_lt (lane_lt _ _ _)

/-! ### The shared vector operations -/

/-- A lane-wise operation that raises no flag completes lane by lane. -/
theorem givesLanes_of {i : Instr} {s : State} {w : BitVec 3} {d : BitVec 5} {k : BitVec 3} {lat wd n : Nat} {f g : Nat → Nat}
    (hn : wd * n ≤ 256) (he : exec i s = vecPlain s w d k wd n lat f) (hf : ∀ j < n, f j % 2 ^ wd = g j) :
    GivesLanes i s w d k lat wd n g := by
  refine ⟨_, givesV_of he, fun j hj => ?_⟩
  rw [lane_maskLanes _ _ _ _ _ hn hj, hf j hj]

theorem commute_flags (h : Bool) (p q : Pend) (hp : p.file = .flags) (hq : q.file ≠ .csr) : Commute h p q := by
  intro u
  obtain ⟨pf, pi, pv, pd, pr⟩ := p
  obtain ⟨qf, qi, qv, qd, qr⟩ := q
  subst hp
  cases qf
  · simp only [Slot.land]; split <;> rfl
  · rfl
  · rfl
  · exact absurd rfl hq
  · simp only [Slot.land]; congr 1
    rw [BitVec.or_assoc, BitVec.or_comm (pv.setWidth 64), ← BitVec.or_assoc]

theorem wflags_me (s : State) (lat fl : Nat) : me (wflags s lat fl) = { me s with
    flagDue := max (me s).flagDue (s.now + lat),
    pend := if fl = 0 then (me s).pend
      else insPend { file := .flags, idx := 0, val := BitVec.ofNat 256 fl, due := s.now + lat, var := false } (me s).pend } := by
  unfold wflags; rw [me_modMe]

theorem setFlagDue (u : Slot) (h : Bool) (n fd : Nat) :
    ({ u with flagDue := fd } : Slot).landDue h n = { u.landDue h n with flagDue := fd } := by
  have e := landDue_setRest u { u with flagDue := fd } h n rfl
  have e2 := landDue_rest u h n
  rw [← e2]
  exact e

/-- The flags an instruction raises are found from its latency on, beside those that stood. -/
theorem bare_wflags (s : State) (lat fl : Nat) (hq : flagsQuiet s lat) (n : Nat) (hfl : fl < 2 ^ 64) :
    bare (slotAt (wflags s lat fl) n) = bare { (if n < s.now + lat then slotAt s n else
      { slotAt s n with flags := (slotAt s n).flags ||| BitVec.ofNat 64 fl }) with
        flagDue := max (me s).flagDue (s.now + lat) } := by
  unfold wflags
  rw [slotAt_modMe]
  by_cases h0 : fl = 0
  · subst h0
    simp only [if_true]
    have e : ∀ u : Slot, ({ u with flags := u.flags ||| BitVec.ofNat 64 0 } : Slot) = u := by
      intro u; cases u; simp
    rw [e, ite_self]
    have := setFlagDue (me s) (s.curSlot == 4) n (max (me s).flagDue (s.now + lat))
    rw [show ({ me s with flagDue := max (me s).flagDue (s.now + lat), pend := (me s).pend } : Slot) =
      { me s with flagDue := max (me s).flagDue (s.now + lat) } from rfl, this]
    rfl
  · simp only [h0, if_false]
    generalize hp : ({ file := .flags, idx := 0, val := BitVec.ofNat 256 fl, due := s.now + lat, var := false } : Pend) = p
    have hv : p.var = false := by rw [← hp]
    have hd : p.due = s.now + lat := by rw [← hp]
    have hf : p.file = .flags := by rw [← hp]
    have e1 : ({ me s with flagDue := max (me s).flagDue (s.now + lat), pend := insPend p (me s).pend } : Slot).landDue
        (s.curSlot == 4) n = { ({ me s with pend := insPend p (me s).pend } : Slot).landDue (s.curSlot == 4) n with
          flagDue := max (me s).flagDue (s.now + lat) } :=
      setFlagDue { me s with pend := insPend p (me s).pend } _ n _
    rw [e1]
    have main : bare (({ me s with pend := insPend p (me s).pend } : Slot).landDue (s.curSlot == 4) n) =
        bare (if n < s.now + lat then slotAt s n else (slotAt s n).land (s.curSlot == 4) p) := by
      rw [bare_landDue]
      simp only
      by_cases hn : n < s.now + lat
      · rw [if_pos hn, dueOf_insPend_late p n (by rw [hd]; exact hn), landAll_setPend]
        unfold slotAt
        rw [bare_landDue]
        simp only [bare, var_insPend p hv]
      · rw [if_neg hn, landAll_setPend, landAll_insPend _ p n hv (by omega)]
        · unfold slotAt
          rw [landDue_eq, land_setPend (landAll (s.curSlot == 4) (dueOf n (me s).pend) (me s)) _ p (restOf n (me s).pend)]
          simp only [bare, var_insPend p hv, var_restOf]
        · intro q hq1 hq2 hq3 _
          apply commute_flags _ _ _ hf
          intro hc
          have := hq q hq1 hq2 hc
          omega
    have main2 := congrArg (fun u : Slot => { u with flagDue := max (me s).flagDue (s.now + lat) }) main
    have hland : ∀ u : Slot, u.land (s.curSlot == 4) p = { u with flags := u.flags ||| BitVec.ofNat 64 fl } := by
      intro u
      rw [← hp]
      simp only [Slot.land]
      congr 2
      apply BitVec.eq_of_toNat_eq
      simp only [BitVec.toNat_setWidth, BitVec.toNat_ofNat]
      omega
    rw [hland] at main2
    exact main2

theorem mineOnly_wflags (s : State) (lat fl : Nat) : MineOnly s (wflags s lat fl) := mineOnly_modMe _ _

/-- Whatever writes a vector register, raises flags and goes on, completes so. -/
theorem givesDrawn_of {i : Instr} {s s' : State} {w : BitVec 3} {d : BitVec 5} {lat fl : Nat} {v : W256}
    (hs : me s' = me s ∧ s'.now = s.now ∧ s'.curSlot = s.curSlot) (hq : flagsQuiet s lat) (hfl : fl < 2 ^ 64)
    (he : exec i s = .next (retire (wflags (wv s' d lat v) lat fl) w)) : GivesDrawn i s s' w d lat v fl := by
  have hslot : ∀ n, slotAt s' n = slotAt s n := by intro n; unfold slotAt; rw [hs.1, hs.2.2]
  have hw : MineOnly s' (wv s' d lat v) := mineOnly_wreg _ _ _ _ _
  have hnow : (wv s' d lat v).now = s.now := (mineOnly_now hw).trans hs.2.1
  have hq' : flagsQuiet (wv s' d lat v) lat := by
    intro p hp hpv hpf
    unfold wv wreg at hp
    rw [if_neg (by simp)] at hp
    rw [me_modMe, hs.1] at hp
    rw [hnow]
    unfold Slot.addPend at hp
    simp only at hp
    have : ∀ (p q : Pend) (l : List Pend), p ∈ insPend q l → p = q ∨ p ∈ l := by
      intro p q l
      induction l with
      | nil => intro h; simpa [insPend] using h
      | cons r l ih =>
        intro h
        simp only [insPend] at h
        split at h
        · simpa using h
        · rcases List.mem_cons.1 h with h | h
          · exact .inr (by simp [h])
          · rcases ih h with h | h
            · exact .inl h
            · exact .inr (by simp [h])
    rcases this _ _ _ hp with h | h
    · rw [h] at hpf; simp at hpf
    · exact hq p (List.mem_filter.1 h).1 hpv hpf
  refine ⟨_, he, ?_, mineOnly_trans hw (mineOnly_trans (mineOnly_wflags _ _ _) (mineOnly_retire _ _)), fun n => ?_⟩
  · have h := onward_retire (wflags (wv s' d lat v) lat fl) w
    unfold Onward Goes at h ⊢
    rw [wflags_me, mineOnly_now (mineOnly_wflags _ _ _), mineOnly_now hw, show (me (wv s' d lat v)).pc = (me s').pc from me_wreg_pc _ _ _ _ _] at h
    exact h
  · rw [bare_retire, bare_wflags _ _ _ hq' _ hfl, hnow]
    have e := bare_wreg s' .v d.toNat lat v (.inr (.inl rfl)) n
    rw [hslot, hs.2.1] at e
    have ef : (me (wv s' d lat v)).flagDue = (me s).flagDue := by
      unfold wv wreg; rw [if_neg (by simp), me_modMe, hs.1]; rfl
    rw [ef]
    by_cases hn : n < s.now + lat
    · rw [if_pos hn, if_pos hn]
      rw [if_pos hn] at e
      exact congrArg (fun u : Slot => { u with flagDue := max (me s).flagDue (s.now + lat) }) e
    · rw [if_neg hn, if_neg hn]
      rw [if_neg hn] at e
      have e2 := congrArg (fun u : Slot => { u with
        flags := u.flags ||| BitVec.ofNat 64 fl, flagDue := max (me s).flagDue (s.now + lat) }) e
      exact e2

end Sys2Proof.Machine
end

