-- ==== Sys2Proof/Tests/Slice0.lean ====
section
/-! SUPPORT. Tests of the model on small states: terms that are no instructions, words of the encoding tables, worked examples of
the manual, and for each statement states that meet its hypotheses. -/
namespace Sys2Proof.Tests
open Sys2Proof Sys2Proof.Machine Sys2Proof.Safety
set_option Elab.async false

/-! ### Small states -/

/-- The machine after reset with the registers of core 0's slot 0 changed. -/
abbrev mk (f : Slot → Slot) : State := modMe State.reset f
/-- A slot with one scalar register set. -/
abbrev setX (r : Nat) (v : W64) (t : Slot) : Slot := { t with x := vset t.x r v }
/-- A running task whose x1 holds a value. -/
abbrev one (v : W64) : State := mk (fun t => setX 1 v { t with st := .run })
/-- The same at system level, in a trap handler. -/
abbrev sysOne (v : W64) : State := mk (fun t => setX 1 v { t with st := .trap, status := 1 })


/-! ### Reset and the fetch of a word -/
theorem test_reset_mem : memWf State.reset.mem = true := by decide
theorem test_fetch_add : decodeTableWord 32 0x00800000 = some (.add 0 0 0 0) := by decide
theorem test_step_runs :
    (match step (State.reset.withFetchWord 32 0x00840000) with
      | .next t => decide ((me t).pc = 4)
      | _ => false) = true := by decide

/-! ### Terms that are no instructions: each check of Instr.wf refuses one -/

theorem test_ill_formed_1 :
    ([.sext 0 1 2 3, .zext 0 1 2 3, .chcfg 0 4 1 2 0, .chcfg 0 3 1 2 3, .chidx 0 1 4 0,
      .chidx 0 1 3 3, .bfx 0 1 2 63 1, .bfi 0 1 2 32 32, .chloop 0 4 1, .ldz 0 1 2 3 0,
      .amsend 0 1 2 3 0 0, .csrr 0 1 9, .csrw 0 1 2 0x014, .csrs 0 1 2 0x01A, .csrc 0 1 2 0x022,
      .spl 0 0 31 0 1] : List Instr).all (fun i => !i.wf) = true := by decide

theorem test_ill_formed_2 :
    ([.fil 0 0 17 1 15, .vadd 0 9 1 2 3 0, .vsub 0 9 1 2 3 0, .vmul 0 9 1 2 3 0, .vmin 0 9 1 2 3 0,
      .vmax 0 9 1 2 3 0, .vabs 0 3 1 2 0, .vneg 0 5 1 2 0, .vabs 0 9 1 2 0, .vneg 0 9 1 2 0,
      .vadds 0 6 1 2 3 0, .vsubs 0 6 1 2 3 0, .vmulh 0 6 1 2 3 0, .vand 0 6 1 2 3 0, .vor 0 6 1 2 3 0,
      .vxor 0 6 1 2 3 0] : List Instr).all (fun i => !i.wf) = true := by decide

theorem test_ill_formed_3 :
    ([.vsll 0 6 1 2 3 0, .vsrl 0 6 1 2 3 0, .vsra 0 3 1 2 3 0, .vceq 0 0 8 1 2 0, .vcne 0 0 8 1 2 0,
      .vclt 0 0 8 1 2 0, .vcle 0 0 8 1 2 0, .vceq 0 9 7 1 2 0, .vcne 0 9 7 1 2 0, .vclt 0 9 7 1 2 0,
      .vcle 0 9 7 1 2 0, .vredsum 0 9 1 2 0, .vredmin 0 9 1 2 0, .vredmax 0 9 1 2 0, .vsel 0 9 1 2 3 0,
      .vdiv 0 5 1 2 3 0] : List Instr).all (fun i => !i.wf) = true := by decide

theorem test_ill_formed_4 :
    ([.vdiv 0 9 1 2 3 0, .vsqrt 0 5 1 2 0, .vsqrt 0 9 1 2 0, .vcvt 0 1 2 6 0 13, .vcvt 0 1 2 13 0 6,
      .vcvt 0 1 2 13 0 13, .vpack 0 1 2 5 0 0, .vunpack 0 1 2 11 0 0, .vbscale 0 1 2 5 0 0, .vbscale 0 1 2 6 0 2,
      .vbhdr 0 1 2 5 0 0, .vbcast 0 1 2 4, .vxget 0 1 2 3 4, .vxput 0 1 2 3 4, .vmand 0 8 1 2,
      .vmor 0 1 8 2] : List Instr).all (fun i => !i.wf) = true := by decide

theorem test_ill_formed_5 :
    ([.vmxor 0 1 2 8, .vmand 0 1 8 2, .vmand 0 1 2 8, .vmor 0 8 1 2, .vmor 0 1 2 8,
      .vmxor 0 8 1 2, .vmxor 0 1 8 2, .vmnot 0 8 1, .vmnot 0 1 8, .vmset 0 8 1,
      .vmget 0 1 8, .vexp2 0 1 2 0 3, .vlog2 0 1 2 0 3, .vrcp 0 1 2 0 3, .vrsqrt 0 1 2 0 3,
      .vtanh 0 1 2 0 3] : List Instr).all (fun i => !i.wf) = true := by decide

theorem test_ill_formed_6 :
    ([.vsin 0 1 2 0 3, .vcos 0 1 2 0 3, .vsigm 0 1 2 0 3, .mrd 0 1 2 3 0 8, .gcell 0 1 2 3,
      .gstep 0 1 2 0 0, .grun 0 2 0 0, .gsave 0 1 2 3 0 0, .grest 0 1 2 3 0 0, .qpush 0 1 2 0 3 0,
      .aopRed 0 1 2 0, .aopCmpx 0 1 2 0, .aopSacc 0 1 2 0, .aopDot 0 1 2 0, .vproj 0 1 2 0 0 0,
      .vprojLap2 0 1 2 3 0] : List Instr).all (fun i => !i.wf) = true := by decide

theorem test_ill_formed_7 :
    ([.hmerge 0 1 2 0] : List Instr).all (fun i => !i.wf) = true := by decide


/-! ### Words written out field by field from Tables 2-3 to 2-13, and the example words of the chapters -/

theorem test_word_add :
    decode 0b01000000100011001000010100000000#32 = .ok (.add 2 3 4 5) := by decide
theorem test_word_sub_w7 :
    decode 0b11100000111111111101110100000001#32 = .ok (.sub 7 31 30 29) := by decide
theorem test_word_csel :
    decode 0b00000000100001000100001111101001#32 = .ok (.csel 0 1 2 3 9) := by decide
theorem test_word_chcfg :
    decode 0b00000000100010010000100101000001#32 = .ok (.chcfg 0 2 8 9 1) := by decide
theorem test_word_clz :
    decode 0b00000000100110001110000000011000#32 = .ok (.clz 0 6 7) := by decide
theorem test_word_addi :
    decode 0b00000001001010010111111111111101#32 = .ok (.addi 0 10 11 8189) := by decide
theorem test_word_andi :
    decode 0b00000001100001000100000000000101#32 = .ok (.andi 0 1 2 5) := by decide
theorem test_word_slti :
    decode 0b00000001100001000101111111111111#32 = .ok (.slti 0 1 2 2047) := by decide
theorem test_word_srai :
    decode 0b00000010000001000100001000111111#32 = .ok (.srai 0 1 2 63) := by decide
theorem test_word_bfi :
    decode 0b00000010100001000101000111001001#32 = .ok (.bfi 0 1 2 7 9) := by decide
theorem test_word_lih :
    decode 0b00000011000101111111111111111111#32 = .ok (.lih 0 5 262143) := by decide
theorem test_word_jal :
    decode 0b00000011100001111111111111111111#32 = .ok (.jal 0 1 262143) := by decide
theorem test_word_jalr :
    decode 0b00000100000000000010000000000100#32 = .ok (.jalr 0 0 1 4) := by decide
theorem test_word_bhs :
    decode 0b00000111000001000101111111111111#32 = .ok (.bhs 0 1 2 8191) := by decide
theorem test_word_chloop :
    decode 0b00000111100011000000000000001100#32 = .ok (.chloop 0 3 12) := by decide
theorem test_word_ld_d :
    decode 0b00001000000100001011111111111000#32 = .ok (.ld 0 4 5 3 2040) := by decide
theorem test_word_ldz_h :
    decode 0b00001000100100001010100000000111#32 = .ok (.ldz 0 4 5 1 7) := by decide
theorem test_word_st_w :
    decode 0b00001001000100001011000000000001#32 = .ok (.st 0 4 5 2 1) := by decide
theorem test_word_ldg_d :
    decode 0b00001010000100001011100000000001#32 = .ok (.ldgD 0 4 5 3 1) := by decide
theorem test_word_stg_w :
    decode 0b00001010100100001010000000000001#32 = .ok (.stgW 0 4 5 0 1) := by decide
theorem test_word_stbit :
    decode 0b00001011100000000100001101111111#32 = .ok (.stbit 0 2 3 63) := by decide
theorem test_word_amo_cas :
    decode 0b00001100000001000100001110011010#32 = .ok (.amoCas 0 1 2 3 2 1) := by decide
theorem test_word_csrs :
    decode 0b00001110000001000101000000011001#32 = .ok (.csrs 0 1 2 25) := by decide
theorem test_word_tret :
    decode 0b00001110100000000000000000000001#32 = .ok (.tret 0) := by decide
theorem test_word_fence_die :
    decode 0b00101110100000000000000000001011#32 = .ok (.fenceDie 1) := by decide
theorem test_word_brk :
    decode 0b00001111000001000000000001001101#32 = .ok (.brk 0 77) := by decide
theorem test_word_vsub_w16 :
    decode 0b00010010000001000100001110000001#32 = .ok (.vsub 0 4 1 2 3 4) := by decide
theorem test_word_vdiv_f32 :
    decode 0b00010100000001000100001100011000#32 = .ok (.vdiv 0 8 1 2 3 0) := by decide
theorem test_word_vcvt :
    decode 0b00010100100001000100110101101011#32 = .ok (.vcvt 0 1 2 13 3 11) := by decide
theorem test_word_vunpack :
    decode 0b00010101000001000100011000000110#32 = .ok (.vunpack 0 1 2 6 0 2) := by decide
theorem test_word_vperm :
    decode 0b00010101100001000100001110000010#32 = .ok (.vperm 0 1 2 3 4) := by decide
theorem test_word_vfnma_f16 :
    decode 0b00010110000001000100001100100100#32 = .ok (.vfnmaF16 0 1 2 3 4) := by decide
theorem test_word_vld :
    decode 0b00010110100001000100000000000011#32 = .ok (.vld 0 1 2 3) := by decide
theorem test_word_vsin_bf16 :
    decode 0b00010111100001000100000001110101#32 = .ok (.vsin 0 1 2 3 2) := by decide
theorem test_word_mgang :
    decode 0b00011000000110000010001000000000#32 = .ok (.mgang 0 1 2) := by decide
theorem test_word_mrd :
    decode 0b00011000100001000100010101101101#32 = .ok (.mrd 0 1 2 5 3 13) := by decide
theorem test_word_gpatch :
    decode 0b00011100000000000010001000000000#32 = .ok (.gpatch 0 1 2) := by decide
theorem test_word_gtap :
    decode 0b00011100100001000100000001100001#32 = .ok (.gtap 0 1 2 3) := by decide
theorem test_word_hread :
    decode 0b00011110100010000010011100000000#32 = .ok (.hread 0 1 7) := by decide
theorem test_word_slabel :
    decode 0b00011110100101000010001000000000#32 = .ok (.slabel 0 1 2) := by decide

/-- csrs x0,status,x6; yield; done; tret; svc 7; brk 5; fence.task; fence.core; fence.col. -/
theorem test_chapter_words_1 :
    ([(0x0e00d000, .csrs 0 0 6 0),
      (0x0e800003, .yield 0),
      (0x0e800002, .done 0),
      (0x0e800001, .tret 0),
      (0x0f000007, .svc 0 7),
      (0x0f040005, .brk 0 5),
      (0x0e800008, .fenceTask 0),
      (0x0e800009, .fenceCore 0),
      (0x0e80000a, .fenceCol 0)] : List (W32 × Instr)).all
      (fun p => decide ((decode p.1).toOption = some p.2)) = true := by decide

/-- fence.die; fence.pkg; fence.card; isync; amo.add.d.c1 x6, x7, 0(x8); amo.cas.w x5, x6, 0(x9); amsend.c1 x10, x11, cc3; amsend x10,x11; cqpush.nb x7, x10, wm0. -/
theorem test_chapter_words_2 :
    ([(0x0e80000b, .fenceDie 0),
      (0x0e80000c, .fencePkg 0),
      (0x0e80000d, .fenceCard 0),
      (0x0e800004, .isync 0),
      (0x0c190706, .amoAdd 0 6 8 7 1 1),
      (0x0c152690, .amoCas 0 5 9 6 0 0),
      (0x0c814b39, .amsend 0 10 11 3 1 1),
      (0x0c814b00, .amsend 0 10 11 0 0 0),
      (0x1f054710, .cqpushNb 0 10 7 0 1 0 0)] : List (W32 × Instr)).all
      (fun p => decide ((decode p.1).toOption = some p.2)) = true := by decide

/-- wmwait wm0,x11; nput up, 1, x26, x5; nclr x26; spl 5,x10,4; fil 5,x10,4; vadd.f32 v1, v2, v3, k1; vclt.s16 k2, v1, v3; vredsum.f32 v6, v1; vfma.f32 v4, v1, v2, v3. -/
theorem test_chapter_words_3 :
    ([(0x1f096000, .wmwait 0 11 0),
      (0x0c84a0a2, .nput 0 5 1 1 2),
      (0x0c880002, .nclr 0 2),
      (0x0e954310, .spl 0 5 10 0 3),
      (0x0e954311, .fil 0 5 10 0 3),
      (0x14044320, .vadd 0 8 1 2 3 1),
      (0x10882312, .vclt 0 1 2 1 3 0),
      (0x14182014, .vredsum 0 8 6 1 0),
      (0x16102218, .vfmaF32 0 4 1 2 3)] : List (W32 × Instr)).all
      (fun p => decide ((decode p.1).toOption = some p.2)) = true := by decide

/-- vmacc.s32 v8, v9, v10, v8; vcvt.f16.f32 v3, v1; vxget.d x7, v2, x9; vmset k3,x5; vexp2.f32 v2, v3; vtanh.bf16 v2, v3; vld v5, 64(x6); mwr sh0, 3, x13; macfg ac0, x23. -/
theorem test_chapter_words_4 :
    ([(0x16212a46, .vmaccS32 0 8 9 10 8),
      (0x148c2d0b, .vcvt 0 3 1 13 0 11),
      (0x159c4965, .vxget 0 7 2 9 3),
      (0x158ca014, .vmset 0 3 5),
      (0x17886000, .vexp2 0 2 3 0 0),
      (0x17886014, .vtanh 0 2 3 0 2),
      (0x1694c002, .vld 0 5 6 2),
      (0x1801a018, .mwr 0 13 0 3),
      (0x1812e000, .macfg 0 23 0 0)] : List (W32 × Instr)).all
      (fun p => decide ((decode p.1).toOption = some p.2)) = true := by decide

/-- mlds sh1, x0, x0; mswap; csrw x0, scale_a, x20, w=1; mstr.nacc ac0, sh0, x0, x21; mstr.neg ac0, sh0, x0, x21; waitlt cc1, x22; mrd.f32 v5, x0, ac0, k1; mrd.s32 v6, x0, ac0, k1; gpatch x22,x20. -/
theorem test_chapter_words_5 :
    ([(0x18040020, .mlds 0 0 0 1),
      (0x18080000, .mswap 0),
      (0x2e028812, .csrw 1 0 20 18),
      (0x180c1501, .mstr 0 0 21 0 0 0 1),
      (0x180c1502, .mstr 0 0 21 0 0 1 0),
      (0x0d0ac001, .waitlt 0 22 1),
      (0x1894002d, .mrd 0 5 0 0 1 13),
      (0x18980022, .mrd 0 6 0 0 1 2),
      (0x1c02d400, .gpatch 0 22 20)] : List (W32 × Instr)).all
      (fun p => decide ((decode p.1).toOption = some p.2)) = true := by decide

/-- gcell.cfg x0, x7; gclk sk0, x9; gstep sk0, x10, cc0; gsave.clk x12, x13; grest.clk x12, x13; grd x15, x15; gstat x18, x0; qrsv x6, q1; qpush q1, x7, x8, q0. -/
theorem test_chapter_words_6 :
    ([(0x1c040702, .gcell 0 0 7 2),
      (0x1c0d2000, .gclk 0 9 0),
      (0x1c114008, .gstep 0 10 0 1 0),
      (0x1c1d8d01, .gsave 0 12 13 0 0 1),
      (0x1c218d01, .grest 0 12 13 0 0 1),
      (0x1c09ef00, .grd 0 15 15),
      (0x1c241200, .gstat 0 0 18),
      (0x1e000601, .qrsv 0 6 1),
      (0x1e04e881, .qpush 0 7 8 1 0 1)] : List (W32 × Instr)).all
      (fun p => decide ((decode p.1).toOption = some p.2)) = true := by decide

/-- qpop x5,q0; qrel q0; qmark q1, x9; qflush q2, x10; ast x12, x13, 1; aop.red x14, wm1; bar.arrive b5, x0; bar.expect b5, x9; bar.wait b5, x6. -/
theorem test_chapter_words_7 :
    ([(0x1e080500, .qpop 0 5 0),
      (0x1e0c0000, .qrel 0 0),
      (0x1e152001, .qmark 0 9 1),
      (0x1e114002, .qflush 0 10 2),
      (0x1e258d00, .ast 0 12 13 0),
      (0x1e31c030, .aopRed 0 14 1 1),
      (0x1f200005, .barArrive 0 0 5),
      (0x1f252005, .barExpect 0 9 5),
      (0x1f28c005, .barWait 0 6 5)] : List (W32 × Instr)).all
      (fun p => decide ((decode p.1).toOption = some p.2)) = true := by decide

/-- bar.try x7, b5; vproj.rq x10, x0, cc2; hmerge x15, cc3; hread x7, x6; snorm x12; sdraw x8, x11; slabel x13, x14; nop addi x0,x0,0; ret jalr x0,0(x1). -/
theorem test_chapter_words_8 :
    ([(0x1f2c0705, .barTry 0 7 5),
      (0x1e814029, .vproj 0 10 2 1 0 1),
      (0x1e85e038, .hmerge 0 15 3 1),
      (0x1e88c700, .hread 0 6 7),
      (0x1e8d8000, .snorm 0 12),
      (0x1e916800, .sdraw 0 11 8),
      (0x1e95ae00, .slabel 0 13 14),
      (0x01000000, .addi 0 0 0 0),
      (0x04002000, .jalr 0 0 1 0)] : List (W32 × Instr)).all
      (fun p => decide ((decode p.1).toOption = some p.2)) = true := by decide


/-! ### States that meet the hypotheses of the statements, scalar instructions and memory -/

theorem wit_extension_code : (2 : BitVec 5).toNat < 3 := by decide
theorem wit_bit_field : (0 : BitVec 6).toNat + (63 : BitVec 6).toNat + 1 ≤ 64 ∧ (63 : BitVec 6).toNat + (0 : BitVec 6).toNat + 1 ≤ 64 := by decide
theorem wit_chain : (3 : BitVec 5).toNat < 4 ∧ (2 : BitVec 2).toNat < 3 := by decide
theorem wit_jump_aligned : (xr (one 0xFFFFFFFFFFFFFFFC) 1#5 + (8 : BitVec 13).signExtend 64).toNat % 4 = 0 := by decide
theorem wit_csr_value : ((0x021 : BitVec 11), (myCore State.reset).ovfptr) ∈ [((0x000 : BitVec 11), (me State.reset).status),
    (0x021, (myCore State.reset).ovfptr)] := by decide
theorem wit_csr_task : csrAllowed (one 8) 0x000 (CsrOp.new .set (csrValue (one 8) 0x000) (xr (one 8) 1#5)) ∧ csrQuiet (one 8) := by
  unfold csrAllowed csrQuiet; decide
theorem wit_csr_system : csrAllowed (sysOne 5) 0x020 (CsrOp.new .write (csrValue (sysOne 5) 0x020) (xr (sysOne 5) 1#5)) := by
  unfold csrAllowed; decide
theorem wit_csr_refused : canTrap (one 1) ∧
    ¬ csrAllowed (one 1) 0x001 (CsrOp.new .write (csrValue (one 1) 0x001) (xr (one 1) 1#5)) := by
  unfold csrAllowed canTrap; decide
theorem wit_can_trap : canTrap (one 0) := by unfold canTrap; decide
theorem wit_double_trap : (mk (fun t => { t with status := 5, st := .trap })).curSlot < 4 ∧
    inTrap (me (mk (fun t => { t with status := 5, st := .trap }))) = true := by decide
theorem wit_jump_misaligned : canTrap (one 0x1000) ∧ (xr (one 0x1000) 1#5 + (2 : BitVec 13).signExtend 64).toNat % 4 ≠ 0 := by
  unfold canTrap; decide
theorem wit_tret_task : canTrap (one 0) ∧ (me (one 0)).status.getLsbD 0 = false := by unfold canTrap; decide
theorem wit_tret : (sysOne 0).curSlot < 4 ∧ (me (sysOne 0)).status.getLsbD 0 = true ∧ (me (sysOne 0)).draught = none := by decide
theorem wit_tret_draught : (me (mk (fun t => { t with status := 1, draught := some 3 }))).status.getLsbD 0 = true ∧
    (me (mk (fun t => { t with status := 1, draught := some 3 }))).draught ≠ none := by decide
theorem wit_yield : (me (one 0)).draught = none := by decide

/-- An address of local memory that a task may reach: the last dword below the Letterbox bodies. -/
theorem wit_local_dword : LocalOk (one 0x3FBF8) 0x3FBF8 8 8 true false ∧ CleanLocal (one 0x3FBF8) 0x3FBF8 8 ∧
    LocalOk (one 0x3FBF8) 0x3FBF8 8 8 false true ∧ (0x3FBF8 : W64).toNat < 0x3FE00 :=
  ⟨by unfold LocalOk; decide, fun _ _ _ => rfl, by unfold LocalOk; decide, by decide⟩
theorem wit_local_bits : LocalOk (one 63) 7 2 1 true false ∧ LocalOk (one 63) 7 2 1 false false ∧ CleanLocal (one 63) 7 2 ∧
    (63 : W64).toNat < 0x200000 ∧ ¬ 64 < 63 % 64 + (0 : BitVec 6).toNat + 1 :=
  ⟨by unfold LocalOk; decide, by unfold LocalOk; decide, fun _ _ _ => rfl, by decide, by decide⟩
theorem wit_local_straddle : LocalOk (mk (fun t => setX 1 63 { t with retry := true })) 7 9 1 true false ∧
    (64 < 63 % 64 + (63 : BitVec 6).toNat + 1 → (me (mk (fun t => setX 1 63 { t with retry := true }))).retry = true) :=
  ⟨by unfold LocalOk; decide, by decide⟩
theorem wit_local_vector : LocalOk (one 0x37FE0) 0x37FE0 32 32 true false ∧ LocalOk (one 0x37FE0) 0x37FE0 32 32 false false ∧
    CleanLocal (one 0x37FE0) 0x37FE0 32 ∧ (0x37FE0 : W64).toNat < 0x3FE00 :=
  ⟨by unfold LocalOk; decide, by unfold LocalOk; decide, fun _ _ _ => rfl, by decide⟩
theorem wit_access_traps : canTrap (one 0x3FFF9) ∧ (me (one 0x3FFF9)).waitchk.getLsbD 0 = false ∧
    (xr (one 0x3FFF9) 1#5 + (0 : BitVec 11).signExtend 64 * 8).toNat % 8 ≠ 0 := by unfold canTrap; decide
theorem wit_access_outside : canTrap (one 0x40000) ∧ (xr (one 0x40000) 1#5).toNat % 8 = 0 ∧ 0x40000 < (xr (one 0x40000) 1#5).toNat + 8 := by
  unfold canTrap; decide
theorem wit_access_tag : canTrap (one 0x3FE00) ∧ (xr (one 0x3FE00) 1#5).toNat % 8 = 0 ∧
    localAllowed (one 0x3FE00) 0 0 (lvlOf (me (one 0x3FE00))) 0x3FE00 8 false true = false := by unfold canTrap; decide

/-- A page of range entry 0 with every permission, at virtual address 0 and a physical address. -/
abbrev mapped (pa : W64) (s : State) : State := setReg (setReg s (dieWin 0 uTrans 8) pa) (dieWin 0 uTrans 24) 0x3E
theorem wit_global_load : GlobalOk (mapped 0x10000000000 (one 8)) (xr (mapped 0x10000000000 (one 8)) 1#5) 8 1 1 0x10000000008 :=
  ⟨by decide, ⟨15, by decide, by decide⟩, by decide⟩
theorem wit_global_store : GlobalOk (mapped 0x1000 (one 0xFFC)) (xr (mapped 0x1000 (one 0xFFC)) 1#5) 4 2 0 0x1FFC :=
  ⟨by decide, ⟨15, by decide, by decide⟩, by decide⟩
theorem wit_global_atomic : GlobalOk (mapped 0x20000080000 (one 0)) (xr (mapped 0x20000080000 (one 0)) 1#5) 8 3 2 0x20000080000 ∧
    ∃ c k, placeOf 0x20000080000 = .localMem c k ∨ placeOf 0x20000080000 = .slice c k :=
  ⟨⟨by decide, ⟨15, by decide, by decide⟩, by decide⟩, 1, 0, by decide⟩
theorem wit_fence : fenceWaits (one 0) 5 = false ∧ ∀ e ∈ (me (one 0)).errs, fenceReaches 5 0 e.home = false := by decide

/-- A global load on its way to the Attic slice of the next core. -/
abbrev flying : State :=
  { (one 0) with flights := [(0, newFlight (one 0) .load (homeNo (placeOf 0x10002000000)) 0 0x10002000000 8 0)] }
theorem wit_fence_waits : fenceWaits flying 5 = true ∧ fenceWaits flying 0 = false := by decide
theorem wit_message : LocalOk (one 0x100) 0x100 32 32 true false ∧ CleanLocal (one 0x100) 0x100 32 ∧ (0x100 : W64).toNat + 32 ≤ 0x3FE80 ∧
    sysOnlyRange (one 0x100) 0 0x100 32 = false := ⟨by unfold LocalOk; decide, fun _ _ _ => rfl, by decide, by decide⟩

theorem wit_ccset : ∀ p ∈ (myCore (one 0)).ccLog, p.1 ≠ (one 0).now ∨ p.2.1 ≠ 15 := by decide
theorem wit_waitlt : (vget (0 : BitVec 16) (myCore (one 0)).cc 0 - (xr (one 0) 1#5).setWidth 16).msb = false ∧
    ∀ r ∈ (me (one 0)).records, r.obj ≠ .cc 0 ∧ r.alt ≠ some 0 := by decide
theorem wit_waitlt_below : (vget (0 : BitVec 16) (myCore (one 1)).cc 0 - (xr (one 1) 1#5).setWidth 16).msb = true := by decide
/-- A fault recorded on counter 3. -/
abbrev aFault : Rec := { obj := .cc 3, order := 7, cause := 5, unit := 1, value := 9, alt := none }
theorem wit_recorded : canTrap (mk (fun t => { t with records := [aFault] })) ∧
    (vget (0 : BitVec 16) (myCore (one 0)).cc 3 - (xr (one 0) 1#5).setWidth 16).msb = false ∧
    (me (mk (fun t => { t with records := [aFault] }))).records = [] ++ aFault :: [] ∧ aFault.obj = .cc 3 := by
  unfold canTrap; decide

/-- Core 1's slot 0 issuing, with slot 3 of core 2 running and its x31 absent. -/
abbrev middle : State :=
  modSlot { State.reset with curCore := 1 } 2 3 (fun t => { t with st := .run, present := 0x7F })
theorem wit_nput : ¬ (middle.curCore % 16 = 15) ∧ (getSlot middle 2 3).st ≠ .free ∧ (getSlot middle 2 3).present.getLsbD 7 = false ∧
    ∀ p ∈ middle.agenda, p.2.1 = .nputLanding → p.2.2.take 3 ≠ [2, 3, 7] := by decide
theorem wit_nput_end : canTrap State.reset ∧ State.reset.curCore % 16 = 0 := by unfold canTrap; decide
theorem wit_nput_free : canTrap middle ∧ (getSlot middle 2 2).st = .free := by unfold canTrap; decide
theorem wit_nput_landing : ({ State.reset with args := [2, 3, 7, 5] } : State).args = [2, 3, 7, (5 : W64).toNat] ∧ 3 < 4 ∧ 7 < 8 := by decide

theorem wit_spl : groupPending (one 0) false 24 8 = [] ∧ (one 0).curSlot < 4 ∧ 24 + 8 ≤ 32 ∧
    (∀ i < 8, (me (one 0)).present.getLsbD (24 + i - 24) = true) ∧
    (roomAcc (freeTag (one 0) 0 0 31) 0 ((8 * 8 + 15) / 16)).isSome = true := by decide
/-- A core that holds a group of two vector registers under tag 5. -/
abbrev spilled : State := modMyCore (one 0) (fun c =>
  { c with spill := [{ slot := 0, tag := 5, isV := true, vals := [1, 2], place := 1, addr := 0 }] })
theorem wit_fil : (myCore spilled).spill.find? (fun x => x.slot == 0 && x.tag == 5 && x.isV == true && x.vals.length == 2) =
    some { slot := 0, tag := 5, isV := true, vals := [1, 2], place := 1, addr := 0 } ∧ groupPending spilled true 30 2 = [] := by decide
theorem wit_fil_none : canTrap (one 0) ∧
    (myCore (one 0)).spill.find? (fun x => x.slot == 0 && x.tag == 5 && x.isV == true && x.vals.length == 2) = none := by
  unfold canTrap; decide
theorem wit_done : openOps (one 0) 0 0 = [] ∧ (me (one 0)).records = [] ∧ (me (one 0)).barFaults = [] ∧ heldEndpoint (me (one 0)) = none ∧
    fenceWaits (one 0) 5 = false ∧ (me (one 0)).errs = [] := by decide
theorem wit_done_held : canTrap (mk (fun t => { t with holdP := [(7, 0)] })) ∧
    (heldEndpoint (me (mk (fun t => { t with holdP := [(7, 0)] })))).isSome = true := by unfold canTrap; decide
/-- Core 0's handler slot issuing. -/
abbrev inHandler : State := { State.reset with curSlot := 4 }
theorem wit_done_handler : inHandler.curSlot = 4 ∧ fenceWaits inHandler 5 = false ∧ (me inHandler).errs = [] ∧
    openOps inHandler 0 4 = [] := by decide


theorem wit_access_vector_tag : canTrap (one 0x3FE00) ∧ NoShort (one 0x3FE00) ∧ (xr (one 0x3FE00) 1#5).toNat % 32 = 0 ∧
    lvlOf (me (one 0x3FE00)) = false ∧ 0x3FE00 < (xr (one 0x3FE00) 1#5).toNat + 32 ∧
    localAllowed (one 0x3FE00) 0 0 false 0x3FE00 32 false false = false := ⟨by unfold canTrap; decide, Or.inl (by decide), by decide, by decide, by decide, by decide⟩
/-- Errors of an access to the next core and of one to this core, the older first. -/
abbrev oldErr : Err := { rd := some 31, home := 1, order := 3, cause := 5, unit := 0, value := 9 }
abbrev newErr : Err := { oldErr with rd := none, home := 0, order := 4 }
theorem wit_fence_error : canTrap (mk (fun t => { t with st := .run, errs := [oldErr, newErr] })) ∧
    (me (mk (fun t => { t with st := .run, errs := [oldErr, newErr] }))).errs = [oldErr] ++ newErr :: [] ∧
    (∀ e ∈ [oldErr], fenceReaches 1 0 e.home = false) ∧ fenceReaches 1 0 newErr.home = true := by unfold canTrap; decide
/-- As many accesses of the core wait to leave as its outbound queue and one more hold. -/
theorem wit_outbound_full : outboundFull { (one 0x100) with flights := List.replicate (Config.outboundSlots + 1) (0, newFlight (one 0) .load 1 0 0 8 0) } = true ∧
    outboundFull (one 0x100) = false := by
  refine ⟨?_, by decide⟩
  simp only [outboundFull, List.filter_replicate]
  exact decide_eq_true (by rw [if_pos (by decide), List.length_replicate]; exact Nat.lt_succ_self _)
/-- Slot 0 of core 17 issuing beside core 18's running slot 3 in one bank, with core 17 below and core 19 above. -/
abbrev above (u v : Slot → Slot) : State :=
  modSlot (modSlot { State.reset with curCore := 19 } 18 3 (fun t => u { t with st := .run, present := 0x7F })) 17 0 v
theorem wit_nput_above : ¬ ((above id id).curCore % 16 = 0) ∧ (getSlot (above id id) 18 3).st ≠ .free ∧ (getSlot (above id id) 18 3).present.getLsbD 7 = false ∧
    fromBelow (above id id) 18 3 7 = false ∧ (getSlot (above (fun t => { t with present := 0xFF }) id) 18 3).present.getLsbD 7 = true := by decide

/-- Above core 18, core 17's slot 0 stalls at an upward `nput` for x31 of its slot 3. -/
theorem wit_nput_yields : fromBelow (above id (fun t => { t with st := .run, pc := 0x40, present := 0xFF, stall := some 0, fbuf := [(0x40, encode (.nput 0 1 1 3 7))] })) 18 3 7 = true := by decide +kernel
/-- Core 0 with every accumulator entry allocated, its other slots in one state, and the spill registers at values. -/
abbrev packed (st : SlotSt) (base ovf fin : W64) : State :=
  setReg (modMyCore (modSlot (modSlot (modSlot (mapped 0x10000 (mk (fun t => { t with st := .run, ac := vset t.ac 0 (some 0xFFF80000000) }))) 0 1 (fun t => { t with st := st }))
    0 2 (fun t => { t with st := st })) 0 3 (fun t => { t with st := st })) (fun c => { c with spillbase := base, ovfptr := ovf })) (coreWin 0 0x040) fin
theorem wit_spl_bank : roomAcc (freeTag (packed .free 0 0 0) 0 0 5) 0 4 = none ∧ roomBank (freeTag (packed .free 0 0 0) 0 0 5) 0 64 = some 1 := by decide +kernel
theorem wit_spl_carve : roomAcc (freeTag (packed .run 0x403800 0 0) 0 0 5) 0 4 = none ∧ roomBank (freeTag (packed .run 0x403800 0 0) 0 0 5) 0 256 = none ∧
    roomCarve (freeTag (packed .run 0x403800 0 0) 0 0 5) 0 0 256 = some 0x3800 := by decide +kernel
theorem wit_spl_overflow : roomAcc (freeTag (packed .run 0 0xFC0 0x1000) 0 0 5) 0 4 = none ∧ roomBank (freeTag (packed .run 0 0xFC0 0x1000) 0 0 5) 0 64 = none ∧
    roomCarve (freeTag (packed .run 0 0xFC0 0x1000) 0 0 5) 0 0 64 = none ∧ roomOvf (freeTag (packed .run 0 0xFC0 0x1000) 0 0 5) 0 64 = some 0xFC0 ∧
    roomOvf (freeTag (packed .run 0 0xFC0 0x1000) 0 0 5) 0 65 = none ∧ canTrap (packed .run 0 0xFC0 0x1000) := by unfold canTrap; decide +kernel
theorem wit_fil_reads : (fetchGroup spilled 0 { slot := 0, tag := 5, isV := true, vals := [1, 2], place := 1, addr := 0 }).2.1 = [] ∧
    (fetchGroup { spilled with accBad := [accPa 0 1 / 16] } 0 { slot := 0, tag := 5, isV := true, vals := [1, 2], place := 1, addr := 0 }).2.1 = [2, 3] := by decide +kernel
theorem wit_granules_held : GranulesHeld (one 0) := fun _ => ⟨rfl, rfl⟩
theorem wit_group_pending : groupPending (mk (fun t => { t with pend := [⟨.x, 24, 7, 3, false⟩] })) false 24 8 ≠ [] ∧
    groupPending (mk (fun t => { t with pend := [⟨.x, 24, 7, 3, false⟩] })) false 25 7 = [] := by decide


/-! ### States that meet the hypotheses of the statements, vectors -/

/-- A running task with FIE set, every lane of k0 active and minus one in lane 0 of v1. -/
abbrev negOne : State :=
  mk (fun t => { t with st := .run, status := 16, k := vset t.k 0 0xFFFFFFFF, v := vset t.v 1 0xBF800000 })
theorem wit_vector_type : (5 : BitVec 4).toNat < 6 ∧ (8 : BitVec 4).toNat < 9 ∧ 6 ≤ (6 : BitVec 4).toNat ∧ (2 : BitVec 2).toNat < 3 := by decide
theorem wit_flags_quiet : flagsQuiet negOne 2 := by unfold flagsQuiet; decide
theorem wit_float_format : (fpFmt (tyCode 6)).isSome = true ∧ (fpFmt (tyCode 7)).isSome = true ∧ (fpFmt (tyCode 8)).isSome = true := by decide
theorem wit_float_completes : ¬ invalidTraps (one 0) 0 8 (fun j =>
    let q := sqrtNum (decodeNum 0x0D (lane (vr (one 0) 1#5) 32 j))
    ((roundTo 0x0D (rndPlain (me (one 0)).rndmode) q.1).1, q.2)) := by unfold invalidTraps; decide
theorem wit_float_traps : canTrap negOne ∧ invalidTraps negOne 0 8 (fun j =>
    let q := sqrtNum (decodeNum 0x0D (lane (vr negOne 1#5) 32 j))
    ((roundTo 0x0D (rndPlain (me negOne).rndmode) q.1).1, Nat.lor (roundTo 0x0D (rndPlain (me negOne).rndmode) q.1).2 q.2)) := by
  unfold canTrap invalidTraps; decide
/-- The same with infinities of both signs in lanes 0 and 1. -/
abbrev infs : State :=
  mk (fun t => { t with st := .run, status := 16, k := vset t.k 0 0xFFFFFFFF, v := vset t.v 1 0xFF8000007F800000 })
theorem wit_reduction_traps : canTrap infs ∧ fieOf (me infs) = true ∧
    (addNum 0 (decodeNum 0x0D (lane (vr infs 1#5) 32 0)) (decodeNum 0x0D (lane (vr infs 1#5) 32 1))).2 % 2 = 1 := by
  unfold canTrap; decide
theorem wit_fused_traps : canTrap infs ∧ invalidTraps infs 0 8 (fun j =>
    let e := fmaNum 0 false (decodeNum 0x0D (lane (vr infs 1#5) 32 j)) (decodeNum 0x0D (lane (vr infs 2#5) 32 j))
      (decodeNum 0x0D (lane (vr infs 3#5) 32 j))
    ((roundTo 0x0D (rndPlain (me infs).rndmode) e.1).1, Nat.lor (roundTo 0x0D (rndPlain (me infs).rndmode) e.1).2 e.2)) := by
  unfold canTrap invalidTraps; decide
theorem wit_vrget : (xr (one 31) 1#5).toNat < 32 ∧ canTrap (one 32) ∧ 32 ≤ (xr (one 32) 1#5).toNat := by unfold canTrap; decide
theorem wit_element : (3 : BitVec 3).toNat < 4 ∧ (xr (one 3) 1#5).toNat < 32 / 2 ^ 3 ∧ canTrap (one 4) ∧ 32 / 2 ^ 3 ≤ (xr (one 4) 1#5).toNat := by
  unfold canTrap; decide
theorem wit_conversion : (0x0D : BitVec 5).toNat ∈ [0, 1, 2, 3, 4, 5, 0x0B, 0x0C, 0x0D] ∧ (0x0D : BitVec 5) ≠ 0x05 := by decide
/-- A running task with FIE set and a NaN in lane 0 of v1. -/
abbrev aNan : State :=
  mk (fun t => { t with st := .run, status := 16, k := vset t.k 0 0xFFFFFFFF, v := vset t.v 1 0x7FC00000 })
theorem wit_conversion_traps : canTrap aNan ∧ invalidTraps aNan 0 8 (fun j =>
    roundTo 2 (convRnd aNan (convDraws aNan 0x0D 2) [] j) (decodeNum 0x0D (lane (vr aNan 1#5) 32 j))) := by
  unfold canTrap invalidTraps; decide
theorem wit_narrow : (14 : BitVec 5).toNat ∈ [6, 7, 8, 9, 10, 14] ∧ lane (vr (one 0) 1#5) 32 3 ≤ 0x7F800000 ∧
    ¬ invalidTraps (one 0) 0 8 (fun j => roundTo 6 (convRnd (one 0) (convDraws (one 0) 0x0D 6) [] j)
      (decodeNum 0x0D (lane (vr (one 0) 1#5) 32 j))) := by unfold invalidTraps; decide
theorem wit_no_satf : (rndPlain (me (one 0)).rndmode).satf = false := by decide

/-! ### Accesses at their homes -/

/-- A machine in which one access, numbered 0, has come to its home. -/
abbrev atHome (f : Flight) : State := { (one 0) with args := [0], flights := [(0, { f with sent := true })] }
/-- A load of 8 bytes and a store of 4 to local memory of core 1, and a load above the Letterbox tags. -/
abbrev aLoad : Flight := newFlight (one 0) .load 1 0 0x20000080008 8 0
abbrev aStore : Flight := { newFlight (one 0) .store 1 0 0x200000BFDFC 4 0 with b := 7, lvl := true }
abbrev badLoad : Flight := newFlight (one 0) .load 1 0 0x200000BFE80 8 0
theorem wit_load_home : waitsBehind (atHome aLoad) 0 { aLoad with sent := true } = false ∧ homeRefuses (atHome aLoad) aLoad = false ∧
    isMemory (placeOf aLoad.pa) = true ∧ errOf (homeRestore (atHome aLoad) aLoad) aLoad.pa aLoad.va = none := by decide
theorem wit_store_home : homeRefuses (atHome aStore) aStore = false ∧ wordErr (homeRestore (atHome aStore) aStore) aStore.pa ≠ .ecc ∧
    (∃ c off, placeOf aStore.pa = .localMem c off ∧ off + aStore.size ≤ 0x3FE00) ∧ ∃ p c, placeOf 0x2FFFFFFFF8 = .gddr p c :=
  ⟨by decide, by decide, ⟨1, 0x3FDFC, by decide, by decide⟩, 3, 47, by decide⟩
theorem wit_home_refuses : homeRefuses (atHome badLoad) badLoad = true := by decide
/-- The load's word is uncorrectable. -/
abbrev poisoned : State := { (atHome aLoad) with localBad := [(0x20000080008 / 8, true)] }
theorem wit_load_error : (errOf (homeRestore poisoned aLoad) aLoad.pa aLoad.va).isSome = true ∧ homeRefuses poisoned aLoad = false := by decide
abbrev anAmo : Flight := { newFlight (one 0) (.amo 9) 1 0 0x200000BFDF8 8 0 with rd := some 31, lvl := true, stamp := 0 }
theorem wit_amo_home : waitsBehind (atHome anAmo) 0 anAmo = false ∧ amoWaitsBehind (atHome anAmo) { anAmo with arrived := 1 } = false ∧ (getSlot (atHome anAmo) (anAmo.home % 2048) 4).st = .free ∧
    homeRefuses (atHome anAmo) anAmo = false ∧ placeOf anAmo.pa = .localMem 1 0x3FDF8 ∧
    errOf (homeRestore (atHome anAmo) anAmo) anAmo.pa anAmo.va = none := by decide
theorem wit_reply : (atHome anAmo).args = [0] ∧ (atHome anAmo).flights.find 0 = some { anAmo with sent := true } ∧ 0 < 31 ∧ anAmo.slot < 4 ∧
    sameTask (atHome anAmo) anAmo.core anAmo.slot anAmo.inc = true ∧ anAmo.err = none := by decide
theorem wit_reply_gone : sameTask (modSlot (atHome anAmo) 0 0 (fun t => { t with incarn := 2 })) anAmo.core anAmo.slot anAmo.inc = false := by decide
/-- A message for core 1's slot 2 at incarnation 0, and one for its handler. -/
abbrev aMsg : Flight := { newFlight (one 0) .amsend 1 0 0 32 0 with b := 0x1001, cnt := some 15 }
abbrev hMsg : Flight := { newFlight (one 0) .amsend 1 0 0 32 0 with b := 0x2001, cnt := some 0 }
abbrev aTarget (f : Flight) : State := modSlot (atHome f) 1 2 (fun t => { t with st := .run })
theorem wit_message_stale : bounceStatus (atHome aMsg) aMsg = some 1 := by decide
theorem wit_message_queued : bounceStatus (aTarget aMsg) aMsg = none ∧ bounceStatus (atHome hMsg) hMsg = none := by decide
theorem wit_message_reply : sameTask (atHome aMsg) 0 0 0 = true ∧ aMsg.cnt = some 15 ∧ aMsg.size ≠ 1 ∧ aMsg.err = none ∧
    recRoom (atHome aMsg) 0 0 = true := by decide
abbrev waiting (f : Flight) : State :=
  modCore { (aTarget f) with args := [1] } 1 (fun c => { c with arrq := [0] })
/-- A message accepted in the cycle it was sent in, in the package it was sent in, is not old. -/
theorem fresh_message (s : State) (f : Flight) (k : Nat) (hw : f.waitc = 0) (hh : f.heldAt = 0) (hn : s.now = 0)
    (hp : pkgOfCore f.home = k) (hs : f.stamp = Config.clockSkew k % 9 / 4 % 65536) : msgAge s f ≤ 2048 := by
  have h : Config.clockSkew k % 9 < 9 := Nat.mod_lt _ (by decide)
  simp only [msgAge, timeBase, hw, hh, hn, hp, hs, Nat.zero_add, ite_true]
  omega
theorem wit_message_age : msgAge (waiting aMsg) aMsg ≤ 2048 :=
  fresh_message _ _ 0 rfl rfl rfl rfl (by
    show (0 + Config.clockSkew 0 % 9) / 4 % 65536 = _
    rw [Nat.zero_add])
theorem wit_letterbox_task : (getCore (waiting aMsg) 1).arrq = [0] ∧ bounceStatus (waiting aMsg) aMsg = none ∧
    ((List.range 16).filter (fun j => (bitOf aMsg.b 13 || decide (4 ≤ j)) && !bitOf (lbEntry (waiting aMsg) 1 j).tag 63 &&
      decide ((lbEntry (waiting aMsg) 1 j).order ≤ (waiting aMsg).now))).head? = some 4 := by decide
theorem wit_letterbox_handler : bounceStatus (waiting hMsg) hMsg = none ∧ bitOf hMsg.b 13 = true ∧
    ((List.range 16).filter (fun j => (bitOf hMsg.b 13 || decide (4 ≤ j)) && !bitOf (lbEntry (waiting hMsg) 1 j).tag 63 &&
      decide ((lbEntry (waiting hMsg) 1 j).order ≤ (waiting hMsg).now))).head? = some 0 := by decide

/-- A stage with one task at position 0 and one handler, and an image of it. -/
abbrev aStage : Stage := { col := 0, tasks := [some 0], frame := 0, q := [], switches := [], handlers := [0x400], colBar := none, waitchk := false }
abbrev anImage : Image :=
  { readable := true, entries := [], stages := [aStage], corridors := [], bars := [], port := some 0, seedEntry := none, complete := false,
    tables := false, cmap := none, stack := 0, cwbase := 0, waitchk := false, pubkey := [], sig := [], body := [] }
/-- A partition of package 0 in a state of Table 14-6, its region control block at 0x1000. -/
abbrev aPart (state : Nat) : Part :=
  { rcb := 0x1000, parent := 0, root := 0x1000, state := state, launchPkg := 0, domain := 0, prio := 0, pkgs := 1, ht := 1, wd := 1, slots := 0, tvec := 0,
    attic := 0, pantry := 0, drain := 0, image := 0x2000, queuedAt := 0, bypass := 0, originYX := some (0, 0), hold := false, ending := false,
    pendingPre := none, blocked := false, rebind := [] }
/-- The machine with that partition, core 0 granted to it. -/
abbrev placed (state : Nat) : State :=
  modCore { State.reset with args := [0], parts := [aPart state], images := [(0x2000, anImage)] } 0
    (fun c => { c with grant := some { rcb := 0x1000, stage := 0, lent := none, handTo := none } })
theorem wit_handler : (getSlot (placed 3) 0 4).st = .free ∧ imageOf (placed 3) 0 = some (anImage, 0) ∧
    (anImage.stages.getD 0 ⟨0, [], 0, [], [], [], none, false⟩).handlers[(lbEntry (placed 3) 0 15).tag.toNat / 2 ^ 29 % 256]? = some 0x400 := by decide
theorem wit_handler_long : (getSlot (modSlot (placed 3) 0 4 (fun t => { t with st := .trap, hcount := 256 })) 0 4).st ≠ .free ∧
    256 ≤ (getSlot (modSlot (placed 3) 0 4 (fun t => { t with st := .trap, hcount := 256 })) 0 4).hcount := by decide
theorem wit_trap_entry : (getSlot (one 0) 0 0).st = .run ∧ inTrap (getSlot (one 0) 0 0) = false ∧ 3 < 4 := by decide
theorem wit_draught_limit : (mk (fun t => { t with draught := some 256 })).slots.find (slotKey 0 0) ≠ none ∧
    (getSlot (mk (fun t => { t with draught := some 256 })) 0 0).draught = some 256 ∧ 256 ≤ 256 := by decide
theorem wit_freeze : (getSlot (mk (fun t => { t with st := .run, freezing := true })) 0 0).freezing = true ∧
    freezeWaits (mk (fun t => { t with st := .run, freezing := true })) 0 0 = false := by decide
theorem wit_application_memory : placeRefuses State.reset 0 0 true 0x2FFFFFFFF8 = false ∧ 0x2FFFFFFFF8 % 8 = 0 ∧
    placeOf 0x2FFFFFFFF8 = .gddr 3 47 ∧ wordErr State.reset 0x2FFFFFFFF8 ≠ .ecc := by decide
theorem wit_application_register : storeMask (placeOf (coreWin 0 0x018)) = some 0xFFFFF ∧ isMemory (placeOf (coreWin 0 0x018)) = false ∧
    placeRefuses State.reset 0 0 true (coreWin 0 0x018) = false ∧ isW1c (placeOf (ccWin 0 0)) = true := by decide
/-- Core 0 granted to the running partition at 0x1000 while a halted one at 0x2000 owns local granule 63. -/
abbrev shared : State :=
  modCore { (placed 3) with parts := [aPart 3, { aPart 5 with rcb := 0x2000, root := 0x2000 }], args := [0, 63] } 0
    (fun c => { c with owner := [(63, 0x2000)], frames := [(0x2000, 0)] })
theorem wit_granule_save : (getCore shared 0).owner.get (partOfCore shared 0) 63 ≠ partOfCore shared 0 ∧
    haltedPart shared ((getCore shared 0).owner.get (partOfCore shared 0) 63) = true ∧ frameOff shared 0 0x2000 = some 0x1780000 ∧
    0x1780000 + 0x80000 ≤ 0x1800000 := by decide
abbrev away : State :=
  modCore { (placed 3) with args := [0, 0] } 0 (fun c => { c with saved := [(savedKey 0x1000 0, true)], frames := [(0x1000, 0)] })
theorem wit_granule_restore : (getCore away 0).owner.get (partOfCore away 0) 0 = partOfCore away 0 ∧
    (getCore away 0).saved.get false (savedKey (partOfCore away 0) 0) = true ∧ frameOff away 0 (partOfCore away 0) = some 0x1780000 := by decide
theorem wit_granule_clean : ∀ k < 512, away.syn.find (slicePa 0 (0x1780000 + 8 * k) / 8) = none := fun _ _ => rfl


/-! ### States that meet the hypotheses of the statements, the engines of a core -/

/-- Core 0's slot 0 at work with one engine entry of a kind, as the core's queues hold it. -/
abbrev engine (f : Core → Core) (args : List Nat) : State := { (modCore (one 0) 0 f) with args := args }

theorem wit_ald : chimFree (posOfCore (one 0x3FD80).curCore) (myCore (one 0x3FD80)) { op := 0, slot := 0, load := true, la := 0x3FD80, so := 0, n := 2, at0 := 0, left := 2, halves := [] } = true ∧
    (0x3FD80 : W64).toNat % 128 = 0 ∧ 0x3FD80 + 128 * 2 ≤ 0x3FE80 ∧ (0x1800000 - 256) + 128 * 2 ≤ attcap (one 0x3FD80) 0 ∧
    lvlOf (me (sysOne 0x3FD80)) = true ∧ touch (one 0x3FD80) 0 0 63 = .ok := by decide
theorem wit_ald_task : sysOnlyRange (one 0x37F00) 0 0x37F00 256 = false ∧ (0x1800000 - 256) + 128 * 2 ≤ pantry (one 0) 0 := by decide
theorem wit_ald_misaligned : canTrap (one 0x7F) ∧ (xr (one 0x7F) 1#5).toNat % 128 ≠ 0 := by unfold canTrap; decide
/-- An `ald` of one line and an `ast` of one line on their way. -/
abbrev aldXfer : Xfer := { op := 9, slot := 0, load := true, la := 0x3FE00, so := 0x17FFF80, n := 1, at0 := 0, left := 1, halves := [] }
abbrev astXfer : Xfer := { aldXfer with load := false }
theorem wit_ald_line : findXfer (engine (fun c => { c with chim := [aldXfer] }) [0, 9, 0, 0]) 0 9 = some aldXfer ∧ 0 < aldXfer.n ∧
    aldXfer.la + 128 * aldXfer.n ≤ 0x3FE80 ∧ aldXfer.so + 128 * aldXfer.n ≤ 0x1800000 ∧
    ∀ i ∈ (List.range 16), (one 0).syn.find (slicePa 0 (aldXfer.so + 8 * i) / 8) = none := by decide
theorem wit_ald_halves : ∃ v : Nat → W64, { aldXfer with halves := (List.range 16).map (fun i => (i, 7, false)) }.halves.filter (fun h => h.1 / 16 == 0) =
    (List.range 16).map (fun i => (i, v i, false)) := ⟨fun _ => 7, by decide⟩
theorem wit_ast_line : findXfer (engine (fun c => { c with chim := [astXfer] }) [0, 9, 0, 1]) 0 9 = some astXfer ∧ astXfer.load = false ∧
    astXfer.halves = [] ∧ ∀ i ∈ (List.range 16), (one 0).localBad.find (localPa 0 (astXfer.la + 8 * i) / 8) = none := by decide

/-- The last dword of core 0's slice with its check byte wrong by its first bit, and with two bits wrong. -/
abbrev synState (d : Byte) : State := { (one 0) with syn := [(slicePa 0 0x17FFFF8 / 8, d)] }
theorem wit_scrub : wordErr (one 0) (slicePa 0 0x17FFFF8) = .good ∧ wordErr (synState 1) (slicePa 0 0x17FFFF8) = .corrected ∧
    wordErr (synState 3) (slicePa 0 0x17FFFF8) = .attic 0 := by decide
theorem wit_scrub_local : ({ (one 0) with localBad := [(localPa 0 0x3FFF8 / 8, false)] } : State).localBad.find (localPa 0 0x3FFF8 / 8) = some false ∧
    (one 0).localBad.find (localPa 0 0 / 8) ≠ some false := by decide

theorem wit_record : RecordOk (one 0x100) (xr (one 0x100) 1#5) 32 :=
  ⟨by decide, by decide, by decide, by unfold LocalOk; decide, fun _ _ _ => rfl⟩
/-- A copy of four bytes from local 0 to local 8, and one with an illegal descriptor. -/
abbrev aCopy : CopyEnt :=
  { op := 5, entry := 0, slot := 0, inc := 0, part := 0, lvl := false, rnd := 0, key := 0, ctr := 0, fie := false, d0 := 0, d1 := 8, d2 := 0, d3 := 0x35000000,
    chan := some 7, commit := false, waitOps := [], started := true, shold := none, dhold := none, early := none, fin := false, fault := none,
    flags := 0, abandoned := false }
theorem wit_copy_room : (myCore (one 0)).cq.length < 8 ∧ 8 ≤ (myCore (engine (fun c => { c with cq := List.replicate 8 aCopy }) [])).cq.length := by decide
theorem wit_copy_misaligned : canTrap (one 31) ∧ (xr (one 31) 1#5).toNat % 32 ≠ 0 := by unfold canTrap; decide
theorem wit_wmwait : (vget 0 (myCore (one 1)).wm 7 - xr (one 1) 1#5).slt 0 = true ∧ (vget 0 (myCore (one 0)).wm 7 - xr (one 0) 1#5).slt 0 = false := by decide
theorem wit_copy_start : aCopy.waitOps = [] ∧ heldByFreeze (one 0) 0 aCopy.slot = false ∧
    (getCore (engine (fun c => { c with cq := [{ aCopy with started := false }] }) [0, 5]) 0).cq = [{ aCopy with started := false }] := by decide
theorem wit_copy_lands : aCopy.skind = 1 ∧ aCopy.dkind = 1 ∧ aCopy.hdrchk = false ∧ aCopy.rows = 1 ∧ aCopy.rowBytes = 4 ∧ bitOf aCopy.d3 21 = false ∧
    sameTask (one 0) 0 aCopy.slot aCopy.inc = true ∧ engineLocal (one 0) 0 aCopy.lvl 0 4 = true ∧ engineLocal (one 0) 0 aCopy.lvl 8 4 = true ∧
    (∀ k < 64, touch (one 0) 0 (partOf (one 0) aCopy.part) k = .ok) ∧ recRoom (one 0) 0 0 = true := by decide

/-- An attic command of each phase: a compare-and-exchange of slice dword 0 into local 0x100. -/
abbrev anAop (acc beg : Option Nat) : AopEnt :=
  { op := 4, core := 0, slot := 0, inc := 0, lvl := false, fie := false, rnd := 0, kind := 1, recAddr := 0, d := [0, 0x100, 0, 9], chan := none,
    accepted := acc, begun := beg, results := if beg = none then [] else [(0x100, 0), (0x104, 0)], attic := if beg = none then [] else [(slicePa 0 0, 9)],
    fault := none, flags := 0, abandoned := false }
abbrev withAop (e : AopEnt) (args : List Nat) : State := { (modCol (one 0x100) 0 (fun c => { c with aops := [e] })) with args := args }
theorem wit_aop_room : ((getCol (one 0x100) 0).aops.filter (fun x => x.core == 0)).length < 4 ∧
    4 ≤ (((getCol (modCol (one 0) 0 (fun c => { c with aops := List.replicate 4 (anAop none none) })) 0).aops.filter (fun x => x.core == 0)).length) := by decide
theorem wit_aop_accept : (getCol (withAop (anAop none none) [0, 4]) (colOfCore 0)).aops = [anAop none none] ∧ (anAop none none).accepted = none := by decide
theorem wit_aop_begin : (getCol (withAop (anAop (some 0) none) [0]) 0).aops = [anAop (some 0) none] ∧ (anAop (some 0) none).illegal = false ∧
    (∀ x ∈ (getCore (withAop (anAop (some 0) none) [0]) 0).chim, x.load = true ∨ 4 ≤ x.op) ∧
    (anAop (some 0) none).localBad (withAop (anAop (some 0) none) [0]) = none ∧
    rowsBad (withAop (anAop (some 0) none) [0]) 0 (anAop (some 0) none) [(anAop (some 0) none).src] 8 = none := by decide
theorem wit_aop_complete : (anAop (some 0) (some 0)).results = [(0x100, 0), (0x100 + 4, 0)] ∧ 0x100 + 8 ≤ 0x3FC00 ∧
    (∀ q ∈ (anAop (some 0) (some 0)).attic, placeOf q.1 = .slice 0 0) ∧ (anAop (some 0) (some 0)).attic.length ≤ 1 := by decide

/-- The access comes behind an earlier one of its source; an atomic of another source came before. -/
abbrev behind (f g : Flight) : State := { (one 0) with args := [1], flights := [(0, { g with sent := true, stamp := 0 }), (1, { f with sent := true, stamp := 0 })] }
theorem wit_home_behind : waitsBehind (behind aLoad aStore) 1 aLoad = true ∧ waitsBehind (behind aMsg aStore) 1 aMsg = true ∧
    amoWaitsBehind (behind anAmo { anAmo with core := 2, arrived := 1 }) { anAmo with arrived := 2 } = true ∧
    waitsBehind (behind anAmo { anAmo with core := 2, arrived := 1 }) 1 anAmo = false ∧
    (getSlot (modSlot (atHome anAmo) 1 4 (fun t => { t with st := .trap })) (anAmo.home % 2048) 4).st ≠ .free := by decide
theorem wit_store_places : homeRefuses (atHome { aStore with pa := slicePa 0 0x17FFFF8 }) { aStore with pa := slicePa 0 0x17FFFF8 } = false ∧
    wordErr (homeRestore (atHome aStore) { aStore with pa := slicePa 0 0x17FFFF8 }) (slicePa 0 0x17FFFF8) = .good ∧ slicePa 0 0x17FFFF8 % 4 = 0 ∧
    placeOf (slicePa 0 0x17FFFF8) = .slice 0 0x17FFFF8 ∧ placeOf (localPa 1 0x3FE78) = .localMem 1 0x3FE78 ∧
    homeRefuses (atHome aStore) { aStore with pa := localPa 1 0x3FE78, size := 8 } = false := by decide
theorem wit_amo_errors : homeRefuses (atHome anAmo) { anAmo with pa := localPa 1 0x3FE80 } = true ∧
    (errOf { (atHome anAmo) with localBad := [(anAmo.pa / 8, true)] } anAmo.pa anAmo.va).isSome = true := by decide
theorem wit_reply_error : ({ anAmo with err := some (5, 0, 7) } : Flight).err = some (5, 0, 7) ∧ ({ aStore with rd := none } : Flight).rd = none := by decide
/-- A sender with room for one more recorded fault, and one with none. -/
abbrev recording (n : Nat) (f : Flight) : State := modSlot (atHome f) 0 0 (fun t => { t with records := List.replicate n aFault })
theorem wit_message_fault : sameTask (recording 15 aMsg) 0 0 0 = true ∧ recRoom (recording 15 aMsg) 0 0 = true ∧ recRoom (recording 16 aMsg) 0 0 = false ∧
    ({ aMsg with cnt := none } : Flight).cnt = none ∧ sameTask (recording 0 aMsg) 0 0 1 = false ∧ ({ aMsg with slot := 4, size := 1 } : Flight).slot = 4 := by decide
theorem wit_handler_none : (getSlot (placed 3) 0 4).st = .free ∧ imageOf (modCore (placed 3) 0 (fun c => { c with lb := vset c.lb 15 { (lbEntry (placed 3) 0 15) with tag := 0x20000000 } })) 0 = some (anImage, 0) ∧
    (anImage.stages.getD 0 ⟨0, [], 0, [], [], [], none, false⟩).handlers[(0x20000000 : W64).toNat / 2 ^ 29 % 256]? = none := by decide
theorem wit_freeze_waits : freezeWaits (mk (fun t => { t with st := .run, freezing := true, pend := [⟨.x, 31, 7, 1, false⟩] })) 0 0 = true ∧
    (getSlot (mk (fun t => { t with st := .run, freezing := true, pend := [⟨.x, 31, 7, 1, false⟩] })) 0 0).freezing = true := by decide
theorem wit_application_held : appHeld (getPkg (modPkg State.reset 3 (fun p => { p with heldWrites := [[9, ccWin 3 8, 7, 0]] })) 3).heldWrites (ccWin 3 0x10) = true ∧
    appHeld (getPkg State.reset 3).heldWrites (ccWin 3 0x10) = false ∧ pkgOfPlace (placeOf (ccWin 3 0x10)) = 3 ∧ placeRefuses State.reset 3 0 true (ccWin 3 0x10) = false := by decide
theorem wit_granule_halted : haltedPart away ((getCore away 0).owner.get (partOfCore away 0) 0) = false := by decide

/-- A transfer that meets no free cycle, and addresses misaligned, past the end and above what a task may reach. -/
abbrev aldOf (s : State) : Xfer := { op := s.nextId, slot := 0, load := true, la := 0x80, so := 0x100, n := 1, at0 := s.now, left := 1, halves := [] }
theorem wit_ald_stalls : chimFree 0 (myCore (engine (fun c => { c with chim := [{ aldXfer with so := 0x1000 }] }) [])) (aldOf (one 0)) = false ∧
    ¬ ((0x17FFF80 : Nat) + 128 * 1 ≤ 0x17FFF80 ∨ 0x17FFF80 + 128 * 1 ≤ 0x17FFF80) := by decide
theorem wit_ald_refused : canTrap (one 0x3FF80) ∧ (0x40000 < (0x3FF80 : W64).toNat + 128 * 2) ∧ (0x3FF80 : W64).toNat % 128 = 0 ∧ (0x17FFF80 : W64).toNat % 128 = 0 ∧
    attcap (one 0x3FF80) 0 < (0x17FFF80 : W64).toNat + 128 * 2 ∧ lvlOf (me (one 0x3FF80)) = false ∧ sysOnlyRange (one 0x3FF80) 0 (0x3FF80 : W64).toNat 128 = true := by unfold canTrap; decide
theorem wit_ald_bad_half : ∃ (v : Nat → W64) (b : Nat → Bool), { aldXfer with halves := (List.range 16).map (fun i => (i, 7, i == 15)) }.halves.filter (fun h => h.1 / 16 == 0) =
    (List.range 16).map (fun i => (i, v i, b i)) ∧ b 15 = true := ⟨fun _ => 7, fun i => i == 15, by decide⟩
theorem wit_ald_left : ({ aldXfer with n := 2, left := 2 } : Xfer).left > 1 ∧ aldXfer.left ≤ 1 ∧ aldXfer.la % 128 = 0 ∧ aldXfer.so % 128 = 0 := by decide

/-- A fault of a copy whose bytes watermark 7 has counted. -/
abbrev wmFault : Rec := { aFault with obj := .wm 7, order := 3 }
theorem wit_wmwait_fault : canTrap (mk (fun t => { t with st := .run, records := [aFault, wmFault] })) ∧ counted (one 0) 0 7 wmFault.order = true ∧
    (me (mk (fun t => { t with st := .run, records := [aFault, wmFault] }))).records = [aFault] ++ wmFault :: [] ∧ ∀ y ∈ [aFault], ¬ y.obj = .wm 7 := by
  unfold canTrap; decide
theorem wit_copy_order : ((getCore (engine (fun c => { c with cq := [{ aCopy with started := false }, { aCopy with op := 6, started := false }] }) [0, 5]) 0).cq.map (fun x => x.op)).Nodup ∧
    ((getCore (engine (fun c => { c with cq := [{ aCopy with started := false }, { aCopy with op := 6, started := false }] }) [0, 5]) 0).cq.filter (fun x => x.started)).length ≤ 2 ∧
    ({ aCopy with started := false } : CopyEnt).mayStart (engine (fun c => { c with cq := [{ aCopy with started := false }] }) [0, 5]) 0 = true := by decide
/-- The bytes of a copy between local memory, and of one to package 0's memory that range entry 0 maps. -/
abbrev outCopy : CopyEnt := { aCopy with d1 := 0x40, d3 := 0x34000000 }
theorem wit_copy_places : outCopy.skind = 1 ∧ outCopy.dkind = 0 ∧ outCopy.rows = 1 ∧ outCopy.rowBytes = 4 ∧ outCopy.early = none ∧
    ∀ k < 4, outCopy.srcPlace (mapped 0x1000 (one 0)) 0 0 k = .ok (localPa 0 k) ∧ outCopy.dstPlace (mapped 0x1000 (one 0)) 0 0 k = .ok (0x1040 + k) ∧
      ((List.range 64).findSome? (rangeHit (mapped 0x1000 (one 0)) 0 0 (rowStart outCopy.d1 outCopy.dstride 0 + BitVec.ofNat 64 k).toNat)) = some (0x1040 + k, 15) ∧
      permits 15 2 outCopy.lvl = true ∧ wordErr (mapped 0x1000 (one 0)) (localPa 0 k) = .good ∧ wordErr (mapped 0x1000 (one 0)) (0x1040 + k) = .good ∧
      placeOf (localPa 0 k) = .localMem 0 k ∧ ∃ ch, placeOf (0x1040 + k) = .gddr 0 ch := by
  refine ⟨by decide, by decide, by decide, by decide, by decide, fun k h => ?_⟩
  have : k = 0 ∨ k = 1 ∨ k = 2 ∨ k = 3 := by omega
  rcases this with rfl | rfl | rfl | rfl <;> exact ⟨by decide, by decide, by decide, by decide, by decide, by decide, by decide, 16, by decide⟩
theorem wit_copy_fault : ({ aCopy with early := some (1, 9) } : CopyEnt).early = some (1, 9) ∧ aCopy.fin = false ∧ aCopy.abandoned = false ∧
    recRoom (recording 16 aMsg) 0 aCopy.slot = false ∧ sameTask (recording 16 aMsg) 0 aCopy.slot aCopy.inc = true := by decide
theorem wit_aop_waits : ∃ x ∈ (getCore (modCore (withAop (anAop (some 0) none) [0]) 0 (fun c => { c with chim := [{ astXfer with op := 3 }] })) 0).chim,
    x.load = false ∧ x.op < (anAop (some 0) none).op := ⟨{ astXfer with op := 3 }, by decide, by decide⟩
theorem wit_aop_compares : (anAop (some 0) (some 0)).kind = 1 ∧ (anAop (some 0) (some 0)).localBad (withAop (anAop (some 0) (some 0)) [0]) = none ∧
    rowsBad (withAop (anAop (some 0) (some 0)) [0]) 0 (anAop (some 0) (some 0)) [(anAop (some 0) (some 0)).src] 8 = none ∧
    (withAop (anAop (some 0) (some 0)) [0]).syn.find (colPa 0 (anAop (some 0) (some 0)).src / 8) = none := by decide
/-- A command of another kind that has computed its results, one with a fault, and one that counts in watermark 7. -/
abbrev summedAop : AopEnt := { (anAop (some 0) (some 0)) with kind := 0 }
theorem wit_aop_results : summedAop.kind ≠ 1 ∧ (summedAop.results.map (·.1)).Nodup ∧ (summedAop.attic.map (·.1)).Nodup ∧
    (∀ r ∈ summedAop.results, r.1 % 4 = 0 ∧ r.1 + 4 ≤ 0x40000 ∧ (withAop summedAop [0]).localBad.find (localPa 0 r.1 / 8) ≠ some true) ∧
    ∀ q ∈ summedAop.attic, placeOf q.1 = .slice 0 0 := by decide
theorem wit_aop_fault : ({ summedAop with fault := some (6, 8) } : AopEnt).fault = some (6, 8) ∧ sameTask (withAop summedAop [0]) 0 0 0 = true ∧
    recRoom (withAop summedAop [0]) 0 0 = true ∧ recRoom (recording 16 aMsg) 0 0 = false ∧ summedAop.core < 2048 := by decide
theorem wit_aop_counts : ({ summedAop with chan := some 7 } : AopEnt).chan = some 7 ∧
    vget [] (getCore (modCore (withAop { summedAop with chan := some 7 } [0]) 0 (fun c => { c with wmq := vset c.wmq 7 [{ op := 4, bytes := 8, done := false }] })) 0).wmq 7 =
      [{ op := 4, bytes := 8, done := false }] := by decide


/-! The matrix unit. -/
/-- An operation of a kind as the queue holds it before it begins. -/
abbrev anMop (kind : MKind) : MOp :=
  { op := 3, kind := kind, slot := 0, inc := 0, word := 0, lvl := true, sh := [0x2000100010000, 0, 0, 0], fmt := 2, scale := 0, origin := 0,
    control := 0, raise := false, desc := 0, view := 0, neg := false, nacc := false, gang := none, gangNo := 0, begun := none, readBy := 0,
    completes := 0, plane := Plane.empty, writes := [], rowsDue := [], fault := none, flags := 0, cancelled := false, abandoned := false }
abbrev withMq (l : List MOp) : State := engine (fun c => { c with mq := l }) [0, 3]
theorem wit_queue : queueFull (one 0) = false ∧ queueFull (withMq (List.replicate 8 (anMop .mswap))) = true := by decide
theorem wit_mstr : vget none (me (mk (fun t => { t with ac := vset t.ac 7 (some 0) }))).ac 7 = some 0 ∧ canTrap (one 0) ∧
    vget none (me (one 0)).ac 7 = none := by unfold canTrap; decide
theorem wit_mwait : (∃ m ∈ (myCore (withMq [anMop .mlds])).mq, m.slot = 0 ∧ m.kind ≠ .vproj ∧ m.abandoned = false) ∧
    (∀ m ∈ (myCore (one 0)).mq, m.slot = 0 → m.kind = .vproj ∨ m.abandoned = true) ∧ ∀ r ∈ (me (one 0)).records, r.unit ≠ 1 := by decide
/-- A descriptor value for two rows of two entries from entry 8188 on, the last four. -/
abbrev aView : W64 := 0x0000100080001FFC
theorem wit_macfg : bits aView 52 4 ≤ 2 ∧ bits aView 0 13 + (bits aView 31 13 + 1) * (bits aView 44 8 + 1) = 8192 ∧ (myCore (one aView)).spill = [] ∧
    (∀ g, 64 + 8188 / 256 ≤ g → g ≤ 64 + 8191 / 256 → (getCore (one aView) 0).owner.get (partOf (one aView) 0) g = partOf (one aView) 0) ∧
    inUse (one aView) 0 0 7 = false :=
  ⟨by decide, by decide, by decide, fun _ _ _ => rfl, by decide⟩
theorem wit_macfg_busy : canTrap (modCore (one 0) 0 (fun c => { c with mq := [anMop .mstr] })) ∧
    inUse (modCore (one 0) 0 (fun c => { c with mq := [anMop .mstr] })) 0 0 0 = true := by unfold canTrap; decide
theorem wit_macfg_outside : canTrap (one (aView + 1)) ∧ inUse (one (aView + 1)) 0 0 0 = false ∧
    8192 < bits (aView + 1) 0 13 + (bits (aView + 1) 31 13 + 1) * (bits (aView + 1) 44 8 + 1) := by unfold canTrap; decide
theorem wit_gang : (one 1).curCore = 0 ∧ ((xr (one 1) 1#5).setWidth 16 : BitVec 16).getLsbD (posOfCore 0) = true ∧
    canTrap (one 2) ∧ ¬ ((2 : BitVec 16) = 0 ∨ (2 : BitVec 16).getLsbD (posOfCore 0) = true) := by unfold canTrap; decide
/-- Descriptor 0 covering four entries, and x1 at index 3 of it. -/
abbrev viewed (x1 : W64) : State := mk (fun t => setX 1 x1 { t with st := .run, ac := vset t.ac 0 (some aView), k := vset t.k 0 1 })
theorem wit_mrd : vget none (me (viewed 3)).ac 0 = some aView ∧ (0x0D : BitVec 5).toNat ∈ [0, 1, 2, 3, 4, 5, 0x0B, 0x0C, 0x0D] ∧
    (∀ j < 8, (kr (viewed 3) 0#3).getLsbD j = true → 3 + j < 4 ∧ touch (viewed 3) 0 0 (accGran (8188 + 3 + j)) = .ok ∧
      wordErr (viewed 3) (accPa 0 (8188 + 3 + j)) ≠ .ecc) ∧ canTrap (viewed 4) ∧ (kr (viewed 4) 0#3).getLsbD 0 = true ∧ 4 ≤ 4 + 0 := by
  unfold canTrap; decide
theorem wit_matrix_begin : (getCore (withMq [anMop .mswap]) 0).mq = [anMop .mswap] ∧ heldByFreeze (withMq [anMop .mswap]) 0 0 = false ∧
    (anMop .mswap).begun = none ∧ (anMop .mswap).fault = none := by decide
/-- An `mlds` of two rows of two .s8 elements at local 0, and an `mstr` of such a tile by such a plane into a descriptor of two
rows of two entries. -/
abbrev shape22 : List W64 := [0, 0x200000000, 0x200000002, 0x204000000000000]
abbrev aLds : MOp := { (anMop .mlds) with sh := shape22, fmt := 0 }
abbrev aStr : MOp := { (anMop .mstr) with sh := shape22, fmt := 0, view := aView }
abbrev aPlane : Plane := { Plane.empty with valid := true, kdepth := 2, ncols := 2, w := List.replicate 4 (.fin false 0 0), sB := [] }
abbrev withPlane : State := engine (fun c => { c with mq := [aStr], active := aPlane }) [0, 3]
theorem wit_mlds_begin : aLds.tile.rows = 2 ∧ aLds.tile.cols = 2 ∧ aLds.tile.row0 % 128 + 2 ≤ 128 ∧ mFormat aLds.tile.code = true ∧ aLds.tile.w = 8 ∧
    Tile.check (withMq [aLds]) 0 aLds.tile aLds.word = none ∧ bitOf aLds.scale 32 = false ∧ aLds.tile.space = 0 ∧ aLds.tile.blk = false ∧
    ∀ g < 64, touch (withMq [aLds]) 0 (partOfSlot (withMq [aLds]) 0 0) g = .ok := by decide
theorem wit_mstr_begin : bitOf aStr.control 55 = false ∧ mstrCheck withPlane 0 aStr = none ∧ aStr.tile.space = 0 := by decide
/-- Operations whose cycles have passed: one without rows, and an `mstr` whose one row of two entries is due. -/
abbrev ready (m : MOp) : MOp := { m with begun := some 0, completes := 0 }
abbrev rowDue : MOp := { (ready aStr) with writes := [(8188, 5), (8191, 6)], rowsDue := [(0, 2, 0)] }
theorem wit_matrix_completes : (getCore (withMq [ready (anMop .mswap)]) 0).mq = [ready (anMop .mswap)] ∧ (ready (anMop .mswap)).begun.isSome = true ∧
    (ready (anMop .mswap)).completes ≤ (withMq [ready (anMop .mswap)]).now ∧ (ready (anMop .mswap)).rowsDue = [] := by decide
theorem wit_row_lands : rowDue.rowsDue = [(0, rowDue.writes.length, 0)] ∧ (rowDue.writes.map (fun q => q.1)).Nodup ∧
    ∀ q ∈ rowDue.writes, q.1 < 8192 ∧ wordErr (withMq [rowDue]) (accPa 0 q.1) ≠ .ecc ∧
      touch (withMq [rowDue]) 0 (partOfSlot (withMq [rowDue]) 0 0) (accGran q.1) = .ok := by decide

/-! The Geyser. -/
theorem wit_geyser_idle : (myCore (one 0)).gjob = none ∧ ∀ r ∈ (me (one 0)).records, r.obj ≠ .geyser := by decide
theorem wit_route_bad : canTrap (one 0x9000) ∧ bitOf (xr (one 0x9000) 1#5) 15 = true ∧ bits (xr (one 0x9000) 1#5) 11 2 = 2 ∧ posOfCore 0 = 0 := by
  unfold canTrap; decide
theorem wit_clock_halted : (vget GClk.clear (myCore (one 2)).gclk 3).mode = 0 ∧ 2 ≤ bits (xr (one 2) 1#5) 0 16 ∧
    0 < (vget GClk.clear (myCore (one 2)).gclk 3).div ∧ (getPkg (one 2) (pkgOfCore 0)).throttle = 0 ∧ (xr (one 2) 1#5).setWidth 32 ≠ (0 : W32) := by decide
theorem wit_clock_zero : canTrap (one 1) ∧ bits (xr (one 1) 1#5) 0 16 < 2 ∧ (xr (one 0x100000000) 1#5).setWidth 32 = (0 : W32) := by unfold canTrap; decide
/-- A cell on clock 3 with that clock running, due now, and its owner running. -/
abbrev aClk : GClk := { GClk.clear with mode := 1, remain := 1, next := 0 }
abbrev aCell : GCell := { GCell.clear with y := 7, cfg := 0xF000 }
abbrev stepping (g : GCell) (k : GClk) : State :=
  engine (fun c => { c with gcells := [(255, g)], gclk := vset c.gclk 3 k }) [0]
theorem wit_running : canTrap (stepping aCell aClk) ∧ (vget GClk.clear (myCore (stepping aCell aClk)).gclk 3).mode ≠ 0 := by unfold canTrap; decide
theorem wit_boundary : (getCore (stepping aCell aClk) 0).gfrozen = false ∧ aClk.next = (stepping aCell aClk).now ∧ 0 < aClk.div ∧
    (∀ k < 4, k ≠ 3 → (vget GClk.clear (getCore (stepping aCell aClk) 0).gclk k).mode = 0) := by decide
theorem wit_boundary_cell : (getCore (stepping aCell aClk) 0).gcells = [(255, aCell)] ∧
    aCell.cfg.getLsbD 15 = true ∧ aCell.cfg.toNat / 2 ^ 12 % 4 = 3 ∧ ¬ (aCell.dyl = 3 ∨ aCell.dxo = true) := ⟨rfl, by decide⟩
theorem wit_boundary_routes : ∀ r ∈ aCell.routes.toList, r.getLsbD 15 = false := by
  intro r hr
  have h : r = 0 := by simpa [GCell.clear] using hr
  subst h
  rfl
theorem wit_overrun : ({ aCell with dyl := 3 } : GCell).dyl = 3 ∧ aClk.owner < 4 ∧ (getSlot (stepping aCell aClk) 0 aClk.owner).st ≠ .free := by decide
theorem wit_clock_out : (vget GClk.clear (getCore (stepping aCell { aClk with remain := 0 }) 0).gclk 3).mode = 1 ∧
    (vget GClk.clear (getCore (stepping aCell { aClk with remain := 0 }) 0).gclk 3).remain = 0 := by decide
theorem wit_image : bits (xr (one 0xFF) 1#5) 0 8 + (bits (xr (one 0xFF) 1#5) 8 8 + 1) ≤ 256 ∧ (0x3FE40 : W64).toNat % 64 = 0 ∧ 0x3FE40 + 64 ≤ 0x3FE80 ∧
    lvlOf (me (sysOne 0)) = true ∧ sysOnlyRange (one 0) 0 0x37FC0 64 = false := by decide
theorem wit_image_halted : (∀ i < 4, (vget GClk.clear (myCore (one 0)).gclk i).mode = 0) ∧
    ∀ g < 64, touch (one 0) 0 (partOf (one 0) (me (one 0)).part) g = .ok := by decide
theorem wit_image_outside : canTrap (one 0x1FF) ∧ 256 < bits (xr (one 0x1FF) 1#5) 0 8 + (bits (xr (one 0x1FF) 1#5) 8 8 + 1) := by unfold canTrap; decide
/-- An image of one cell and the clocks on its way to or from local 0x100. -/
abbrev aJob (save : Bool) : GJob :=
  { op := 2, slot := 0, save := save, p := 0x100, first := 255, n := 1, clk := true, cc := some 15, image := if save then List.replicate 12 1 else [], abandoned := false }
theorem wit_image_done : (getCore (engine (fun c => { c with gjob := some (aJob true) }) [0]) 0).gjob = some (aJob true) ∧
    (aJob true).p + 8 * (aJob true).image.length ≤ 0x3FE80 ∧ (aJob false).p + 8 * (8 + 4 * (aJob false).n) ≤ 0x3FE80 ∧
    ∀ i < 8 + 4 * (aJob false).n, (one 0).localBad.find (localPa 0 ((aJob false).p + 8 * i) / 8) = none := by decide


/-- A state without an error of memory finds every word good. -/
theorem clean_good (pa : Nat) (s : State) (h1 : s.localBad = []) (h2 : s.syn = []) (h3 : s.accBad = []) (h4 : ∀ p, (getPkg s p).poison = []) :
    wordErr s pa = .good := by
  unfold wordErr
  simp only [h1, h2, h3, h4]
  cases placeOf pa <;> rfl
theorem reset_poison (p : Nat) : (getPkg State.reset p).poison = [] := by
  unfold getPkg
  rcases (by omega : p % 4 = 0 ∨ p % 4 = 1 ∨ p % 4 = 2 ∨ p % 4 = 3) with h | h | h | h <;> rw [h] <;> rfl
theorem wit_mlds_reads : (∀ q, wordErr (withMq [aLds]) (localPa 0 q) = .good) ∧ orderFree (withMq [aLds]) 0 aLds = true ∧ (∀ i, scaleAddr aLds.scale i = none) ∧
    scaleAddr 0x10000FFFC 0 = some 0xFFFC ∧ scaleBad (withMq [aLds]) 0 false 0x3FE7C = true ∧ scaleBad (withMq [aLds]) 0 true 0x3FFFC = false :=
  ⟨fun q => clean_good _ _ rfl rfl rfl reset_poison, by decide, fun _ => rfl, by decide, by decide, by decide⟩
/-- Operations that a check stops: a tile of a format the array does not take, and one that leaves local memory. -/
theorem wit_mlds_stops : mFormat ({ aLds with fmt := 15 } : MOp).tile.code = false ∧
    (Tile.check (withMq [aLds]) 0 ({ aLds with sh := [0x3FFFF, 0x200000000, 0x200000002, 0x204000000000000] } : MOp).tile aLds.word).isSome = true := by decide
theorem wit_mop_waits : orderFree (withMq [{ (anMop .mswap) with op := 1 }, aStr]) 0 aStr = false ∧
    heldByFreeze (modSlot (withMq [aLds]) 0 0 (fun t => { t with st := .frozen })) 0 0 = true ∧
    (mstrCheck (withMq [aStr]) 0 aStr).isSome = true ∧ runFree 0 (getCore (withMq [aLds]) 0) 3 0 1 = true := by decide
/-- A gang of the first two cores of a column, and its ganged `mstr`. -/
abbrev aGang : Gang := { mask := 3, leader := 0, slot := 0, count := 0, gone := [] }
abbrev gStr : MOp := { aStr with control := 0x80000000000000, gang := some aGang }
abbrev ganged (l : List MOp) : State :=
  modSlot (modCore (engine (fun c => { c with mq := [gStr], active := aPlane }) [1, 3]) 1 (fun c => { c with mq := l, active := aPlane })) 1 0
    (fun t => { t with st := .run, gang := some aGang })
theorem wit_gang_begins : goneAt (ganged [gStr]) 0 0 aGang 0 = false ∧ gangReady (ganged [gStr]) 0 aGang 0 = true ∧ gangReady (ganged []) 0 aGang 0 = false ∧
    partnerAt (ganged [gStr]) 0 0 aGang 0 = some gStr ∧ vget 0 (getCol (ganged [gStr]) 0).lanes 0 ≤ (ganged [gStr]).now ∧
    laneRival (ganged [gStr]) 0 aGang = none ∧ mstrArray (ganged [gStr]) 0 gStr = true ∧ ({ gStr with gang := none } : MOp).gang = none := by decide
theorem wit_matrix_fault : ({ (ready aLds) with fault := some (1, 0) } : MOp).fault = some (1, 0) ∧ sameTask (withMq [ready aLds]) 0 0 0 = true ∧
    (getSlot (recording 15 aMsg) 0 0).records.length < 16 ∧ 16 ≤ (getSlot (recording 16 aMsg) 0 0).records.length ∧
    sameTask (withMq [ready aLds]) 0 0 1 = false ∧ (0 : Nat) < ({ rowDue with completes := 1 } : MOp).completes := by decide
theorem wit_mwait_fault : canTrap (mk (fun t => { t with st := .run, records := [{ aFault with unit := 2 }, aFault] })) ∧ aFault.unit = 1 ∧
    (∀ q ∈ [({ aFault with unit := 2 } : Rec)], q.unit ≠ 1) ∧ (me (mk (fun t => { t with st := .run, records := [{ aFault with unit := 2 }, aFault] }))).records =
      [{ aFault with unit := 2 }] ++ aFault :: [] := by unfold canTrap; decide
/-- A slot whose descriptor 7 an `mstr` uses that is still in the queue, with the last four entries. -/
abbrev using_ (l : List MOp) : State := modMe (modCore (one aView) 0 (fun c => { c with mq := l })) (fun t => { t with ac := vset t.ac 7 (some aView) })
theorem wit_macfg_forced : inUse (using_ [{ (anMop .mstr) with desc := 7 }]) 0 0 7 = true ∧ inUse (using_ []) 0 0 7 = false ∧
    vget none (me (using_ [])).ac 7 = some aView ∧ (claimEntries (using_ []) 0 8188 4).isSome = true ∧ (using_ []).curCore < 2048 := by decide
/-- A core with a group in entries that a descriptor names, and no other place for it. -/
theorem wit_macfg_no_room : (claimEntries (modMyCore (packed .run 0 0 0) (fun c =>
      { c with spill := [{ slot := 0, tag := 5, isV := true, vals := [1, 2], place := 1, addr := 8188 }] })) 0 8188 4).isNone = true ∧
    inUse (packed .run 0 0 0) 0 0 7 = false ∧ canTrap (packed .run 0 0 0) := by unfold canTrap; decide +kernel
theorem wit_gang_waits : (∃ m ∈ (myCore (withMq [{ (anMop .mstr) with control := 0x80000000000000 }])).mq, m.slot = 0 ∧ m.kind = .mstr ∧ bitOf m.control 55 = true ∧
    m.abandoned = false) ∧ ∀ m ∈ (myCore (withMq [anMop .mstr])).mq, m.slot = 0 → m.kind = .mstr → bitOf m.control 55 = true → m.abandoned = true := by decide
theorem wit_mrd_parity : wordErr { (viewed 0) with accBad := [accPa 0 8188 / 16] } (accPa 0 8188) = .ecc ∧ canTrap { (viewed 0) with accBad := [accPa 0 8188 / 16] } ∧
    (kr (viewed 0) 0#3).getLsbD 0 = true ∧ touch { (viewed 0) with accBad := [accPa 0 8188 / 16] } 0 0 (accGran 8188) ≠ .restore ∧
    vget none (me (one 0)).ac 0 = none := by unfold canTrap; decide
theorem wit_mrd_invalid : invalidTraps (mk (fun t => { t with st := .run, status := 16, k := vset t.k 0 1 })) 0 8 (fun _ => accTo 0x02 (convRnd (one 0) false [] 0) accNan) := by
  unfold invalidTraps; decide

/-- A fault of the Geyser recorded behind one of another object. -/
abbrev geyFault : Rec := { aFault with obj := .geyser, order := 9 }
theorem wit_geyser_fault : canTrap (mk (fun t => { t with st := .run, records := [aFault, geyFault] })) ∧ (∀ q ∈ [aFault], q.obj ≠ .geyser) ∧
    (me (mk (fun t => { t with st := .run, records := [aFault, geyFault] }))).records = [aFault] ++ geyFault :: [] := by unfold canTrap; decide
theorem wit_geyser_busy : (myCore (engine (fun c => { c with gjob := some { op := 2, slot := 0, save := true, p := 0x100, first := 255, n := 1, clk := true, cc := some 15, image := [], abandoned := false } }) [])).gjob.isSome = true := by decide


/-! ### States that meet the hypotheses of the statements: corridors, barriers, drains, the Foyer -/

/-- A corridor of four slots of 64 bytes homed at core 0. -/
abbrev aCorr : Corr :=
  { rcb := 0x1000, id := 0, home := 0, base := 0x1000, size := 64, slots := 4, joinG := 0, prod := 0, cons := 1, cwbase := 0, rp := 0, pp := 0, hp := 0,
    lf := 0, ring := [], waiting := [], stopped := [], broken := false }
abbrev anEp (cons : Bool) : Endpoint := { corr := 1, cons := cons, switched := none, pops := [] }
/-- A running task of core 0 whose endpoint 7 is bound to corridor 1, with x1 holding a value. -/
abbrev onCorr (c : Corr) (cons : Bool) (v : W64) (f : Slot → Slot) : State :=
  modMe (modCore { State.reset with corrs := [(1, c)] } 0 (fun k => { k with ep := vset k.ep 7 (some (anEp cons)) }))
    (fun t => f (setX 1 v { t with st := .run }))
theorem wit_no_endpoint : canTrap (one 0) ∧ vget none (myCore (one 0)).ep 7 = none := by unfold canTrap; decide
theorem wit_producer : vget none (myCore (onCorr aCorr false 0 id)).ep 7 = some (anEp false) ∧ corr? (onCorr aCorr false 0 id) 1 = some aCorr ∧
    corrBroken (onCorr aCorr false 0 id) aCorr = false ∧ (me (onCorr aCorr false 0 id)).request = none ∧
    (me (onCorr aCorr false 0 id)).holdR.find 7 = none := ⟨rfl, rfl, rfl, rfl, rfl⟩
theorem wit_producer_broken : canTrap (onCorr { aCorr with broken := true } false 0 id) ∧
    corrBroken (onCorr { aCorr with broken := true } false 0 id) { aCorr with broken := true } = true := ⟨⟨by decide, rfl⟩, rfl⟩
theorem wit_producer_asked (q : Option W64) : (me (onCorr aCorr false 0 (fun t => { t with request := some 0, replied := q }))).request.isSome = true ∧
    (me (onCorr aCorr false 0 (fun t => { t with request := some 0, replied := q }))).replied = q := ⟨rfl, rfl⟩
theorem wit_marks : (bits (0xFF03 : W64) 16 48 = 0 ∧ bits (0xFF03 : W64) 2 6 = 0 ∧ bits (0xFF03 : W64) 0 2 ≠ 0 ∧ bitOf (0xFF03 : W64) 0 = true) ∧
    bits (2 : W64) 8 8 = 0 ∧ bits (4 : W64) 2 6 ≠ 0 ∧ bits (0 : W64) 0 2 = 0 := by decide
/-- The same holding a reservation at endpoint 7 and, at endpoint 0, an input slot of another corridor. -/
abbrev holding (v : W64) : State :=
  modMe (modCore (onCorr aCorr false v id) 0 (fun k => { k with ep := vset k.ep 0 (some { (anEp true) with corr := 2 }) }))
    (fun t => { t with holdR := [(7, 3)], holdP := [(0, 5)] })
theorem wit_reservation_held : (me (holding 32)).holdR.find 7 = some 3 ∧ bits (xr (holding 32) 1#5) 0 32 ≤ aCorr.size - 32 ∧
    aCorr.size - 32 < bits (xr (holding 33) 1#5) 0 32 ∧ (me (holding 32)).request = none ∧
    (vget none (myCore (holding 32)).ep 0).isSome = true ∧ (me (holding 32)).holdP.find 0 = some 5 ∧ (me (holding 32)).holdP.find 1 = none :=
  ⟨rfl, by decide, by decide, rfl, by decide, rfl, rfl⟩

/-- A corridor whose slot at 2 to the 32 less 1 is committed, and slots in other states. -/
abbrev committed : Corr := { aCorr with rp := 0, pp := 0xFFFFFFFF, hp := 0xFFFFFFFF, lf := 0xFFFFFFFF, ring := [(3, ⟨.cmt, 0, 0⟩)] }
theorem wit_consumer : vget none (myCore (onCorr committed true 0 id)).ep 7 = some (anEp true) ∧ corrBroken (onCorr committed true 0 id) committed = false ∧
    canTrap (onCorr committed true 0 id) ∧ (me (onCorr committed true 0 id)).holdP.find 7 = none ∧ committed.stopped = [] ∧ (anEp true).switched = none ∧
    (anEp true).pops.head? = none ∧ aCorr.firstPop aCorr.slots aCorr.pp = none := ⟨rfl, rfl, ⟨by decide, rfl⟩, rfl, rfl, rfl, rfl, rfl⟩
theorem wit_consumer_pops : committed.firstPop committed.slots committed.pp = some 0xFFFFFFFF ∧
    wordErr (onCorr committed true 0 id) (committed.hdr 0xFFFFFFFF) ≠ .ecc ∧
    bitOf (dwordAt (onCorr committed true 0 id) (committed.hdr 0xFFFFFFFF)) 2 = false ∧
    (bitOf (dwordAt (onCorr committed true 0 id) (committed.hdr 0xFFFFFFFF)) 0 = true → committed.joinG = 0) :=
  ⟨by decide, by decide, by decide, fun _ => rfl⟩
theorem wit_consumer_holds : (me (onCorr committed true 0 (fun t => { t with holdP := [(7, 0xFFFFFFFF)] }))).holdP.find 7 = some 0xFFFFFFFF := rfl
theorem wit_flush_traps : bits (xr (onCorr aCorr true 0x400000000 id) 1#5) 32 32 % 8 ≠ 0 ∧ bits (xr (onCorr aCorr true 0x800000000 id) 1#5) 32 32 % 8 = 0 ∧
    lvlOf (me (onCorr aCorr true 0x800000000 id)) = false := by decide
/-- A handler that ends the holdings of core 1's slot 3, listed at the end of local memory below the Letterbox tags. -/
abbrev flushing : State :=
  wr64 (wr64 (modCore (modSlot (onCorr aCorr true 0x3FE7000000000 (fun t => { t with status := 1 })) 1 3
    (fun t => { t with st := .run, holdR := [(7, 2)] })) 1 (fun k => { k with ep := vset k.ep 7 (some (anEp false)) })) (localPa 0 0x3FE70) 1) (localPa 0 0x3FE78) 7
theorem wit_flush : bits (xr flushing 1#5) 32 32 = 0x3FE70 ∧ lvlOf (me flushing) = true ∧ rd64 flushing (localPa 0 0x3FE70) = 1 ∧
    rd64 flushing (localPa 0 0x3FE78) = BitVec.ofNat 64 ((getSlot flushing 1 3).incarn.toNat * 2 ^ 13 + 1 * 4 + 3) ∧ slotKey 1 3 ≠ slotKey 0 0 ∧
    (getSlot flushing 1 3).st ≠ .free ∧ (getSlot flushing 1 3).holdR = [(7, 2)] ∧ (getSlot flushing 1 3).holdP = [] ∧
    (vget none (getCore flushing 1).ep 7).isSome = true := by decide

/-- What comes to a corridor's home: access 0 on corridor 1. -/
abbrev cFlight (kind : AccKind) (q : Nat) : Flight := { newFlight State.reset kind 0 0 0 8 0 with corr := 1, seqNo := q, sent := true, waitc := 7, stamp := 0 }
abbrev atCorr (c : Corr) (f : Flight) (a : List Nat) : State := { State.reset with corrs := [(1, c)], flights := [(0, f)], args := a }
theorem wit_corr_home : (atCorr aCorr (cFlight .qrsv 0) [0]).flights.find 0 = some (cFlight .qrsv 0) ∧ (cFlight .qrsv 0).core < 2048 ∧ (cFlight .qrsv 0).slot < 4 ∧
    (atCorr aCorr (cFlight .qrsv 0) [0]).corrs.find 1 = some aCorr ∧ waitsBehind (atCorr aCorr (cFlight .qrsv 0) [0]) 0 (cFlight .qrsv 0) = false := by decide
abbrev reserved : Corr := { aCorr with base := 0x3FD00, ring := [(3, ⟨.rsv, 3, 9⟩)] }
theorem wit_commit : (reserved.slot 0xFFFFFFFF).st = .rsv ∧ corrBroken (atCorr reserved (cFlight .qpush 0xFFFFFFFF) [0]) reserved = false ∧ reserved.addr 0xFFFFFFFF % 8 = 0 ∧
    reserved.addr 0xFFFFFFFF + 32 ≤ 0x3FE00 ∧ (reserved.slot 0xFFFFFFFF).marks.getLsbD 2 = false ∧ (cFlight .qpush 0xFFFFFFFF).link = none := by decide
theorem wit_release : (({ aCorr with ring := [(3, ⟨.pop, 0, 0⟩)] } : Corr).slot 0xFFFFFFFF).st = .pop ∧
    ({ (cFlight .qpush 0) with link := some (1, 0xFFFFFFFF) } : Flight).kind = .qpush := by decide
theorem wit_grant : ({ aCorr with waiting := [0] } : Corr).waiting = [0] ∧ (cFlight .qrsv 0).kind = .qrsv ∧ (aCorr.slot aCorr.rp).st = .free ∧
    corrBroken (atCorr { aCorr with waiting := [0] } (cFlight .qrsv 0) [1]) { aCorr with waiting := [0] } = false ∧ aCorr.stopped = [] := by decide

/-! Barriers. -/
/-- A task whose core may use barrier 63 alone. -/
abbrev barred (f : Slot → Slot) : State := modMe (modCore (one 0) 0 (fun c => { c with barmask := 0x8000000000000000 })) f
theorem wit_bar_issue : bitOf (myCore (barred id)).barmask 63 = true ∧ (me (barred id)).barFaults = [] ∧ (me (barred id)).request = none ∧
    canTrap (barred id) ∧ bitOf (myCore (barred id)).barmask 62 = false := by unfold canTrap; decide
theorem wit_bar_reply : (me (barred (fun t => { t with request := some 0 }))).replied = none ∧
    (me (barred (fun t => { t with request := some 0, replied := some 0 }))).replied = some 0 ∧
    (me (barred (fun t => { t with request := some 0, replied := some 1 }))).replied = some 1 ∧
    canTrap (barred (fun t => { t with request := some 0, replied := some 1 })) := by unfold canTrap; decide
/-- A root barrier that expects two, one of them here. -/
abbrev aBar : Bar := { Bar.reset with exp := 2, arrivals := 1, ngrp := 8, s := 4 }
abbrev withBar (b : Bar) (a : List Nat) (f : Flight) : State :=
  { (modBar State.reset 3 63 (fun _ => b)) with args := a, flights := [(0, f)] }
abbrev bFlight (kind : AccKind) (v : W64) : Flight :=
  { newFlight State.reset kind (homeNo (.unit 3 3 0)) 0 (dieWin 3 3 (32 * 63 + 16)) 8 0 with seqNo := 63, b := v, sent := true }
theorem wit_bar_change : waitsBehind (withBar aBar [0] (bFlight .barArrive 1)) 0 (bFlight .barArrive 1) = false ∧
    (bFlight .barArrive 1).home = homeNo (.unit 3 3 0) ∧ (bFlight .barArrive 1).seqNo = 63 ∧
    getBar (withBar aBar [0] (bFlight .barArrive 1)) 3 63 = aBar ∧ aBar.exp ≠ 0 ∧ aBar.broken = false ∧ aBar.arrivals < aBar.exp := ⟨by decide, rfl, rfl, rfl, by decide, rfl, by decide⟩
theorem wit_bar_fits : aBar.pending + ((0x7FFFFFFF : W32)).toInt < 2 ^ 31 ∧ -2 ^ 31 ≤ aBar.pending + ((0x80000000 : W32)).toInt ∧
    ¬ (({ aBar with arrivals := 2 } : Bar).arrivals < aBar.exp) ∧ ¬ (({ aBar with pending := 1 } : Bar).pending + ((0x7FFFFFFF : W32)).toInt < 2 ^ 31) ∧
    aBar.waiters = [] ∧ -2 ^ 31 ≤ aBar.pending + (-((5 : Nat) : Int)) := by decide
theorem wit_bar_met : ({ aBar with arrivals := 2 } : Bar).met = true ∧ 1 ≤ aBar.ngrp ∧ ({ aBar with arrivals := 2 } : Bar).link = aBar.link := by decide
theorem wit_bar_parent : aBar.parent = none ∧ ({ aBar with link := 0x8000000000000000 } : Bar).parent = some (0, 0) ∧ ({ aBar with link := 0x8000000000000000, arrivals := 2 } : Bar).met = true := by decide
theorem wit_bar_release : ({ aBar with releasing := true, phase := true, waiters := [0] } : Bar).waiters = [0] ∧ aBar.exp ≠ 0 ∧
    true ≠ bitOf (bFlight .barWait 0xE).b 0 ∧ min (bits (bFlight .barWait 0xE).b 1 3) (aBar.ngrp - 1) ≤ 7 := by decide
theorem wit_bar_write : (withBar aBar [3, 63, (0xFFFFFFFFFFFFFFFF : W64).toNat] (bFlight .barWait 0)).args = [3, 63, ((0xFFFFFFFFFFFFFFFF : W64)).toNat] ∧ aBar.waiters = [] := ⟨rfl, rfl⟩


theorem wit_producer_unlinked : ({ (anEp true) with corr := 2 } : Endpoint).cons = true ∧ ∀ y q2, ¬ (vget none (myCore (holding 32)).ep 1 = some y ∧ y.cons = true ∧ (me (holding 32)).holdP.find 1 = some q2) := by
  refine ⟨rfl, fun y q2 h => ?_⟩
  have : (me (holding 32)).holdP.find 1 = none := rfl
  exact absurd (this ▸ h.2.2) (by simp)
theorem wit_consumer_waits : ({ committed with stopped := [0] } : Corr).stopped ≠ [] ∧ ({ (anEp true) with switched := some 5 } : Endpoint).switched.isSome = true ∧
    (∃ h l, ({ (anEp true) with pops := [(0, 3), (0, 0)] } : Endpoint).pops = h :: l ∧ h.2 ≠ (onCorr committed true 0 id).curSlot) ∧
    (∃ p ∈ ({ (anEp true) with pops := [(0, 3), (0, 0)] } : Endpoint).pops, p.2 = (onCorr committed true 0 id).curSlot) ∧
    atSwitch (onCorr committed true 0 id) 0 committed = true :=
  ⟨by decide, rfl, ⟨(0, 3), [(0, 0)], rfl, by decide⟩, ⟨(0, 0), by decide, rfl⟩, by decide⟩
/-- The header of the committed slot, with marks and a tag; and that header beyond correction. -/
abbrev headed (h : W64) (c : Corr) : State := wr64 (onCorr c true 0 id) (c.hdr 0xFFFFFFFF) h
theorem wit_consumer_headers : bitOf (dwordAt (headed 0x50004 committed) (committed.hdr 0xFFFFFFFF)) 2 = true ∧
    bitOf (dwordAt (headed 0x50001 committed) (committed.hdr 0xFFFFFFFF)) 0 = true ∧ bits (dwordAt (headed 0x50001 committed) (committed.hdr 0xFFFFFFFF)) 16 8 = 5 ∧
    wordErr { (headed 0 committed) with localBad := [(committed.hdr 0xFFFFFFFF / 8, true)] } (committed.hdr 0xFFFFFFFF) = .ecc := by decide
/-- Another endpoint of the join group has switched with tag 6. -/
abbrev joined : State := modCore (headed 0x50001 { committed with joinG := 1 }) 0 (fun k => { k with ep := vset k.ep 0 (some { (anEp true) with switched := some 6 }) })
theorem wit_consumer_join : joinTag joined 0 1 = some 6 ∧ canTrap joined ∧ (committed.hdr 0xFFFFFFFF) = ({ committed with joinG := 1 } : Corr).hdr 0xFFFFFFFF := by unfold canTrap; decide
theorem wit_flush_list : canTrap (onCorr aCorr true 0x400000000 id) ∧ NoShort (onCorr aCorr true 0x400000000 id) ∧ 0x3FE80 < bits (0x3FE8000000000 : W64) 32 32 + 8 ∧
    bits (rd64 flushing (localPa 0 0x3FE70)) 0 6 = 1 ∧ ownPending flushing 0 0 = false ∧ (myCore flushing).chim = [] ∧ (∀ g < 64, touch flushing 0 0 g = .ok) ∧
    (∀ i ≤ 1, flushing.localBad.find (localPa 0 (0x3FE70 + 8 * i) / 8) = none) ∧ bits (rd64 (wr64 flushing (localPa 0 0x3FE70) 64) (localPa 0 0x3FE70)) 6 58 ≠ 0 ∧
    bits (rd64 (wr64 flushing (localPa 0 0x3FE78) 0x200000) (localPa 0 0x3FE78)) 21 43 ≠ 0 := by
  refine ⟨by unfold canTrap; decide, Or.inl (by decide), by decide, by decide, by decide, by decide, by decide, by decide, by decide, by decide⟩
theorem wit_home_waits : waitsBehind { (atCorr aCorr (cFlight .qpush 0) [5]) with flights := [(0, cFlight .qpush 0), (5, cFlight .qpush 1)] } 5 (cFlight .qpush 1) = true := by decide
theorem wit_grant_marks : (cFlight .qmark 0).kind = .qmark ∧ bits ({ (cFlight .qmark 0) with b := 0x5503 } : Flight).b 2 1 = 0 ∧ (cFlight .draughtMark 0).kind = .draughtMark ∧
    (({ reserved with waiting := [0] } : Corr).slot 0).st = .free ∧ reserved.home < 2048 ∧ reserved.addr 0 % 8 = 0 ∧ reserved.addr 0 + 32 ≤ 0x3FE00 ∧
    corrBroken (atCorr { reserved with waiting := [0] } (cFlight .qmark 0) [1]) { reserved with waiting := [0] } = false ∧
    (({ aCorr with waiting := [0], ring := [(0, ⟨.rel, 0, 0⟩)] } : Corr).slot 0).st ≠ .free := by decide
theorem wit_bar_fault : (me (barred (fun t => { t with barFaults := [5] }))).barFaults = 5 :: [] ∧ canTrap (barred (fun t => { t with barFaults := [5] })) ∧
    (me (barred (fun t => { t with barFaults := [5] }))).request = none := by unfold canTrap; decide
theorem wit_bar_kinds : (bFlight .barTry 0).kind = .barTry ∧ waiterDone aBar (bFlight .barWait 0) = none ∧ waiterDone aBar (bFlight .barWait 1) = none ∧
    waiterDone { aBar with broken := true } (bFlight .barWait 0) = some 1 ∧ waiterDone { aBar with released := 1, phase := true } (bFlight .barWait 0) = some 0 ∧
    waitsBehind { (withBar aBar [1] (bFlight .barArrive 1)) with flights := [(0, bFlight .barArrive 1), (1, bFlight .barArrive 1)] } 1 (bFlight .barArrive 1) = true := by decide
theorem wit_bar_breaks : (∃ id ∈ ({ aBar with waiters := [0] } : Bar).waiters, (withBar { aBar with waiters := [0] } [3, 63, 0, 0] (bFlight .barWait 0)).flights.find id = some (bFlight .barWait 0)) ∧
    aBar.broken = false ∧ ({ aBar with releasing := true } : Bar).releasing = true := ⟨⟨0, by decide, rfl⟩, rfl, rfl⟩


/-! Drains, column faults and switch points. -/
/-- The running partition of `placed` with one task, in core 0's slot 3. -/
abbrev tasked (f : Slot → Slot) (c : Col) (a : List Nat) : State :=
  { (modCol (modSlot (placed 3) 0 3 (fun t => f { t with st := .run, part := 0x1000 })) 0 (fun _ => c)) with args := a }
abbrev aDrain : Drain := { rcb := 0x1000, source := true, met := [], ended := false, forwarded := 0 }
abbrev draining (d : Drain) : Col := { Col.reset with drain := some d }
theorem wit_drain_done : (getCol (tasked (fun t => { t with stall := some 0 }) (draining aDrain) [0]) 0).drain = some aDrain ∧
    drainDone (tasked (fun t => { t with stall := some 0 }) (draining aDrain) [0]) 0 aDrain = true := by decide
theorem wit_drain_waits : drainDone (tasked id (draining aDrain) [0]) 0 aDrain = false := by decide
theorem wit_drained_task : colSlots (tasked id (draining aDrain) [0]) 0 0x1000 = [(0, 3)] ∧
    (getSlot (tasked id (draining aDrain) [0]) 0 3).holdR = [] ∧ (getSlot (tasked id (draining aDrain) [0]) 0 3).holdP = [] ∧
    inTrap (getSlot (tasked id (draining aDrain) [0]) 0 3) = false ∧ bitOf (getSlot (tasked id (draining aDrain) [0]) 0 3).status 3 = false ∧
    bitOf (getSlot (tasked (fun t => { t with status := 8 }) (draining aDrain) [0]) 0 3).status 3 = true := by decide
/-- A column that has ended its drain and produces into corridor 1. -/
abbrev forwarding (n : Nat) : State :=
  { (modCore (tasked id (draining { aDrain with ended := true, forwarded := n }) [0]) 0 (fun k => { k with ep := vset k.ep 7 (some (anEp false)) })) with
    corrs := [(1, aCorr)] }
theorem wit_forward : (producerCorrs (forwarding 0) 0 0x1000).map (fun x => x.2.1) = [1] ∧
    ¬ (∃ p ∈ (forwarding 0).flights, colOfCore p.2.core = 0 ∧ p.2.performed = false) := by decide
theorem wit_column : colRegion (tasked id Col.reset [0]) 0 = 0x1000 ∧ findPart (tasked id Col.reset [0]) 0x1000 = some (aPart 3) ∧
    (getCol (tasked id Col.reset [0]) 0).faulted = false := by decide
theorem wit_slot_timeout : (getSlot { (tasked id Col.reset [0, 3]) with now := 2 ^ 24 } 0 3).st = .run ∧
    (getSlot { (tasked id Col.reset [0, 3]) with now := 2 ^ 24 } 0 3).freezing = false ∧
    (getSlot { (tasked id Col.reset [0, 3]) with now := 2 ^ 24 } 0 3).stall = none ∧ (getSlot (tasked id Col.reset [0, 3]) 0 3).ready + 2 ^ 24 ≤ 2 ^ 24 := by decide
abbrev faulty : State := tasked id { Col.reset with faulted := true } [0, 0]
theorem wit_column_restart : (getCol faulty 0).faulted = true ∧ (∀ x ∈ colCores 0, inSvc faulty x = true) ∧
    bindStage faulty (aPart 3) 0 none = ((bindStage faulty (aPart 3) 0 none).1, true) := ⟨by decide, by decide, Prod.ext rfl (by decide)⟩
/-- The same partition with a second stage, which holds no task, and a switch from the first to it under tag 5. -/
abbrev twoStages : Image :=
  { anImage with stages := [{ aStage with switches := [(5, 1)] }, { aStage with col := 1, tasks := [] }] }
abbrev switching (c : Col) (a : List Nat) : State :=
  { (modCore (tasked id c a) 0 (fun k => { k with ep := vset k.ep 7 (some { (anEp true) with switched := some 5, pops := [(0, 3)] }) })) with
    corrs := [(1, { aCorr with prod := 1, cons := 0 })], images := [(0x2000, twoStages)] }
theorem wit_switch_point : (getCol (switching Col.reset [0, 5]) 0).swready = false ∧ colStage (switching Col.reset [0, 5]) 0x1000 0 = some 0 ∧
    colSlots (switching Col.reset [0, 5]) 0 0x1000 = [(0, 3)] ∧
    popsOn (switching Col.reset [0, 5]) (switchedEps (switching Col.reset [0, 5]) 0) 0 3 = true ∧
    ((imgOf (switching Col.reset [0, 5]) (aPart 3)).stage 0).switches.find? (fun w => w.1 == 5) = some (5, 1) ∧
    ((imgOf (switching Col.reset [0, 6]) (aPart 3)).stage 0).switches.find? (fun w => w.1 == 6) = none ∧ (aPart 3).parent = 0 := by decide
theorem wit_switch_rebind : refillDone (switching { Col.reset with swtag := some 5, swready := true } [0]) 0 5 0 = true ∧
    ∀ x ∈ colCores 0, inSvc (switching { Col.reset with swtag := some 5, swready := true } [0]) x = true ∧
      ((imgOf (switching Col.reset [0]) (aPart 3)).stage 1).taskAt (posOfCore x) = none := by decide

/-! Binding of tasks. -/
/-- An image with one task entry, named by core 0 of the stage and for seeds. -/
abbrev seeded : Image :=
  { anImage with entries := [{ pc := 0x40 }], seedEntry := some 0, stages := [{ aStage with tasks := List.replicate 15 (some 0) }] }
abbrev region (im : Image) : State :=
  setReg (modCore { State.reset with args := [0], parts := [{ (aPart 3) with slots := 8 }], images := [(0x2000, im)] } 0
    (fun c => { c with grant := some { rcb := 0x1000, stage := 0, lent := none, handTo := none } })) (dieWin 3 uTrans 24) 0x103E
theorem wit_stage_bind : colRegion (region seeded) 0 = 0x1000 ∧ colStage (region seeded) 0x1000 0 = some 0 ∧ seeded.stages ≠ [] ∧
    (∀ c ∈ colCores 0, slotFree (region seeded) c 0 = true ∧ (getCore (region seeded) c).spill = []) ∧ ((seeded.stage 0).taskAt 14).isSome = true ∧
    seeded.entry 0 = some 0x40 := by decide
theorem wit_stage_waits : slotFree (modSlot (region seeded) 14 0 (fun t => { t with st := .run })) 14 0 = false ∧ inSvc (region seeded) 14 = true := by decide
/-- A seed at port 3 of package 3 for core 15, where slot 3 alone is free. -/
abbrev aSeed : SeedEnt := { seq := 0xFFFFFF, token := 0xAB0000000003F, state := 1, attempt := 0, ready := 0, done := none }
abbrev atPort : State :=
  { (modPort (modSlot (modSlot (modSlot (region seeded) 15 0 (fun t => { t with st := .run })) 15 1 (fun t => { t with st := .trap })) 15 2
      (fun t => { t with st := .frozen })) 3 3 (fun p => { p with part := some 0x1000, seeds := [aSeed], queue := [0xFFFFFF] })) with args := [3, 3] }
theorem wit_seed_bind : (getPort atPort 3 3).part = some 0x1000 ∧ (getPort atPort 3 3).queue = [0xFFFFFF] ∧ (∀ k < 4, k ≠ 3 → (getPort atPort 3 k).queue = []) ∧
    findSeed atPort 3 3 0xFFFFFF = some aSeed ∧ seeded.seedEntry.bind seeded.entry = some 0x40 ∧ seedCores atPort { (aPart 3) with slots := 8 } = [15] ∧
    slotsRoom atPort 0x1000 (pkgOfCore 15) = true ∧ slotFree atPort 15 3 = true ∧ (∀ k < 3, slotFree atPort 15 k = false) ∧
    bindErr atPort 3 3 { (aPart 3) with slots := 8 } aSeed.token = 0 ∧ bindErr atPort 3 3 { (aPart 3) with slots := 8 } 0xABF00000003F = 2 := by decide
/-- A record of the table, ready and waiting for nothing. -/
abbrev aRecord : DepEnt :=
  { rcb := 0x1000, id := 7, record := true, credit := 0, ndep := 0, va := 0x80, d0 := 0, d1 := 0, d2 := 0, d3 := 0, readyAt := some 0, bound := false,
    uid := 1, res := false }
abbrev recorded (l : List DepEnt) (a : List Nat) (im : Image) : State := { (modPkg (region im) 3 (fun p => { p with dep := l })) with args := a }
theorem wit_tile_bind : readyRecords (recorded [aRecord] [3] seeded) 3 = [aRecord] ∧ seeded.entry (bits aRecord.d0 0 8) = some 0x40 ∧
    (recordPlace [aRecord] (recorded [aRecord] [3] seeded)) = (recorded [aRecord] [3] seeded, some (aRecord, { (aPart 3) with slots := 8 }, 0, 0)) ∧ slotFree (recorded [aRecord] [3] seeded) 0 0 = true := by decide
theorem wit_recq : findPart (recorded [] [3, 0, 0xFE0] seeded) (regionOf (recorded [] [3, 0, 0xFE0] seeded) 0) = some { (aPart 3) with slots := 8 } ∧
    xlateUnit (recorded [] [3, 0, 0xFE0] seeded) 3 0x1000 (bits (0xFE0 : W64) 5 47 * 32) 0 true = some 0xFE0 ∧
    xlateUnit (recorded [] [3, 0, 0xFE0] seeded) 3 0x1000 (bits (0xFE0 : W64) 5 47 * 32) 1 true = some 0xFE0 ∧ placeOf 0xFE0 = .gddr 0 15 ∧
    rd64 (recorded [] [3, 0, 0xFE0] seeded) (0xFE0 + 16) = 0 ∧ rd64 (recorded [] [3, 0, 0xFE0] seeded) (0xFE0 + 24) = 0 ∧ 0 < seeded.stageCount ∧
    generalRoom (recorded [] [3, 0, 0xFE0] seeded) 3 = true ∧ 2048 ≤ 2048 := by decide
/-- A record that has run with a successor, 8, which waits for it alone. -/
abbrev ended : DepEnt := { aRecord with d3 := 0x80000000 ||| 0x8000000000000, bound := true }
abbrev successor : DepEnt := { aRecord with id := 8, ndep := 1, uid := 2, readyAt := none }
theorem wit_record_end : ({ aRecord with bound := true } : DepEnt).succs = [] ∧ ended.succs = [8] ∧
    (getPkg (recorded [ended, successor] [3, 1, 0, 0, 0] seeded) 3).dep.find? (fun x => x.uid == 1) = some ended ∧
    (getPkg (recorded [ended, successor] [3, 1, 0, 0, 0] seeded) 3).dep.find?
      (depIs (recorded [ended, successor] [3, 1, 0, 0, 0] seeded) (partOf (recorded [ended, successor] [3, 1, 0, 0, 0] seeded) 0x1000) 8) = some successor := by decide
/-- Two stages on two columns, the first behind a corridor of four slots with three filled, the second with a spare core. -/
abbrev fullStage : Corr := { aCorr with prod := 3, cons := 0, rp := 3, hp := 0, ring := [(0, ⟨.cmt, 0, 0⟩), (1, ⟨.cmt, 0, 0⟩), (2, ⟨.cmt, 0, 0⟩)] }
abbrev lendPart : Part := { (aPart 3) with wd := 2 }
abbrev lending (a : List Nat) (h : Option Nat) : State :=
  { (modCore (placed 3) 16 (fun c => { c with grant := some { rcb := 0x1000, stage := 1, lent := none, handTo := h } })) with
    parts := [lendPart], images := [(0x2000, { anImage with stages := [aStage, { aStage with col := 1, tasks := [] }] })], corrs := [(1, fullStage)], args := a }
theorem wit_lending : bits (getReg (lending [0] none) (dieWin 0 0 0)) 16 16 * 256 ≠ 0 ∧
    (lending [0] none).parts.filter (fun q => q.state == 3 && q.launchPkg == 0) = [lendPart] ∧
    (∀ n < 2, (regionCols lendPart).any (fun k => colStage (lending [0] none) 0x1000 k == some n) = true) ∧
    fracLt (stageOcc (lending [0] none) 0x1000 0) (3, 4) = false ∧ backPressed (lending [0] none) 0x1000 0 = false ∧
    fracLt (stageOcc (lending [0] none) 0x1000 1) (1, 4) = true ∧ spareCores (lending [0] none) lendPart 1 = [16] ∧
    fracLt (stageOcc (lending [0] none) 0x1000 0) (1, 4) = false ∧ fracLt (stageOcc (lending [0] none) 0x1000 1) (3, 4) = true := by decide
theorem wit_handover : (getCore (lending [16] (some 0)) 16).grant = some { rcb := 0x1000, stage := 1, lent := none, handTo := some 0 } ∧
    ∀ k < 4, (getSlot (lending [16] (some 0)) 16 k).st = .free := by decide

/-! Intake ports. -/
/-- Port 3 of package 3 bound to a running partition, its journals of 1,024 entries in place, the next sequence number the last one. -/
abbrev port (state : Nat) (l : List SeedEnt) (aj : W64) (a : List Nat) : State :=
  { (modPort (setReg (setReg (setReg (placed state) (ajReg 3 3) aj) (cjReg 3 3) 0x2000000) (jnextReg 3 3) 0xFFFFFF) 3 3
      (fun p => { p with part := some 0x1000, seeds := l })) with args := a }
abbrev lastSeed : W64 := 0xFFFFFF0000000000
theorem wit_port_closed : portState State.reset 3 3 = 0 ∧ portState (port 1 [] 0x1000000 []) 3 3 = 1 := by decide
theorem wit_port_open : 2 ≤ portState (port 3 [] 0x1000000 [3, 3, lastSeed.toNat]) 3 3 ∧ journalsIn (port 3 [] 0x1000000 [3, 3, lastSeed.toNat]) 3 3 = true ∧
    bits lastSeed 40 24 = jnext (port 3 [] 0x1000000 [3, 3, lastSeed.toNat]) 3 3 ∧
    cohWritable (port 3 [] 0x1000000 []) 3 (ajEntry (port 3 [] 0x1000000 []) 3 3 0xFFFFFF) = true ∧
    cohWritable (port 3 [] 0x1000000 []) 3 (cohPa 3 (ajOff (port 3 [] 0x1000000 []) 3 3)) = true := by decide
theorem wit_port_room : ¬ (journalN (setReg (port 3 [] 0x1000000 []) (jconsReg 3 3) 0xFFFC00) 3 3 ≤
      (0xFFFFFF + 2 ^ 24 - bits (getReg (setReg (port 3 [] 0x1000000 []) (jconsReg 3 3) 0xFFFC00) (jconsReg 3 3)) 0 24) % 2 ^ 24) ∧
    journalN (setReg (port 3 [] 0x1000000 []) (jconsReg 3 3) 0xFFFBFF) 3 3 ≤
      (0xFFFFFF + 2 ^ 24 - bits (getReg (setReg (port 3 [] 0x1000000 []) (jconsReg 3 3) 0xFFFBFF) (jconsReg 3 3)) 0 24) % 2 ^ 24 := by decide
abbrev doneSeed : SeedEnt := { aSeed with seq := 0, done := some (16, 0, 5) }
theorem wit_report : (getPort (port 3 [doneSeed] 0x1000000 [3, 3]) 3 3).seeds = [doneSeed] ∧ doneSeed.seq = nextrep (port 3 [doneSeed] 0x1000000 [3, 3]) 3 3 ∧
    ajOff (port 3 [doneSeed] 0x1000000 [3, 3]) 3 3 + 64 + 16 * journalN (port 3 [doneSeed] 0x1000000 [3, 3]) 3 3 ≤ cjOff (port 3 [doneSeed] 0x1000000 [3, 3]) 3 3 := by decide
theorem wit_port_done : findSeed (port 3 [aSeed] 0x10001000000 [3, 3, 2048, lastSeed.toNat]) 3 3 (bits lastSeed 40 24) = some aSeed ∧ aSeed.done = none ∧
    1 ≤ aSeed.state ∧ aSeed.state ≤ 3 ∧ portMode (port 3 [aSeed] 0x10001000000 []) 3 3 = true ∧ portMode (port 3 [aSeed] 0x1000000 []) 3 3 = false := by decide

theorem wit_drained_holder : (0, 3) ∈ colSlots (tasked (fun t => { t with holdR := [(7, 3)] }) (draining aDrain) [0]) 0 aDrain.rcb ∧
    ((getSlot (tasked (fun t => { t with holdR := [(7, 3)] }) (draining aDrain) [0]) 0 3).landDue false 0).st ≠ .frozen ∧
    ((getSlot (tasked (fun t => { t with holdR := [(7, 3)] }) (draining aDrain) [0]) 0 3).landDue false 0).holdR ≠ [] := by decide
theorem wit_forward_waits : (∃ p ∈ ({ (forwarding 0) with flights := [(0, { (cFlight .qpush 0) with performed := false })] } : State).flights,
      colOfCore p.2.core = 0 ∧ p.2.performed = false ∧ p.2.kind = .qpush) ∧
    ∃ p ∈ ({ (forwarding 1) with flights := [(0, { (cFlight .draughtMark 0) with performed := false })] } : State).flights,
      colOfCore p.2.core = 0 ∧ p.2.performed = false ∧ p.2.kind = .draughtMark := ⟨⟨_, by simp; rfl, by decide⟩, ⟨_, by simp; rfl, by decide⟩⟩
theorem wit_restart_waits : bindStage (modSlot { faulty with images := [(0x2000, seeded)] } 0 0 (fun t => { t with st := .run, part := 0x1000 })) (aPart 3) 0 none =
    ((bindStage (modSlot { faulty with images := [(0x2000, seeded)] } 0 0 (fun t => { t with st := .run, part := 0x1000 })) (aPart 3) 0 none).1, false) :=
  Prod.ext rfl (by decide)
theorem wit_column_stopped : (aPart 4).state ≠ 3 ∧ findPart { faulty with parts := [aPart 4] } 0x1000 = some (aPart 4) ∧ ({ faulty with args := [0, 1] } : State).args = [0, 1] := by decide
/-- The task has popped nothing on the endpoint that switched. -/
abbrev unpopped : State := modCore (switching Col.reset [0, 5]) 0 (fun k => { k with ep := vset k.ep 7 (some { (anEp true) with switched := some 5 }) })
theorem wit_no_switch_point : (0, 3) ∈ colSlots unpopped 0 0x1000 ∧ (getSlot unpopped 0 3).part = 0x1000 ∧ popsOn unpopped (switchedEps unpopped 0) 0 3 = false := by decide
/-- The successor of the stage has a task, and its slot is taken. -/
abbrev successorTask (c : Col) : State :=
  modSlot { (switching c [0]) with images := [(0x2000, { seeded with stages := [{ aStage with switches := [(5, 1)] }, { aStage with col := 1, tasks := [some 0] }] })] } 0 0
    (fun t => { t with st := .run })
theorem wit_switch_waits : ((imgOf (successorTask { Col.reset with swtag := some 5, swready := true }) (aPart 3)).stage 1).taskAt (posOfCore 0) = some 0 ∧
    inSvc (successorTask { Col.reset with swtag := some 5, swready := true }) 0 = true ∧
    slotFree (successorTask { Col.reset with swtag := some 5, swready := true }) 0 0 = false ∧
    refillDone (successorTask { Col.reset with swtag := some 5, swready := true, swop := 3 }) 0 5 3 = true ∧
    (getCol (successorTask { Col.reset with swtag := some 5, swready := true, swfail := true }) 0).swfail = true := by decide
theorem wit_bind_room : (∀ g ∈ (getCore (region seeded) 14).spill, ¬ (g.place = 2 ∧ g.addr = 0)) ∧ (∀ g ∈ (getCore atPort 15).spill, ¬ (g.place = 2 ∧ g.addr = 3)) := by decide
theorem wit_seed_place : eligible atPort 0x1000 ([15].filter (fun c => decide ((getPort atPort 3 3).lastCore ≤ c)) ++ [15].filter (fun c => decide (c < (getPort atPort 3 3).lastCore))) = (15, 3) :: [] ∧
    aSeed.ready ≤ atPort.now ∧ ¬ aSeed.ready + 1 ≤ atPort.now ∧ 0xFFFFFF ∉ ([] : List Nat) := by decide
theorem wit_seed_waits : eligible (modSlot atPort 15 3 (fun t => { t with st := .run })) 0x1000 [15] = [] := by decide
theorem wit_tile_fails : seeded.entry (bits ({ aRecord with d0 := 1 } : DepEnt).d0 0 8) = none ∧ readyRecords (recorded [{ aRecord with d0 := 1 }] [3] seeded) 3 = [] ++ { aRecord with d0 := 1 } :: [] ∧
    (∃ x ∈ ({ (recorded [aRecord] [3] seeded) with agenda := [(0, .bindSeedTask, [3, 3])] } : State).agenda, x.1 ≤ 0 ∧ x.2.1 = .bindSeedTask) :=
  ⟨rfl, by decide, ⟨_, by simp; rfl, by decide⟩⟩
theorem wit_tile_waits : recordPlace [aRecord] { (recorded [aRecord] [3] seeded) with parts := [{ (aPart 4) with slots := 8 }] } =
    ({ (recorded [aRecord] [3] seeded) with parts := [{ (aPart 4) with slots := 8 }] }, none) := by decide
theorem wit_recq_dropped : regionOf (recorded [] [3, 100, 0] seeded) 100 = 0 ∧ ((0xFE8 : W64).toNat % 32 ≠ 0) ∧
    xlateUnit (recorded [] [3, 0, 0x10000000] seeded) 3 0x1000 (bits (0x10000000 : W64) 5 47 * 32) 0 true = none := by decide
/-- A record of ID 7 that waits for one other stands at 0xFE0. -/
abbrev recqAt (l : List DepEnt) : State := wr64 (recorded l [3, 0, 0xFE0] seeded) 0xFF0 0x7010000000000
abbrev credited : DepEnt := { aRecord with record := false, credit := 1 }
theorem wit_recq_known : depIs (recqAt [aRecord]) 0x1000 (bits (rd64 (recqAt [aRecord]) (0xFE0 + 16)) 48 16) aRecord = true ∧ aRecord.record = true ∧
    [credited].find? (fun y => depIs (recqAt [credited]) 0x1000 7 y && !y.record) = some credited ∧ bits (rd64 (recqAt []) (0xFE0 + 16)) 40 8 = 1 := by decide
/-- The package's table with every entry of general use taken. -/
abbrev crowd : List DepEnt := List.replicate 1984 { aRecord with id := 9 }
theorem wit_recq_full : generalRoom (recqAt crowd) 3 = false ∧ reservedRoom (recqAt crowd) 3 = true := by decide +kernel
theorem wit_recq_others : ∀ y ∈ crowd, depIs (recqAt crowd) 0x1000 7 y = false := by
  intro y hy; rw [List.eq_of_mem_replicate hy]; simp [depIs]
theorem wit_successor : successor.uid ≠ ended.uid ∧ successor.record = true ∧ successor.ndep = 1 ∧ successor.succs = [] := by decide
theorem wit_handover_busy : ∃ k < 4, (getSlot (modSlot (lending [16] (some 0)) 16 2 (fun t => { t with st := .frozen })) 16 k).st ≠ .free := ⟨2, by decide⟩
theorem wit_port_refuses : journalsIn (port 3 [] 0 [3, 3, lastSeed.toNat]) 3 3 = false ∧ bits (0 : W64) 40 24 ≠ jnext (port 3 [] 0x1000000 [3, 3, 0]) 3 3 ∧
    cohWritable (modPkg (port 3 [] 0x1000000 [3, 3, lastSeed.toNat]) 3 (fun p => { p with poison := [cohPa 3 (ajOff (port 3 [] 0x1000000 []) 3 3) / 32] })) 3
      (cohPa 3 (ajOff (port 3 [] 0x1000000 []) 3 3)) = false := by decide
theorem wit_port_owner : (getPort (port 3 [aSeed] 0x10001000000 [3, 3, 2048, lastSeed.toNat]) 3 3).part = some 0x1000 ∧
    partOf (port 3 [aSeed] 0x10001000000 [3, 3, 0, lastSeed.toNat]) 0x1000 = partOfCore (port 3 [aSeed] 0x10001000000 [3, 3, 0, lastSeed.toNat]) 0 ∧
    partOf (port 3 [aSeed] 0x10001000000 [3, 3, 20, lastSeed.toNat]) 0x1000 ≠ partOfCore (port 3 [aSeed] 0x10001000000 [3, 3, 20, lastSeed.toNat]) 20 := by decide


/-! ### States that meet the hypotheses of the statements: launches, translation, the Dumbwaiter -/

/-- A region control block at 0x1000 for one column and its image, with a trap vector that the partition may run. -/
abbrev block (dom : W64) : State :=
  setReg (setReg (wr64 (wr64 (wr64 { State.reset with images := [(0x2000, { seeded with tables := true })], args := [0, 0x1000, 1] }
    0x1008 0x2000) 0x1010 (dom ||| 0x1022000000010)) 0x1018 0x1000) (dieWin 0 uTrans 0) 0x1000) (dieWin 0 uTrans 24) 0x103E
theorem wit_launch : findPart (block 0x100000000000000) 0x1000 = none ∧ launchReason (block 0x100000000000000) 0 0x1000 = 0 ∧
    (rcbChain (block 0x100000000000000) 8 0x1000).isSome = true := by decide
theorem wit_launch_refused : launchReason (block 0) 0 0x1000 = 2 ∧ launchReason State.reset 3 0 ≠ 0 := by decide
abbrev queued : Part := { (aPart 1) with originYX := none }
abbrev queue (l : List Part) : State := { State.reset with args := [0], parts := l, images := [(0x2000, { anImage with stages := [] })] }
theorem wit_admission : candidates (queue [queued]) 0 = [queued] ∧ fits (queue [queued]) [] queued = true ∧ placeFor (queue [queued]) [] queued = some 0 ∧
    findPart (queue [queued]) 0x1000 = some queued ∧ candidates (queue []) 3 = [] := by decide
theorem wit_configured : findPart { (queue [aPart 2]) with args := [0x1000] } 0x1000 = some (aPart 2) ∧ (imgOf (queue [aPart 2]) (aPart 2)).stages = [] ∧
    (aPart 2).pendingPre = none ∧ (imgOf (queue [aPart 2]) (aPart 2)).port = some 0 := by decide

/-- A partition with a frame on the cores of its one column. -/
abbrev withFrame (st : Nat) : Part := { (aPart st) with pantry := 512 }
abbrev framed (st : Nat) (a : List Nat) : State :=
  (List.range 16).foldl (fun s c => modCore s c (fun k =>
    { k with frames := [(0x1000, 0)], grant := some { rcb := 0x1000, stage := 0, lent := none, handTo := none } })) { State.reset with args := a, parts := [withFrame st], images := [(0x2000, anImage)] }
theorem wit_framed : findPart (framed 3 [0, 0x1000]) 0x1000 = some (withFrame 3) ∧ (withFrame 3).parent = 0 ∧ 512 ≤ (withFrame 3).pantry ∧
    (∀ c ∈ regionCores (withFrame 3), (getCore (framed 3 [0, 0x1000]) c).frames.any (fun f => f.1 == 0x1000) = true) ∧ regionCols (withFrame 3) = [0] ∧
    colStage (framed 3 [0, 0x1000]) 0x1000 0 = some 0 ∧ (getCol (framed 3 [0, 0x1000]) 0).drain = none ∧ ({ (withFrame 3) with pantry := 511 } : Part).pantry < 512 := by decide
theorem wit_states : (withFrame 2).state = 2 ∧ (withFrame 5).state = 5 ∧ findPart (framed 6 [0, 0x1000]) 0x1000 = some (withFrame 6) := by decide
abbrev halting (n : Nat) (e : Bool) : State :=
  { (modCol (framed 4 [0x1000]) 0 (fun c => { c with drain := some { rcb := 0x1000, source := true, met := [], ended := true, forwarded := n } })) with
    parts := [{ (withFrame 4) with ending := e }] }
theorem wit_halted : allHalted (halting 2 false) (withFrame 4) = true ∧ allHalted (halting 1 false) (withFrame 4) = false ∧
    allHalted (halting 2 true) { (withFrame 4) with ending := true } = true ∧ findPart (halting 2 true) 0x1000 = some { (withFrame 4) with ending := true } := by decide
theorem wit_restored : (∀ q ∈ (framed 7 [0x1000]).parts, q.rebind = []) ∧
    partOf (modSlot (framed 7 [0x1000]) 15 3 (fun t => { t with st := .frozen, froze := .trap, part := 0x1000 })) 0x1000 = 0x1000 := by decide

/-- A partition whose page table of four levels is at 0x10000 of package 0's memory: a leaf for the page at 0x1000 alone. -/
abbrev aWalk : Walk := { id := 5, part := 0x1000, va := 0x1000, failed := false, running := true, served := [] }
abbrev tables (leaf : W64) (l : List Walk) (a : List Nat) : State :=
  modPkg (setReg (setReg (wr64 (wr64 (wr64 (wr64 { State.reset with args := a } 0x10000 0x20001) 0x20000 0x30001) 0x30000 0x40001) 0x40008 leaf)
    (dieWin 0 uTrans 0x8F0) 0x1001) (dieWin 0 uTrans 0x8F8) 0x10000) 0 (fun p => { p with walks := l })
theorem wit_walk : ptRoot (tables 0x300F [aWalk] [0, 5]) 0 0x1000 = some 0x10000 ∧
    walkFrom (tables 0x500F [aWalk] [0, 5]) 0x1000 4 3 0x10000 = .leaf 0x5000 4096 3 ∧
    walkFrom (tables 0 [aWalk] [0, 5]) 0x1000 4 3 0x10000 = .bad := by decide
theorem wit_range : (255 : Nat) < 256 ∧ bitOf (getReg (setReg State.reset (dieWin 3 1 (32 * (255 / 4) + 24)) 0x20) (dieWin 3 1 (32 * (255 / 4) + 24))) 5 = true := by decide

/-- A task's partition at 0x1000 and its descriptor at the end of page 0. -/
abbrev dwState (a : List Nat) (l : List DwEnt) : State :=
  modPkg (setReg { (placed 3) with args := a } (dieWin 0 uTrans 24) 0x103E) 0 (fun p => { p with dwq := l })
theorem wit_dwq : unitHeld (dwState [0, 0, 0xFC0, 0] []) 0 2 = false ∧ regionOf (dwState [0, 0, 0xFC0, 0] []) 0 ≠ 0 ∧ dwQueued (dwState [0, 0, 0xFC0, 0] []) 0 < 64 ∧
    (∀ need < 2, xlateUnit (dwState [0, 0, 0xFC0, 0] []) 0 (partOfCore (dwState [0, 0, 0xFC0, 0] []) 0) (bits (0xFC0 : W64) 6 46 * 64) need true = some 0xFC0) ∧
    placeOf 0xFC0 = .gddr 0 15 ∧ ∀ k < 8, readable (dwState [0, 0, 0xFC0, 0] []) (0xFC0 + 8 * k) = true := by decide
theorem wit_dwqp : bits (0xFC0 : W64) 6 40 * 64 = 0xFC0 ∧ (dwState [0, 0xFC0] []).args = [0, (0xFC0 : W64).toNat] ∧ regionOf State.reset 0 = 0 := by decide
/-- A descriptor for the last line of the first slice of column 0, its blob at 0xF80, raising counter 15 of core 0. -/
abbrev aDw : DwEnt :=
  { op := 7, part := 0x1000, sys := true, pa := 0xFC0, d := [0xF80, 0x17FFF80, 0, 0x1E000000, 0, 0, 0, 0], record := false, kv := false, running := none, code := 0,
    pages := [], key := none, cut := false, landed := 0, counted := 0, buf := [], bad := false }
theorem wit_dwq_full : 64 ≤ dwQueued (dwState [0, 0xFC0] (List.replicate 64 aDw)) 0 := by decide
theorem wit_dw_start : (getPkg (dwState [0] [aDw]) 0).dwq = [aDw] ∧ (findPart (dwState [0] [aDw]) aDw.part).isSome = true ∧
    switchHeld (dwState [0] [aDw]) aDw = false ∧ (getPkg (dwState [0] [aDw]) 0).dwChans = 0xF := ⟨rfl, rfl, rfl, rfl⟩
theorem wit_dw_checks : (match checkDw (dwState [0] [aDw]) 0 aDw with | .ok p => p == [0] | .error _ => false) = true ∧
    (match checkDw (dwState [0] [{ aDw with d := [0x1000, 0x17FFF80, 0, 0] }]) 0 { aDw with d := [0x1000, 0x17FFF80, 0, 0] } with
      | .ok _ => false | .error c => c == 2) = true := by decide
abbrev moved : DwEnt := { aDw with running := some 3, pages := [0] }
theorem wit_dw_end : bitOf (moved.w 3) 47 = false ∧ moved.swen = false ∧ moved.pa % 64 = 0 ∧ wordErr (dwState [0, 7] [moved]) (moved.pa + 56) ≠ .ecc ∧ moved.gcm = false ∧
    blobBad (dwState [0, 7] [moved]) moved = false ∧ moved.dst % 128 = 0 ∧ moved.col < 128 ∧ moved.dst + 128 * moved.lines ≤ 0x18000000 ∧
    ({ moved with code := 1 } : DwEnt).code ≠ 8 ∧ moved.running = some 3 ∧ (3 : Nat) < 4 := by decide
theorem wit_burst : placeOf 0x2FFFFFFFE0 = .gddr 3 47 ∧ (getPkg State.reset 3).poison = [] := by decide


theorem wit_launch_known : (findPart { (block 0x100000000000000) with parts := [aPart 3] } 0x1000).isSome = true ∧
    launchReason { (block 0x100000000000000) with parts := [aPart 3] } 0 0x1000 = 0 := by decide
theorem wit_launch_block : placeOf (0x1000 + 48) = .gddr 0 16 ∧ readable (block 0) (0x1000 + 48) = true := by decide
theorem wit_admission_restores : untilBlocked (candidates (framed 5 [0]) 0) = [withFrame 5] ∧ fits (framed 5 [0]) [] (withFrame 5) = true ∧ (withFrame 5).parent = 0 ∧
    ∀ c ∈ regionCores (withFrame 5), inSvc (framed 5 [0]) c = true := by decide
theorem wit_admission_blocked : (untilBlocked (candidates (queue []) 0)).find? (fits (queue []) []) = none ∧ bitOf (getReg (queue []) (dieWin 0 0 0)) 5 = false := by decide
/-- A region whose cores hold a task each, being configured. -/
abbrev configuring : State := { (region seeded) with args := [0x1000], parts := [{ (aPart 2) with slots := 8 }] }
theorem wit_configured_tasks : findPart configuring 0x1000 = some { (aPart 2) with slots := 8 } ∧ regionCols (aPart 2) = [0] ∧ colStage configuring 0x1000 0 = some 0 ∧
    (∀ x ∈ colCores 0, inSvc configuring x = true ∧ slotFree configuring x 0 = true ∧ ∀ g ∈ (getCore configuring x).spill, ¬ (g.place = 2 ∧ g.addr = 0)) ∧
    (seeded.stage 0).taskAt (posOfCore 3) = some 0 := by decide
theorem wit_configured_pending : ({ (withFrame 2) with pendingPre := some true } : Part).pendingPre = some true ∧
    findPart { (framed 2 [0x1000]) with parts := [{ (withFrame 2) with pendingPre := some true }] } 0x1000 = some { (withFrame 2) with pendingPre := some true } := by decide
theorem wit_preempt_signal : consumerEps (framed 3 [0, 0x1000]) 0 0x1000 = [] ∧
    partOf { (framed 3 [0, 0x1000]) with corrs := [(5, { aCorr with cons := 0 })] } ({ aCorr with cons := 0 } : Corr).rcb = 0x1000 := by decide
theorem wit_walk_served : ({ aWalk with served := [3] } : Walk).served ≠ [] ∧
    walkFrom (modPkg (tables 0x300F [aWalk] [0, 5]) 0 (fun p => { p with poison := [0x20000 / 32] })) 0x1000 4 3 0x10000 = .uncorrectable 2 := by decide
theorem wit_dwq_held : unitHeld (modPkg (dwState [0, 0, 0xFC0, 0] []) 0 (fun p => { p with heldWrites := [[2, 0, 0, 0xFC0, 0]] })) 0 2 = true ∧
    (0xFC8 : W64).toNat % 64 ≠ 0 ∧ xlateUnit (dwState [0, 0, 0x10000000, 0] []) 0 (partOfCore (dwState [0, 0, 0x10000000, 0] []) 0) (bits (0x10000000 : W64) 6 46 * 64) 0 true = none := by decide
abbrev switchDw : DwEnt := { aDw with d := [0xF80, 0x17FFF80, 0, 0x10500001E000000, 0, 0, 0, 0] }
theorem wit_switch_refill : refillDone (modPkg (successorTask { Col.reset with swtag := some 5, swready := true, swop := 8 }) 0
    (fun p => { p with dwq := [{ aDw with d := [0, 0, 0, 0x105000000000000] }] })) 0 5 8 = false := by decide
theorem wit_dw_switch : switchHeld (dwState [0] [switchDw]) switchDw = true ∧ ({ aDw with pages := [0], part := 0x9000 } : DwEnt).again = true ∧
    findPart (dwState [0] [{ aDw with part := 0x9000 }]) 0x9000 = none ∧ (freeChans (dwState [0] [aDw]) 0).head? = some 0 := by decide
/-- Two lines of a descriptor, its blob at 0x1000. -/
abbrev twoLines : DwEnt := { moved with d := [0x1000, 0x17FFF00, 1, 0x1E000000, 0, 0, 0, 0], pages := [1] }
theorem wit_dw_lands : twoLines.landed + 2 ≤ twoLines.lines ∧ twoLines.buf.length = 128 * twoLines.landed ∧
    (∀ i < 128 * twoLines.lines + 48, placeOf (twoLines.blobPa i) = .gddr 0 (16 + i / 256)) ∧ twoLines.dst % 128 = 0 ∧ twoLines.dst + 128 * twoLines.lines ≤ 0x18000000 ∧
    (∀ i < 256, blobErr (dwState [0, 7, 1] [twoLines]) twoLines (128 * twoLines.landed + i) = false) := by decide +kernel
theorem wit_dw_uncorrectable : ∃ k < 128 * twoLines.lines, 128 * twoLines.landed ≤ k ∧
    blobErr (modPkg (dwState [0, 7] [twoLines]) 0 (fun p => { p with poison := [0x1080 / 32] })) twoLines k = true := ⟨0x80, by decide⟩
/-- An encrypted line, its blob at 0x1000. -/
abbrev sealedDw : DwEnt := { moved with d := [0x1000, 0x17FFF80, 0, 0x20000001E000000, 0, 0, 0, 0], pages := [1], key := some 0 }
theorem wit_dw_sealed : sealedDw.key = some 0 ∧ sealedDw.gcm = true ∧ sealedDw.landed = 0 ∧ sealedDw.buf = [] ∧ (∀ i < 128 * sealedDw.lines + 48, placeOf (sealedDw.blobPa i) = .gddr 0 16) ∧
    (∀ i < 128 * sealedDw.lines + 48, blobErr (dwState [0, 7] [sealedDw]) sealedDw i = false) := by decide +kernel
theorem wit_dw_channels : (∃ c < 4, c ≠ 3 ∧ (getPkg (dwState [0, 3] [moved]) 0).dwChans.getLsbD c = true) ∧
    ∀ c < 4, c ≠ 3 → (getPkg (modPkg (dwState [0, 3] [moved]) 0 (fun p => { p with dwChans := 8 })) 0).dwChans.getLsbD c = false := by decide
theorem wit_burst_known : 0xFE0 / 32 ∈ (getPkg (modPkg State.reset 0 (fun p => { p with poison := [0x7F] })) 0).poison ∧ placeOf 0xFE0 = .gddr 0 15 ∧
    poisonFull State.reset 0 0xFE0 = false := by decide
theorem wit_burst_full : poisonFull (modPkg State.reset 0 (fun p => { p with poison := List.replicate 4096 0x7E })) 0 0xFE0 = true ∧
    0x7F ∉ List.replicate 4096 0x7E := ⟨by decide +kernel, fun h => absurd (List.eq_of_mem_replicate h) (by decide)⟩


/-! The Sinter. -/
abbrev sintered (f : Core → Core) (x1 : W64) : State := wr64 (modCore (one x1) 0 f) (localPa 0 0x3FBE0) 0xFFFFD80000000000
abbrev anSop (merge : Bool) : SOp :=
  { op := 5, slot := 0, inc := 0, lvl := false, merge := merge, lap2 := false, keep := false, rq := false, addr := 0, arg := 0, desc := [0, 0, 0, 0],
    rep := none, cc := some 15, begun := merge, failed := none, answer := none, flags := 0, grads := [], abandoned := false }
theorem wit_descriptor : RecordOk (sintered id 0x3FBE0) 0x3FBE0 32 ∧ (myCore (sintered id 0x3FBE0)).sq.length < 4 ∧
    queueFull (sintered id 0x3FBE0) = false ∧ (∀ x ∈ (myCore (sintered (fun c => { c with sq := [anSop true] }) 0x3FBE0)).sq.head?, x.merge = true → x.begun = true) :=
  ⟨⟨by decide, by decide, by decide, by unfold LocalOk; decide, fun _ _ _ => rfl⟩, by decide, by decide, by decide⟩
theorem wit_descriptor_system : RecordOk (sysOne 0x3FE60) 0x3FE60 32 :=
  ⟨by decide, by decide, by decide, by unfold LocalOk; decide, fun _ _ _ => rfl⟩
theorem wit_keep : (myCore (sintered (fun c => { c with sint := { c.sint with last := some (0, 0) } }) 0x3FBE0)).sint.last =
      some ((projOf (recordAt (sintered id 0x3FBE0) 0x3FBE0 4)).shard, (projOf (recordAt (sintered id 0x3FBE0) 0x3FBE0 4)).tok0) ∧
    (myCore (sintered id 0)).sint.last = none := by decide
theorem wit_replayed : (projOf (recordAt (sintered id 0x3FBE0) 0x3FBE0 4)).hfmt = 6 ∧ (projOf (recordAt (sintered id 0x3FBE0) 0x3FBE0 4)).haddr = 0x3FFFF ∧
    (projOf (recordAt (sintered id 0x3FBE0) 0x3FBE0 4)).haddr + fmtBits 6 / 8 * (projOf (recordAt (sintered id 0x3FBE0) 0x3FBE0 4)).h ≤ 0x40000 ∧
    ∀ g < 64, touch (sintered id 0x3FBE0) 0 (partOf (sintered id 0x3FBE0) (me (sintered id 0x3FBE0)).part) g = .ok := by decide
theorem wit_merge_issue : (myCore (one 511)).sq = [] ∧ heldByFreeze (one 511) 0 0 = false ∧ pkgOfCore (bits (xr (one 511) 1#5) 0 11) = pkgOfCore 0 := by decide
theorem wit_sinter_full : 4 ≤ (myCore (sintered (fun c => { c with sq := List.replicate 4 (anSop false) }) 0)).sq.length ∧
    canTrap (one 0x3FBE8) ∧ (xr (one 0x3FBE8) 1#5).toNat % 32 ≠ 0 := by unfold canTrap; decide

/-- The Sinter with a full heap and two shards, label 7 valid. -/
abbrev aSinter : Sinter :=
  { Sinter.clear with
    heap := List.replicate 64 (0, 5), shards := [(0, 0), (0, 1)], valid := true, spanC := 1, drawn := 3, drawnV := true,
    labels := vset Sinter.clear.labels 7 { lv := true, tok := 9, bias := 0, logit := 0, v := true } }
abbrev summed (t : Sinter) (x1 : W64) : State := modCore (one x1) 0 (fun c => { c with sint := t })
theorem wit_sinter_ready : (myCore (summed aSinter 63)).sq = [] ∧ (∀ r ∈ (me (summed aSinter 63)).records, r.unit ≠ 5) ∧ aSinter.heap[63]? = some (0, 5) ∧
    ({ aSinter with heap := [] } : Sinter).heap.length ≤ 0 ∧ aSinter.shards[129 - 128]? = some (0, 1) ∧ aSinter.shards.length ≤ 191 - 128 ∧ (64 + 7 : Nat) = 71 := by decide
theorem wit_hread_traps : canTrap (one 75) ∧ (75 ≤ (xr (one 75) 1#5).toNat ∧ (xr (one 75) 1#5).toNat < 128) ∧ 192 ≤ (xr (one 192) 1#5).toNat := by unfold canTrap; decide
theorem wit_snorm : (0x3FBC0 : Nat) + 64 ≤ 0x3FE00 ∧ LocalOk (summed aSinter 0x3FBC0) 0x3FBC0 64 64 false false ∧
    sysOnlyRange (summed aSinter 0x3FBC0) 0 0x3FBC0 64 = false ∧ (∀ y ∈ aSinter.heap, y.2 < 2 ^ 18) := by unfold LocalOk; decide
theorem wit_slabel : bits (0x3FFFF00000107 : W64) 50 14 = 0 ∧ fNan 0 = false ∧ (0xFF800000 : W32) ≠ 0x7F800000 ∧ bits (0x4000000000000 : W64) 50 14 ≠ 0 ∧
    fNan 0x7F800001 = true ∧ canTrap (summed aSinter 0x4000000000000) := by unfold canTrap; decide
theorem wit_sdraw : RecordOk (summed aSinter 0x3FBE0) 0x3FBE0 32 ∧ (0x3FBE0 : Nat) + 32 ≤ 0x3FE00 :=
  ⟨⟨by decide, by decide, by decide, by unfold LocalOk; decide, fun _ _ _ => rfl⟩, by decide⟩
theorem wit_draw_records : recordIllegal aSinter 0 = false ∧ recordIllegal aSinter 0x1000001 = false ∧ recordIllegal aSinter 0x40000001 = false ∧
    recordIllegal aSinter 3 = false ∧ recordIllegal aSinter 7 = false ∧ recordIllegal aSinter 0x3F800000001C0008 = false ∧
    recordIllegal aSinter 0x80000000 = true ∧ recordIllegal aSinter 1 = true ∧ aSinter.complete = false := by decide
theorem wit_sinter_busy : (myCore (sintered (fun c => { c with sq := [anSop false] }) 0)).sq ≠ [] := by decide
/-- An operation of the Sinter on its way at core 0, and core 1 beside it. -/
abbrev merging (o : SOp) (a : List Nat) : State := { (sintered (fun c => { c with sq := [o] }) 0) with args := a }
theorem wit_merge_source : (getCore (merging (anSop true) [0, 1, 5, 0]) 0).sq = [anSop true] ∧ (getCore (merging (anSop true) [0, 1, 5, 0]) 1).sq = [] ∧
    pkgOfCore 1 = pkgOfCore 0 ∧ regionOf (merging (anSop true) [0, 1, 5, 0]) 1 = regionOf (merging (anSop true) [0, 1, 5, 0]) 0 ∧
    inSvc (merging (anSop true) [0, 1, 5, 0]) 1 = true ∧ sameTask (merging (anSop true) [0, 1, 5, 0]) 0 0 0 = true ∧
    regionOf (modCore (merging (anSop true) [0, 1, 5, 0]) 1 (fun c => { c with grant := some { rcb := 0x1000, stage := 0, lent := none, handTo := none } })) 1 ≠ 0 := by decide
theorem wit_merge_waits : ∀ x ∈ (getCore (modCore { (merging (anSop true) [0, 1, 5, 0]) with nextId := 6 } 1
    (fun c => { c with sq := [{ (anSop false) with op := 6 }] })) 1).sq, x.op ≤ 6 ∧ x.op ≠ 5 := by decide
abbrev left : Sinter := { Sinter.clear with valid := true, spanA := 0, spanC := 1, nshard := 1, heap := [(0, 1)] }
theorem wit_merge_apply : mergeOk left { left with spanA := 1 } = true ∧ mergeOk left left = false ∧ recRoom (merging (anSop true) [0, 5]) 0 0 = true ∧
    (∀ m ∈ (getCore (merging (anSop true) [0, 5]) 0).mq, m.op ≠ 5) ∧ ({ (anSop true) with answer := some left } : SOp).failed = none := by decide
theorem wit_projection_end : (anSop false).grads = [] ∧ ({ (anSop false) with failed := some (1, 0) } : SOp).answer = none ∧
    ({ (anSop false) with answer := some left } : SOp).failed = none ∧ (anSop false).abandoned = false := by decide
/-- A projection at the head of both queues whose descriptor names hidden elements of no legal format. -/
abbrev badProj : State :=
  { (modCore (merging (anSop false) [0, 5]) 0 (fun c => { c with mq := [{ (anMop .vproj) with op := 5 }] })) with args := [0, 5] }
theorem wit_projection_begin : projCheck badProj 0 false true 0 (projOf (anSop false).desc) = some (1, 0) ∧ heldByFreeze badProj 0 0 = false ∧
    ((anMop .vproj).kind = .vproj) ∧ (anSop false).begun = false := by decide

theorem wit_sinter_outside : (0x3FE60 : Nat) % 32 = 0 ∧ ¬ ((0x3FE60 : W64).toNat + 32 ≤ 0x40000 ∧ (lvlOf (me (one 0x3FE60)) = true ∨ sysOnlyRange (one 0x3FE60) 0 0x3FE60 32 = false)) ∧
    canTrap (one 0x3FE60) ∧ NoShort (one 0x3FE60) := ⟨by decide, by decide, by unfold canTrap; decide, Or.inl (by decide)⟩
theorem wit_hidden_clean : (∀ j, 0x3FFFF ≤ j → j < 0x40000 → (sintered id 0x3FBE0).localBad.find (localPa 0 (j / 8 * 8) / 8) = none) ∧
    (∀ g < 64, touch (sintered id 0x3FBE0) 0 (partOf (sintered id 0x3FBE0) (me (sintered id 0x3FBE0)).part) g ≠ .restore) :=
  ⟨fun _ _ _ => rfl, by decide⟩
theorem wit_hidden_astray : 8 * (projOf [0x5C0000000000, 0, 0, 0]).haddr % fmtBits (projOf [0x5C0000000000, 0, 0, 0]).hfmt ≠ 0 ∨
    0x200000 < 8 * (projOf [0xFFFFD80000000000, 0, 0x300000000, 0]).haddr + fmtBits (projOf [0xFFFFD80000000000, 0, 0x300000000, 0]).hfmt * (projOf [0xFFFFD80000000000, 0, 0x300000000, 0]).h :=
  Or.inr (by decide)
/-- A record of `sdraw` at 0x100: its random word, its mode. -/
abbrev drawing (t : Sinter) (d3 : W64) : State := wr64 (summed t 0x100) (localPa 0 0x118) d3
theorem wit_draw_modes : ({ aSinter with valid := true } : Sinter).broken = false ∧ aSinter.heap = (0, 5) :: List.replicate 63 (0, 5) ∧
    (recordAt (drawing aSinter 3) 0x100 4).getD 3 0 = 3 ∧ bits (3 : W64) 0 2 = 3 ∧ bitOf (7 : W64) 2 = true ∧
    recordIllegal { aSinter with heap := [] } 0 = false ∧ recordIllegal { aSinter with complete := true } 3 = false ∧
    ({ aSinter with valid := false } : Sinter).valid = false := by decide
/-- Two candidates, the first of which carries the mass. -/
abbrev twoLeft : Sinter := { aSinter with heap := [(0, 5), (0xC1200000, 6)], m := 0, s := 0x3F800000, shards := [(0, 0x3F800000)] }
theorem wit_draw_mass : recordIllegal twoLeft 0x3F00000000000002 = false ∧
    (∀ j ≤ 0, fGe ((heapMass twoLeft).getD (j + 1) 0) (fMul (BitVec.ofNat 32 (bits (0x3F00000000000002 : W64) 32 32)) twoLeft.s) = decide (j = 0)) := by decide +kernel
theorem wit_draw_lacks : recordIllegal twoLeft 0x3F80000000000002 = false ∧ twoLeft.complete = false ∧
    (∀ n, n < 2 → fGe ((heapMass { twoLeft with s := 0x40800000 }).getD (n + 1) 0) (fMul (BitVec.ofNat 32 (bits (0x3F80000000000002 : W64) 32 32)) 0x40800000) = false) := by decide +kernel
theorem wit_sinter_delivers : [({ obj := .sinter, order := 7, cause := 5, unit := 5, value := 9, alt := none } : Rec)] = [] ++ { obj := .sinter, order := 7, cause := 5, unit := 5, value := 9, alt := none } :: [] ∧
    ∀ x ∈ ([] : List Rec), x.unit ≠ 5 := by decide
theorem wit_merge_barred : partOfCore (modCore (merging (anSop true) [0, 1, 5, 0]) 1 (fun c => { c with grant := some { rcb := 0x1000, stage := 0, lent := none, handTo := none } })) 1 ≠
    partOfCore (merging (anSop true) [0, 1, 5, 0]) 0 ∧
    (∃ x ∈ (getCore (modCore (merging (anSop true) [0, 1, 5, 9]) 1 (fun c => { c with sq := [{ (anSop false) with op := 8 }] })) 1).sq, x.op < 9 ∧ x.op ≠ 5) :=
  ⟨by decide, ⟨{ (anSop false) with op := 8 }, by decide, by decide⟩⟩
theorem wit_sinter_records : ¬ (getSlot (modSlot (merging { (anSop true) with failed := some (1, 77) } [0, 5]) 0 0
    (fun t => { t with records := List.replicate 16 { obj := .cc 3, order := 1, cause := 1, unit := 3, value := 0, alt := none } })) 0 0).records.length < 16 := by decide
/-- Forty gradients on their way to 0x3FF60, the last bytes of local memory. -/
abbrev someGrads : List W32 := List.replicate 40 0x3F800000
theorem wit_gradients : ({ (anSop false) with grads := someGrads.zipIdx.map (fun g => (0x3FF60 + 4 * g.2, g.1)) } : SOp).grads.length = 40 ∧ 0x3FF60 % 4 = 0 ∧
    0x3FF60 + 4 * someGrads.length ≤ 0x40000 ∧ ∀ j < 32768, State.reset.localBad.find (localPa 0 (8 * j) / 8) = none := ⟨by decide, by decide, by decide, fun _ _ => rfl⟩
/-- A projection of three rows of four weights at level 1. -/
abbrev goodProj : State :=
  { (modCore (merging { (anSop false) with desc := [0x401DC03F800000, 0x40, 0x300000000, 0x8000000000000], lvl := true } [0, 5]) 0
      (fun c => { c with mq := [{ (anMop .vproj) with op := 5 }] })) with args := [0, 5] }
theorem wit_projection_runs : projCheck goodProj 0 true true 0 (projOf [0x401DC03F800000, 0x40, 0x300000000, 0x8000000000000]) = none ∧
    runFree (posOfCore 0) (getCore goodProj 0) 5 0 (projCycles (projOf [0x401DC03F800000, 0x40, 0x300000000, 0x8000000000000])) = true := by decide
theorem wit_lap_unfollowed : ({ (anSop false) with lap2 := true } : SOp).rep = none ∧ aSinter.rpl = false ∧ (anSop false).rq = false := by decide


/-! ### States that meet the hypotheses of the statements: the package's window and the page manager -/

abbrev mailed (i o : Nat) (h : List (List Nat)) : State :=
  modPkg { State.reset with args := [3, 6] } 3 (fun p => { p with mbin := List.replicate i 7, mbout := List.replicate o 7, heldWrites := h })
theorem wit_mailbox : unitHeld (mailed 255 255 []) 3 6 = false ∧ unitHeld (mailed 255 255 []) 3 7 = false ∧ (getPkg (mailed 255 255 []) 3).mbin.length < 256 ∧
    (getPkg (mailed 255 255 []) 3).mbout.length < 256 ∧ 256 ≤ (getPkg (mailed 256 256 []) 3).mbin.length ∧ 256 ≤ (getPkg (mailed 256 256 []) 3).mbout.length ∧
    (getPkg (mailed 0 0 []) 3).mbin = [] ∧ (getPkg (mailed 0 0 []) 3).mbout = [] ∧ (getPkg (mailed 2 1 []) 3).mbin = 7 :: [7] := by decide +kernel
theorem wit_held_write : (getPkg (mailed 255 255 [[6, 9]]) 3).heldWrites = [[6, (9 : W64).toNat]] ∧ (getPkg (mailed 255 255 [[7, 9]]) 3).heldWrites = [[7, (9 : W64).toNat]] := by decide
theorem wit_bases : 0x1000000 ≤ bits (0x1000009 : W64) 5 27 * 32 ∧ bits (0x1000009 : W64) 0 4 ≤ 9 ∧ 9 < bits (0x100000A : W64) 0 4 ∧
    bits (0xFFFFE9 : W64) 5 27 * 32 < 0x1000000 ∧ 0x1000000 ≤ bits (0xC01000000 : W64) 6 26 * 64 ∧ bits (0xC01000000 : W64) 32 4 ≤ 12 ∧
    bits (0xFFFFC0 : W64) 6 26 * 64 < 0x1000000 ∧ 12 < bits (0xD01000000 : W64) 32 4 := by decide

/-- A package whose page manager has four pages of 128 bytes at 0x400000 and its own area at 0x300000, and whose first page of
virtual memory in partition 0x1000 stands at 0x100000; its flash ring of sixteen entries is at the window's 0x1000000. -/
abbrev kvRegs : State :=
  setReg (setReg (setReg (setReg (setReg (setReg { (placed 3) with args := [0] } (dieWin 0 uTrans 8) 0x100000) (dieWin 0 uTrans 24) 0x103E) (ccWin 0 0x340) 0x400000)
    (ccWin 0 0x348) 0x100000004) (ccWin 0 0x350) 0x300000) (ccWin 0 0x380) 0x1000000
/-- A sequence at virtual address 0 with two blocks in one group; its record at 0x200000 heads the queue. -/
abbrev kvWords (ws : List (Nat × W64)) : List (Nat × W64) :=
  [(0x100010, 0x80), (0x100018, 0xC0), (0x100020, 0x100), (0x100038, 2), (0x100040, 0x140), (0x100048, 0x180), (0x100050, 0x800000000)] ++ ws
abbrev kvQueue (q : List KvRec) : State := modPkg kvRegs 0 (fun p => { p with kvq := q })
abbrev kvState (r : KvRec) (ws : List (Nat × W64)) : State := (kvWords ws).foldl (fun s x => wr64 s x.1 x.2) (kvQueue [r])
abbrev aRec (op : Nat) (w1 w2 : W64) : KvRec := { op := op, part := 0x1000, sys := true, pa := 0x200000, d := [0, w1, w2, 0, 0, 0, 0, 0] }
abbrev aSeq : KvAt := ⟨0, 0x1000, 0⟩
theorem wit_mapped (s : State) (hw : s.wregs = kvRegs.wregs) (h1 : (getPkg s 0).inService = true) (h2 : (getPkg s 0).poison = []) :
    Mapped s 0 0x1000 0 4096 0x100000 := by
  refine ⟨by decide, h1, h2, by decide, by decide, by unfold Within; decide, fun va _ h => ⟨15, ?_, by decide⟩⟩
  have g : ∀ a, getReg s a = getReg kvRegs a := fun a => by unfold getReg; rw [hw]
  have e0 : getReg kvRegs (dieWin 0 uTrans 0) = 0 := by decide
  have e1 : getReg kvRegs (dieWin 0 uTrans 8) = 0x100000 := by decide
  have e2 : getReg kvRegs (dieWin 0 uTrans 16) = 0 := by decide
  have e3 : getReg kvRegs (dieWin 0 uTrans 24) = 0x103E := by decide
  have b : rangeHit s 0 0x1000 va 0 = some (0x100000 + (va - 0), 15) := by
    unfold rangeHit
    simp only [g, Nat.mul_zero, Nat.mul_one, Nat.zero_add, Nat.reduceMul, e0, e1, e2, e3]
    have c1 : bits (0 : W64) 12 40 = 0 := by decide
    have c2 : bits (0 : W64) 0 40 = 0 := by decide
    have c3 : bits (0x103E : W64) 6 40 * 64 = 0x1000 := by decide
    have c4 : bits (0x100000 : W64) 12 34 * 4096 = 0x100000 := by decide
    have c5 : b2n (bitOf (0x103E : W64) 1) + 2 * b2n (bitOf (0x103E : W64) 2) + 4 * b2n (bitOf (0x103E : W64) 3) + 8 * b2n (bitOf (0x103E : W64) 4) = 15 := by decide
    have c6 : bitOf (0x103E : W64) 5 = true := by decide
    rw [c1, c2, c4, c5, if_pos ⟨c6, c3, by omega, by omega, by omega⟩]
  show ((List.range 64).findSome? (rangeHit s 0 0x1000 va)) = _
  rw [show List.range 64 = 0 :: (List.range 63).map (· + 1) from by decide, List.findSome?_cons, b]
/-- What `RecordStands` asks beside the range, and whether the sequence is paged out. -/
abbrev inPlace (x y : Nat × Nat) : Prop := x.2 = 0 ∨ y.1 ≤ x.1 ∧ x.1 + x.2 ≤ y.1 + y.2
abbrev apart (x y : Nat × Nat) : Prop := x.2 = 0 ∨ y.2 = 0 ∨ x.1 + x.2 ≤ y.1 ∨ y.1 + y.2 ≤ x.1
def kvRest (s : State) (op : Nat) (r : KvRec) (paged : Bool) : Bool := decide (
  (s.wregs = kvRegs.wregs ∧ (getPkg s 0).inService = true ∧ (getPkg s 0).poison = []) ∧
  (s.args = [0] ∧ (getPkg s 0).kvq = [r] ∧ (getPkg s 0).kvWait = none ∧ r.op = op ∧ r.reservedOk = true ∧ r.pa % 64 = 0 ∧ 0x1000 = r.part ∧
    0 = bits (r.w 0) 6 46 * 64) ∧
  (aSeq.reservedOk s = true ∧ (∀ x ∈ seqAreas s aSeq, inPlace x (0, 4096)) ∧ (seqAreas s aSeq).Pairwise apart) ∧
  ((∀ x ∈ [(0x100000, 4096), (r.pa, 64), (kvBase s 0, kvAreaLen s 0), (kvPool s 0, kvPages s 0 * kvPageBytes s 0)], inPlace x (gddrPa 0 0, 0xB01000000)) ∧
    [(0x100000, 4096), (r.pa, 64), (kvBase s 0, kvAreaLen s 0), (kvPool s 0, kvPages s 0 * kvPageBytes s 0)].Pairwise apart) ∧ aSeq.paged s = paged)
theorem wit_stands {s : State} {op : Nat} {r : KvRec} {b : Bool} (h : kvRest s op r b = true) :
    RecordStands s 0 op r aSeq 0 4096 0x100000 ∧ aSeq.paged s = b := by
  obtain ⟨⟨w, i, p⟩, ⟨c1, c2, c3, c4, c5, c6, c7, c8⟩, q, ⟨a1, a2⟩, g⟩ := of_decide_eq_true h
  exact ⟨⟨c1, c2, c3, c4, c5, c6, rfl, c7, c8, c7 ▸ wit_mapped s w i p, q, a1, a2⟩, g⟩

/-- The words of CLEN and SLEN, of the two list entries, of the free stack's depth, of its first two pages, and of the reference
counts. -/
abbrev lens (c l : Nat) : Nat × W64 := (0x100000, BitVec.ofNat 64 (c * 2 ^ 32 + l))
abbrev entries (a b : Nat) : Nat × W64 := (0x100080, BitVec.ofNat 64 (b * 2 ^ 32 + a))
abbrev depth (d : Nat) : Nat × W64 := (0x300000, BitVec.ofNat 64 d)
abbrev stack (a b : Nat) : Nat × W64 := (0x320040, BitVec.ofNat 64 (b * 2 ^ 32 + a))
abbrev refs (a b c d : Nat) : Nat × W64 := (0x320000, BitVec.ofNat 64 (d * 2 ^ 48 + c * 2 ^ 32 + b * 2 ^ 16 + a))
abbrev oneBlock : Nat × W64 := (0x100038, 1)
abbrev pagedOut : Nat × W64 := (0x100050, 0x800000002)

theorem wit_kv_queue : unitHeld (kvQueue [aRec 1 0 0]) 0 5 = false ∧ (getPkg (kvQueue [aRec 1 0 0]) 0).kvq ≠ [] ∧ regionOf (kvQueue [aRec 1 0 0]) 0 ≠ 0 ∧
    (getPkg (kvQueue (List.replicate 63 (aRec 1 0 0))) 0).kvq.length < 64 ∧ 64 ≤ (getPkg (kvQueue (List.replicate 64 (aRec 1 0 0))) 0).kvq.length ∧
    (∀ need < 2, xlateUnit (kvQueue [aRec 1 0 0]) 0 (partOfCore (kvQueue [aRec 1 0 0]) 0) (bits (0xFC0 : W64) 6 46 * 64) need true = some 0x100FC0) ∧
    placeOf 0x100FC0 = .gddr 0 31 ∧ (∀ i < 8, readable (kvQueue [aRec 1 0 0]) (0x100FC0 + 8 * i) = true) := by decide +kernel
theorem wit_kv_paged : kvRest (kvState (aRec 10 0 0) [pagedOut]) 10 (aRec 10 0 0) true := by decide +kernel
theorem wit_kv_reserved : (aRec 11 0 1).reservedOk = false ∧ (aRec 11 0 1).pa % 64 = 0 ∧ placeOf (aRec 11 0 1).pa = .gddr 0 32 := by decide +kernel
theorem wit_alloc : kvRest (kvState (aRec 1 0 0) []) 1 (aRec 1 0 0) false := by decide +kernel
theorem wit_commit_record : kvRest (kvState (aRec 3 16 7) [lens 16 16, depth 2, entries 0 3]) 3 (aRec 3 16 7) false ∧
    aSeq.slen (kvState (aRec 3 16 7) [lens 16 16, depth 2, entries 0 3]) = 16 ∧
    aSeq.clen (kvState (aRec 3 16 7) [lens 16 16, depth 2, entries 0 3]) + 16 ≤ 16 * aSeq.maxb (kvState (aRec 3 16 7) [lens 16 16, depth 2, entries 0 3]) ∧
    kvDepth (kvState (aRec 3 16 7) [lens 16 16, depth 2, entries 0 3]) 0 + aSeq.listLen (kvState (aRec 3 16 7) [lens 16 16, depth 2, entries 0 3]) ≤
      kvPages (kvState (aRec 3 16 7) [lens 16 16, depth 2, entries 0 3]) 0 := by decide +kernel
theorem wit_commit_over : kvRest (kvState (aRec 3 1 0) []) 3 (aRec 3 1 0) false ∧ aSeq.slen (kvState (aRec 3 1 0) []) < 1 := by decide +kernel
abbrev freeing : State := kvState (aRec 5 0 0) [oneBlock, entries 3 0, depth 3, refs 0 0 0 1]
theorem wit_free : kvRest freeing 5 (aRec 5 0 0) false ∧ aSeq.listLen freeing = 1 ∧ aSeq.entry freeing 0 0 = 3 ∧ pageRef freeing 0 3 = 1 ∧
    kvDepth freeing 0 + aSeq.listLen freeing ≤ kvPages freeing 0 := by decide +kernel
abbrev appending (m : W64) (ws : List (Nat × W64)) : State := kvState (aRec 2 m 0) ws
theorem wit_append_room : kvRest (appending 32 [refs 1 0 0 1, entries 0 3]) 2 (aRec 2 32 0) false ∧
    (∀ j < 2, aSeq.entry (appending 32 [refs 1 0 0 1, entries 0 3]) 0 j < 4 ∧
      pageRef (appending 32 [refs 1 0 0 1, entries 0 3]) 0 (aSeq.entry (appending 32 [refs 1 0 0 1, entries 0 3]) 0 j) ≤ 1) := by decide +kernel
abbrev growing : State := appending 16 [entries 0xFFFFFFFF 0xFFFFFFFF, depth 4, (0x320048, 0x300000002)]
theorem wit_append_page : kvRest growing 2 (aRec 2 16 0) false ∧ aSeq.groups growing = 1 ∧ kvDepth growing 0 = 4 ∧ kvDepth growing 0 ≤ kvPages growing 0 ∧
    rdN growing (kvStackAt growing 0 3) 4 = 3 ∧ kvPages growing 0 ≤ aSeq.entry growing 0 0 := by decide +kernel
abbrev copying : State := appending 1 [entries 1 0, depth 1, stack 2 0, refs 0 2 0 0]
theorem wit_append_copy : kvRest copying 2 (aRec 2 1 0) false ∧ aSeq.entry copying 0 0 = 1 ∧ 1 < pageRef copying 0 1 ∧ rdN copying (kvStackAt copying 0 0) 4 = 2 := by decide +kernel
theorem wit_append_none : kvRest (appending 1 [entries 0xFFFFFFFF 0]) 2 (aRec 2 1 0) false ∧ kvDepth (appending 1 [entries 0xFFFFFFFF 0]) 0 = 0 ∧
    kvRest (appending 0 []) 2 (aRec 2 0 0) false ∧ ¬ (1 ≤ bits ((aRec 2 0 0).w 1) 0 7) := by decide +kernel
/-- A parent of one full block at 0 and its child at 0x400. -/
abbrev forking : State := kvState (aRec 4 0x400 0)
  [lens 16 0, entries 1 0xFFFFFFFF, refs 0 0xFFFE 0 0, (0x100410, 0x480), (0x100418, 0x4C0), (0x100420, 0x500), (0x100438, 2), (0x100440, 0x540),
    (0x100448, 0x580), (0x100450, 0x800000000)]
abbrev aChild : KvAt := ⟨0, 0x1000, 0x400⟩
theorem wit_fork : kvRest forking 4 (aRec 4 0x400 0) false ∧ aChild = { aSeq with sd := bits ((aRec 4 0x400 0).w 1) 6 46 * 64 } ∧
    (aChild.reservedOk forking = true ∧ (∀ x ∈ seqAreas forking aChild, inPlace x (0, 4096)) ∧ (seqAreas forking aChild).Pairwise apart) ∧
    (∀ x ∈ seqAreas forking aSeq, ∀ y ∈ seqAreas forking aChild, apart x y) ∧ aChild.paged forking = false ∧ aChild.groups forking = aSeq.groups forking ∧
    aChild.maxb forking = aSeq.maxb forking ∧ aChild.penb forking = aSeq.penb forking ∧ aSeq.clen forking ≤ 16 * aSeq.maxb forking ∧
    ∀ j < kvPages forking 0, pageRef forking 0 j + (([(0, 0)] : List (Nat × Nat)).filter (fun x => aSeq.entry forking x.1 x.2 == j)).length ≤ 0xFFFF := by decide +kernel
/-- The hash of sixteen zero bytes and sixteen zero token ids, and a prefix-table entry that holds it. -/
theorem wit_hash : leNat (shake256 (List.replicate 16 0 ++ List.replicate 64 0) 16) = 0xc8fdb87ae8c3635b695df403e00537e2 := by decide +kernel
abbrev cached (s : State) : State := setPx s 0 63 ⟨true, 0, 0xc8fdb87ae8c3635b695df403e00537e2, 5⟩
theorem wit_cached {s : State} (h : (getPkg s 0).px = [(63, ⟨true, 0, 0xc8fdb87ae8c3635b695df403e00537e2, 5⟩)]) :
    findPx s 0 (shake256 (List.replicate 16 0 ++ List.replicate 64 0) 16) = some 63 := by
  unfold findPx getPx
  simp only [h, wit_hash]
  decide +kernel
theorem wit_hashes {s : State} (h : aSeq.bytes s 96 16 = List.replicate 16 0) (g : aSeq.bytes s 0x200 64 = List.replicate 64 0) :
    aSeq.hashes s 0x200 1 = [shake256 (List.replicate 16 0 ++ List.replicate 64 0) 16] := by
  unfold KvAt.hashes
  simp only [Nat.zero_add, h, List.range_one, List.map_cons, List.map_nil, Nat.mul_zero, Nat.add_zero, g]
  rfl
/-- A prompt of 17 tokens at 0x200, its first block in the prefix table's last entry. -/
abbrev asking (ws : List (Nat × W64)) : State := cached (kvState (aRec 6 0x200 0x1100000010) ([(0x31FC00, 2)] ++ ws))
theorem wit_lookup : kvRest (asking []) 6 (aRec 6 0x200 0x1100000010) false ∧ aSeq.clen (asking []) = 0 ∧ aSeq.slen (asking []) = 0 ∧
    rdN (asking []) (kvRecordAt (asking []) 0 63 0) 4 = 2 ∧ inPlace (0x200, 68) (0, 4096) ∧ ∀ j < 4, pageRef (asking []) 0 j + 1 ≤ 0xFFFF := by decide +kernel
theorem wit_lookup_hits : hitPx (asking []) 0 1 (aSeq.hashes (asking []) 0x200 1) = [63] := by
  rw [wit_hashes (by decide +kernel) (by decide +kernel)]
  simp only [hitPx, wit_cached (s := asking []) (by decide +kernel)]
  decide +kernel
theorem wit_lookup_long : kvRest (asking [(0x100038, 0)]) 6 (aRec 6 0x200 0x1100000010) false ∧ aSeq.maxb (asking [(0x100038, 0)]) = 0 := by decide +kernel
abbrev inserting : State := kvState (aRec 7 0x200 1) [lens 16 0, entries 3 0, refs 0 0 0 0xFFFE]
theorem wit_insert : kvRest inserting 7 (aRec 7 0x200 1) false ∧ aSeq.clen inserting = 16 ∧ aSeq.rmap inserting 0 = 0 ∧ aSeq.entry inserting 0 0 < 4 ∧
    pageRef inserting 0 3 < 0xFFFF ∧ inPlace (0x200, 64) (0, 4096) ∧ (getPx inserting 0 0).valid = false := by decide +kernel
theorem wit_insert_new (h : List Byte) : findPx inserting 0 h = none := by
  unfold findPx getPx
  rw [show (getPkg inserting 0).px = [] from by decide +kernel]
  rfl
theorem wit_insert_again : kvRest (cached inserting) 7 (aRec 7 0x200 1) false ∧
    findPx (cached inserting) 0 ((aSeq.hashes (cached inserting) 0x200 1).getD 0 []) = some 63 := by
  refine ⟨by decide +kernel, ?_⟩
  have h := wit_hashes (s := cached inserting) (by decide +kernel) (by decide +kernel)
  simp only [h, List.getD_cons_zero]
  exact wit_cached (by decide +kernel)
abbrev evicting (w : Nat) : State := kvState (aRec 8 1 0) [lens 32 0, entries 3 1, refs 0 1 0 1, (0x100008, BitVec.ofNat 64 w), (0x100100, 0x3F800000)]
theorem wit_evict : kvRest (evicting 0x100000) 8 (aRec 8 1 0) false ∧ kvRest (evicting 17) 8 (aRec 8 1 0) false ∧ aSeq.slen (evicting 0x100000) = 0 ∧
    aSeq.clen (evicting 0x100000) = 32 ∧ kvDepth (evicting 0x100000) 0 < kvPages (evicting 0x100000) 0 ∧
    (bits (aSeq.dw (evicting 0x100000) 1) 16 16 ≤ 16 ∧ 32 + bits (aSeq.dw (evicting 0x100000) 1) 0 16 ≤ 32) ∧
    ¬ (bits (aSeq.dw (evicting 0x100000) 1) 16 16 ≤ 0) ∧ 32 < 16 * (0 + 1) + bits (aSeq.dw (evicting 17) 1) 0 16 ∧
    aSeq.entry (evicting 0x100000) 0 1 = 1 ∧ 0 < pageRef (evicting 0x100000) 0 1 := by decide +kernel
abbrev staging (e : Nat) : State := kvState (aRec 9 0x100000000 0x7F1FFFFFFF) [entries 0 e]
theorem wit_stage : kvRest (staging 3) 9 (aRec 9 0x100000000 0x7F1FFFFFFF) false ∧ kvRest (staging 4) 9 (aRec 9 0x100000000 0x7F1FFFFFFF) false ∧
    bits ((aRec 9 0x100000000 0x7F1FFFFFFF).w 2) 56 8 = 0 ∧ aSeq.entry (staging 3) 0 1 = 3 ∧ aSeq.entry (staging 4) 0 1 = 4 ∧ unitHeld (staging 3) 0 2 = false ∧
    dwQueued (staging 3) 0 < 64 := by decide +kernel
abbrev waitingKv (op : Nat) (l : List Nat) (ws : List (Nat × W64)) : State :=
  modPkg (kvState (aRec op 0 0) ws) 0 (fun p => { p with kvWait := some (op - 9, 0, 0), kvSaved := l })
theorem wit_stage_end : (getPkg (modPkg (staging 3) 0 (fun p => { p with kvWait := some (0, 0, 7) })) 0).kvWait = some (0, 0, 7) := by decide +kernel
theorem wit_flash_ring : flashAt (kvState (aRec 10 0 0) []) 0 = some (cohPa 0 0x1000000) := by decide +kernel
theorem wit_pageout : kvRest (kvState (aRec 10 0 0) []) 10 (aRec 10 0 0) false ∧ aSeq.slen (kvState (aRec 10 0 0) []) = 0 ∧
    kvRest (kvState (aRec 10 0 0) [lens 0 1]) 10 (aRec 10 0 0) false ∧ aSeq.slen (kvState (aRec 10 0 0) [lens 0 1]) ≠ 0 := by decide +kernel
abbrev returning (d : Nat) : State := kvState (aRec 11 0 0) [pagedOut, entries 0xFFFFFFFF 0xFFFFFFFE, depth d, stack 3 0]
theorem wit_pagein : kvRest (kvState (aRec 11 0 0) [pagedOut, entries 0xFFFFFFFF 0xFFFFFFFF]) 11 (aRec 11 0 0) true ∧ kvRest (returning 1) 11 (aRec 11 0 0) true ∧
    (List.range 2).filter (fun i => aSeq.rd (returning 1) (aSeq.ptr (returning 1) 2 + 4 * i) 4 == flashPage) = [1] ∧ kvDepth (returning 1) 0 = 1 ∧
    rdN (returning 1) (kvStackAt (returning 1) 0 0) 4 = 3 ∧ kvRest (returning 0) 11 (aRec 11 0 0) true ∧ kvDepth (returning 0) 0 = 0 := by decide +kernel
theorem wit_flash_done : (getPkg (waitingKv 10 [] [entries 3 0]) 0).kvWait = some (1, 0, 0) ∧
    kvRest (modPkg (waitingKv 10 [] [entries 3 0]) 0 (fun p => { p with kvWait := none })) 10 (aRec 10 0 0) false ∧
    kvDepth (waitingKv 10 [] [entries 3 0]) 0 + aSeq.listLen (waitingKv 10 [] [entries 3 0]) ≤ 4 ∧ 0 ≠ bits (1 : W64) 0 32 ∧ bits (0x100000000 : W64) 32 8 ≠ 0 := by decide +kernel
theorem wit_flash_back : kvRest (modPkg (waitingKv 11 [1] [pagedOut, entries 0 3, refs 1 0 0 1]) 0 (fun p => { p with kvWait := none })) 11 (aRec 11 0 0) true ∧
    (getPkg (waitingKv 11 [1] [pagedOut, entries 0 3, refs 1 0 0 1]) 0).kvSaved = [1] ∧
    kvDepth (waitingKv 11 [1] [pagedOut, entries 0 3, refs 1 0 0 1]) 0 < 4 ∧ pageRef (waitingKv 11 [1] [pagedOut, entries 0 3, refs 1 0 0 1]) 0 3 = 1 := by decide +kernel


/-- Two pages of a sequence at one time. -/
abbrev stagingTwo : State := kvState (aRec 9 0 0x100000000000080) [entries 3 2]
theorem wit_stage_two : kvRest stagingTwo 9 (aRec 9 0 0x100000000000080) false ∧ bits ((aRec 9 0 0x100000000000080).w 2) 56 8 = 1 ∧
    aSeq.entry stagingTwo 0 0 = 3 ∧ aSeq.entry stagingTwo 0 1 = 2 ∧ unitHeld stagingTwo 0 2 = false ∧ dwQueued stagingTwo 0 + 2 ≤ 64 ∧
    bits ((aRec 9 0 0x100000000000080).w 2) 0 29 + 1 * kvPageBytes stagingTwo 0 < 2 ^ 29 := by decide +kernel
theorem wit_stage_outside : kvRest (kvState (aRec 9 1 0x100000000000080) [entries 3 2]) 9 (aRec 9 1 0x100000000000080) false ∧
    aSeq.groups (kvState (aRec 9 1 0x100000000000080) [entries 3 2]) ≤ bits ((aRec 9 1 0x100000000000080).w 1) 0 8 := by decide +kernel
theorem wit_kvq_dropped : unitHeld (kvQueue []) 0 5 = false ∧ (2048 ≤ 2048 ∨ regionOf (kvQueue []) 2048 = 0 ∨ (0xFC8 : W64).toNat % 64 ≠ 0) := by decide +kernel
theorem wit_fldone_other : (getPkg (waitingKv 11 [] [entries 3 0]) 0).kvWait = some (2, 0, 0) ∧ (0 : Nat) ≠ bits (5 : W64) 0 32 ∧ (2 : Nat) ≠ 0 := by decide +kernel


/-! Keys, management, starts, power. -/
/-- A key load for slot 63 from the last 64 bytes of package 3's window. -/
abbrev keyLoad : W64 := BitVec.ofNat 64 (ccWin 3 0xFFFFFFC0 + 63)
abbrev keyed (f : Pkg → Pkg) (a : List Nat) : State := modPkg { State.reset with args := a } 3 f
abbrev gcmDw : DwEnt :=
  { op := 7, part := 0, sys := true, pa := 0, d := [0, 0, 0, 0xFE00000000000000, 0, 0, 0, 0], record := false, kv := false, running := some 0, code := 0,
    pages := [], key := none, cut := false, landed := 0, counted := 0, buf := [], bad := false }
theorem wit_key_free : bits keyLoad 0 6 = 63 ∧ keyInUse (keyed id [3, keyLoad.toNat]) 3 63 = false ∧ (getPkg (keyed id [3, keyLoad.toNat]) 3).keyBusy = none ∧
    keyInUse (keyed (fun p => { p with dwq := [gcmDw] }) [3, keyLoad.toNat]) 3 63 = true ∧
    (getPkg (keyed (fun p => { p with keyBusy := some 0 }) []) 3).keyBusy.isSome = true := by decide
theorem wit_key_blob : bits keyLoad 6 40 * 64 = ccWin 3 0xFFFFFFC0 ∧ ccWin 3 0x1000000 ≤ ccWin 3 0xFFFFFFC0 ∧ ccWin 3 0xFFFFFFC0 < ccWin 3 0 + 2 ^ 32 ∧
    (∀ i < 8, readable (keyed (fun p => { p with keyBusy := some keyLoad }) [3]) (ccWin 3 0xFFFFFFC0 + 8 * i) = true) ∧
    (getPkg (keyed (fun p => { p with keyBusy := some keyLoad }) [3]) 3).keyHeld = [] ∧ bits (BitVec.ofNat 64 (ccWin 3 0xFFFFC0) : W64) 6 40 * 64 < ccWin 3 0x1000000 := by decide
theorem wit_management : unitHeld (keyed (fun p => { p with mbout := List.replicate 224 0 }) [3]) 3 7 = false ∧
    (getPkg (keyed (fun p => { p with mbout := List.replicate 224 0 }) [3]) 3).mbout.length +
      (getPkg (keyed (fun p => { p with mbout := List.replicate 224 0 }) [3]) 3).keptLogs.length + 32 ≤ 256 := by decide +kernel
theorem wit_attest : ccWin 3 0x1000000 ≤ ccWin 3 0xFFFFFDFE ∧ ccWin 3 0xFFFFFDFE - ccWin 3 0 + 514 ≤ 2 ^ 32 ∧
    (getPkg (keyed (fun p => { p with measure := List.replicate 64 1 }) [3, ccWin 3 0xFFFFFDFE]) 3).measure.length = 64 := by decide
theorem wit_starts : 1 ≤ 7 ∧ (getPkg (keyed (fun p => { p with st := .dormant }) [3, 7, 9]) 3).st = .dormant ∧ (getPkg (keyed id [3, 0, 0]) 3).st ≠ .dormant ∧
    (getPkg (keyed id [3, 0, 0]) 3).residency = [] ∧
    (getPkg (keyed (fun p => { p with st := .dormant, dormantHeld := [(0, 1, true)] }) [3, 0, 0]) 3).dormantHeld = [(0, 1, true)] := by decide
theorem wit_part_loss : pkgOfCore 2047 = 3 ∧ (keyed id [2047, 7, 7, 1]).args = [2047, 7, 7, 1] := by decide
theorem wit_sleep : (∀ p ∈ ({ State.reset with parts := [aPart 6] } : State).parts, p.state = 6) ∧
    (∀ n < 4, (getPkg (keyed id [3, 1]) n).dwq = [] ∧ (getPkg (keyed id [3, 1]) n).kvq = [] ∧ (getPkg (keyed id [3, 1]) n).kvWait = none) ∧
    ¬ (∀ p ∈ (placed 3).parts, p.state = 6) ∧ (getPkg (keyed (fun p => { p with dwq := [gcmDw] }) [3, 1]) 3).dwq ≠ [] ∧
    (getPkg (keyed (fun p => { p with kvWait := some (1, 0, 0) }) [3, 1]) 3).kvWait ≠ none ∧ (2 : Nat) ≠ 1 := by decide
theorem wit_wake_frame : ∃ mac : W64, mac ≠ Config.wakeMac := ⟨Config.wakeMac + 1, by simp⟩
theorem wit_dormant_access : 0x3000 < ccWin 0 0 ∧ ccWin 4 0 ≤ ccWin 4 0 ∧ 0x1000000 ≤ ccWin 3 0x1000000 % 0x100000000 ∧
    ∀ p ∈ (keyed (fun p => { p with st := .dormant }) [3, 0x3000, 0, 1]).agenda, p.2.1 ≠ .wakeFromDormant := by decide

/-! The fabric. -/
abbrev aFlit (vc n : Nat) : Flit := { typ := 1, vc := vc, src := 0, dst := 1, su := false, du := false, len := 0, opc := 0, lseq := n, since := 0, dstPkg := peerPkg 3 0, dstHome := 0, deliver := some (.flitSend, [3, 0]) }
abbrev linked (l : Link) (a : List Nat) : State := keyed (fun p => { p with links := vset p.links 0 l }) a
abbrev upLink : Link := { Link.reset with up := true }
abbrev flitsOn (vs : List Nat) (n : Nat) : Link :=
  vs.foldl (fun l v => { l with vcq := vset l.vcq v [aFlit v 0] }) { upLink with sinceVc0 := n, credits := Vector.replicate 3 1 }
abbrev has (l : Link) (v : Nat) : Prop := vget [] l.vcq v ≠ [] ∧ 0 < vget 0 l.credits v
theorem wit_flit_turn : has (flitsOn [0, 1, 2] 0) 2 ∧ (has (flitsOn [0, 1] 0) 1 ∧ ¬ has (flitsOn [0, 1] 0) 2 ∧ ¬ (1 ≤ (flitsOn [0, 1] 0).sinceVc0)) ∧
    (has (flitsOn [0, 1] 1) 0 ∧ 1 ≤ (flitsOn [0, 1] 1).sinceVc0) ∧ (has (flitsOn [0] 0) 0 ∧ ¬ has (flitsOn [0] 0) 1) ∧ (∀ v < 3, ¬ has upLink v) := by decide
theorem wit_flit_link : getLink (linked upLink [3, 0]) 3 0 = upLink ∧ upLink.up = true ∧ Link.reset.up = false := ⟨rfl, rfl, rfl⟩
abbrev onWire (n r : Nat) : State := linked { upLink with wire := [aFlit 2 n], resends := r } [peerPkg 3 0, peerElem 0, 1]
theorem wit_flit_receive : (getLink (onWire 0 0) 3 0).wire = [aFlit 2 0] ∧ (getLink (onWire 0 0) (peerPkg 3 0) (peerElem 0)).expect = 0 ∧
    (aFlit 2 0).dstPkg = peerPkg 3 0 ∧ (aFlit 2 0).deliver = some (.flitSend, [3, 0]) ∧
    (aFlit 2 1).lseq ≠ (getLink (onWire 1 0) (peerPkg 3 0) (peerElem 0)).expect ∧ (getLink (onWire 0 14) 3 0).resends + 1 < 16 ∧
    ¬ ((getLink (onWire 0 15) 3 0).resends + 1 < 16) := by decide
theorem wit_flit_acknowledged : (getLink (linked { upLink with held := [aFlit 0 65534, aFlit 2 65535, aFlit 1 0] } [3, 0, 65535]) 3 0).held =
      [aFlit 0 65534] ++ aFlit 2 65535 :: [aFlit 1 0] ∧ (∀ x ∈ [aFlit 0 65534], x.lseq ≠ 65535) ∧ ∀ f ∈ [aFlit 0 65534], f.lseq ≠ 5 := by decide
theorem wit_fabric_fault : (getLink (linked upLink [3, 0]) 3 0).up = true ∧ (getLink (linked upLink [3, 0]) 3 0).rerouted = false ∧
    (aPart 3).parent = 0 ∧ (aPart 3).state ≠ 8 ∧ regionCols (aPart 3) = [0] ∧ pkgOfCol 0 = 0 ∧ findPart (placed 3) 0x1000 = some (aPart 3) := by decide

/-! A turn. -/
/-- A task of core 2047's slot 3 whose word stands in its fetch buffer, and a handler whose word is fetched. -/
abbrev turning (w : W32) : State := modSlot State.reset 2047 3 (fun t => { t with st := .run, pc := 0x40, present := 0xFF, fbuf := [(0x40, w)] })
theorem wit_turn : (∀ p ∈ (turning 0).agenda, (turning 0).now < p.1) ∧ pickSlot (turning 0x408c8500) = some (2047, 3) ∧
    (me (beginTurn (turning 0x408c8500) 2047 3)).fbuf.find? (fun p => p.1 == (me (beginTurn (turning 0x408c8500) 2047 3)).pc.toNat) = some (0x40, 0x408c8500) ∧
    (decode 0).toOption = none ∧ (decode 0x408c8500).toOption = some (.add 2 3 4 5) := by decide
theorem wit_turn_ready : (me (beginTurn (turning 0x408c8500) 2047 3)).pend = [] ∧ (me (beginTurn (turning 0x408c8500) 2047 3)).flagDue ≤ (turning 0).now ∧
    (me (beginTurn (turning 0x408c8500) 2047 3)).present = 0xFF ∧ (me (beginTurn (turning 0x408c8500) 2047 3)).records = [] ∧
    (me (beginTurn (turning 0x408c8500) 2047 3)).errs = [] ∧
    regIndexOf (me (modMe (beginTurn (turning 0x408c8500) 2047 3) (fun u => { u with fbuf := refill (beginTurn (turning 0x408c8500) 2047 3) 2047 u 0x408c8500 })))
      (.add 2 3 4 5) = none := by decide
abbrev fetching : State :=
  setReg (modSlot State.reset 0 4 (fun t => { t with st := .trap, pc := 0x44, hcount := 254 })) (dieWin 0 uTrans 24) 0x3E
theorem wit_turn_fetch : pickSlot fetching = some (0, 4) ∧ (getSlot (beginTurn fetching 0 4) 0 4).hcount < 256 ∧
    (me (beginTurn fetching 0 4)).fbuf.find? (fun p => p.1 == 0x44) = none ∧
    (match xlate (beginTurn fetching 0 4) 0 0 (partOf (beginTurn fetching 0 4) (me (beginTurn fetching 0 4)).part) 0x44 with
      | (.ok pa perms, _) => decide (pa = 0x44 ∧ perms = 15) | _ => false) = true ∧
    permits 15 4 (lvlOf (me (beginTurn fetching 0 4))) = true ∧ wordErr (beginTurn fetching 0 4) 0x44 = .good ∧
    handlerForbids (.add 2 3 4 5) = false := by decide

theorem wit_board : (keyed id [3, 1, 1, 0, 1]).args = 3 :: 1 :: [true, false, true].map (fun b => if b then 1 else 0) := by decide
theorem wit_part_lost : (2047, 7, 7, 1) ∈ (getPkg (keyed (fun p => { p with lost := [(2047, 7, 7, 1)] }) [2047, 7, 7, 1]) 3).lost ∧
    (2047, 7, 7, 1) ∉ (getPkg (keyed id [2047, 7, 7, 1]) 3).lost := by decide
theorem wit_flit_reached : ∃ f ∈ (vget [] (flitsOn [0, 1, 2] 0).vcq 2).head?, f.since ≤ (linked (flitsOn [0, 1, 2] 0) [3, 0]).now := ⟨aFlit 2 0, rfl, by decide⟩
/-- A flit for another package than the one that it reaches, the last of its message. -/
abbrev farFlit : Flit := { (aFlit 0 0) with dstPkg := 3 }
theorem wit_flit_passes : farFlit.dstPkg ≠ peerPkg 3 0 ∧ ({ farFlit with len := 1 } : Flit).len ≠ 0 ∧
    vget [] (getLink (linked { upLink with wire := [farFlit] } [peerPkg 3 0, peerElem 0, 1]) (peerPkg 3 0) (peerElem 0)).partials 0 ++ [farFlit] = farFlit :: [] ∧
    (getLink (linked { upLink with wire := [farFlit] } [peerPkg 3 0, peerElem 0, 1]) (peerPkg 3 0) ((if peerElem 0 < 2 then 2 else 0) + (farFlit.src + farFlit.dst) % 2)).rerouting = false := by decide
theorem wit_flit_way : linkOn (modPkg (linked { upLink with wire := [farFlit] } [peerPkg 3 0, peerElem 0, 1]) (peerPkg 3 0)
    (fun p => { p with links := vset (vset (vset (vset p.links 0 upLink) 1 upLink) 2 upLink) 3 upLink })) (peerPkg 3 0)
    ((if peerElem 0 < 2 then 2 else 0) + (farFlit.src + farFlit.dst) % 2) = true := by decide
theorem wit_turn_quiet : (getCore (turning 0x408c8500) 2047).csrPend = [] ∧ (∀ x ∈ (getCore (turning 0x408c8500) 2047).chim, x.slot ≠ 3) ∧
    mrdIndexOf (turning 0x408c8500) (.add 2 3 4 5) = none ∧ endsCycle (.drainEnd) = true := by decide
theorem wit_turn_forbidden : handlerForbids (.yield 0) = true ∧ handlerForbids (.add 2 3 4 5) = false := by decide


/-! ### Worked examples of the manual, one step each -/

/-- What a word's execution leaves, and a register later, as a Bool. -/
abbrev ranWord (w : W32) (s : State) (f : State → Bool) : Bool :=
  match decode w with
  | .ok i => match exec i s with
    | .next t => f t
    | _ => false
  | .error _ => false
/-- A task with STATUS 0x8 at 0x10040 of a partition with TVEC 0x8000 (the example after R86). -/
abbrev calling : State :=
  modMe { (placed 3) with parts := [{ (aPart 3) with tvec := 0x8000 }] } (fun t => { t with st := .run, part := 0x1000, status := 8, pc := 0x10040 })
theorem test_svc : ranWord 0x0F000007 calling (fun t => decide ((me t).pc = 0x8400 ∧ (me t).trapcause = 0x10 ∧ (me t).trappc = 0x10044 ∧
    (me t).trapval = 7 ∧ (me t).status = 0xD)) = true := by decide
theorem test_brk : ranWord 0x0F040005 calling (fun t => decide ((me t).pc = 0x8440 ∧ (me t).trapcause = 0x11 ∧ (me t).trappc = 0x10040)) = true := by decide
theorem test_tret : ranWord 0x0E800001 (modMe calling (fun t => { t with st := .trap, pc := 0x8404, status := 0xD, trapcause := 0x10, trappc := 0x10044, trapval := 7 }))
    (fun t => decide ((me t).pc = 0x10044 ∧ (me t).status = 8 ∧ (me t).trapcause = 0x10 ∧ (me t).st = .run)) = true := by decide
/-- `csrs x0, status, x6` with 0x8 and with 0x20 at task level (the example after R79). -/
theorem test_csrs : ranWord 0x0E00D000 (mk (fun t => setX 6 8 { t with st := .run })) (fun t => decide ((slotAt t 2).status = 8)) = true ∧
    ranWord 0x0E00D000 (mk (fun t => setX 6 0x20 { t with st := .run })) (fun t => decide ((me t).st = .trap)) = true := by decide
/-- The block of eight of Table 7-5, each instruction by its own word. -/
abbrev narrowing (f : Slot → Slot) : State :=
  mk (fun t => f { t with st := .run, k := vset t.k 0 0xFFFFFFFF, v := vset t.v 1 0x0000000040C00000BF00000040000000412000003FA00000C04000003F000000 })
abbrev header : W256 := 0x41200000000000800000000014000880
abbrev scaled : W256 := 0x0000000040400000BE8000003F80000040A000003F200000BFC000003E800000
theorem test_vbhdr : ranWord 0x15102A0C (narrowing id) (fun t => decide (((slotAt t 9).v.toList.getD 4 0).setWidth 128 = header.setWidth 128)) = true := by decide
theorem test_vbscale : ranWord 0x55088A08 (narrowing (fun t => { t with v := vset (vset t.v 2 (t.v.toList.getD 1 0)) 4 header }))
    (fun t => decide ((slotAt t 9).v.toList.getD 2 0 = scaled)) = true := by decide
theorem test_vpack : ranWord 0x550C4A00 (narrowing (fun t => { t with v := vset t.v 2 scaled }))
    (fun t => decide ((slotAt t 9).v.toList.getD 3 0 = 0x058261B0 ∧ (slotAt t 9).flags = 0x18)) = true := by decide
theorem test_vunpack : ranWord 0x55146A04 (narrowing (fun t => { t with v := vset t.v 3 0x058261B0 }))
    (fun t => decide ((slotAt t 9).v.toList.getD 5 0 = 0x0000000040400000800000003F800000408000003F000000BFC0000000000000)) = true := by decide
theorem test_vbscale_back : ranWord 0x15148A09
    (narrowing (fun t => { t with v := vset (vset t.v 5 0x0000000040400000800000003F800000408000003F000000BFC0000000000000) 4 header }))
    (fun t => decide ((slotAt t 9).v.toList.getD 5 0 = 0x0000000040C000008000000040000000410000003F800000C040000000000000)) = true := by decide
/-- Table 12-4: a check byte and what reads of its word find. -/
abbrev sliced (d : W64) (sy : Nat) : State :=
  { (wr64 State.reset (slicePa 2 0x40) d) with syn := [(slicePa 2 0x40 / 8, BitVec.ofNat 8 sy)] }
theorem test_check_byte : checkByte 2 0x40 3 = 0xDE := by decide
theorem test_attic_errors : wordErr State.reset (slicePa 2 0x40) = .good ∧ dwordAt (sliced 1 0x0B) (slicePa 2 0x40) = 3 ∧
    wordErr (sliced 1 0x0B) (slicePa 2 0x40) = .corrected ∧ wordErr (sliced 0 0x0C) (slicePa 2 0x40) = .attic 0 ∧
    wordErr (sliced 3 0xB3) (slicePa 2 0x40) = .attic 2 ∧ wordErr (sliced 3 0xFF) (slicePa 2 0x40) = .attic 1 := by decide
/-- The walk of Table 15-7. -/
theorem test_walk : walkFrom (wr64 (wr64 (wr64 State.reset 0x100008 0x120001) 0x120010 0x130001) 0x130018 0x20060002F) 0x8080612345 4 3 0x100000 =
    .leaf 0x200600000 0x200000 11 ∧ placeOf 0x200612345 = .gddr 0 35 := by decide
/-- The seed of Table 1-10, bound to slot 2 of the core at POS 6 of column 0x35; its adapter slot 3 holds an adapter. -/
abbrev table110 : State :=
  let im : Image := { anImage with entries := [{ pc := 0x40 }], seedEntry := some 0, stages := [{ aStage with tasks := List.replicate 6 (some 0) }], stack := 4096 }
  let s : State := { State.reset with
    args := [1, 0], images := [(0x2000, im)], parts := [{ (aPart 3) with launchPkg := 1, pkgs := 2, slots := 8, originYX := some (2, 5) }] }
  let s := setReg (setReg (setReg s (dieWin 1 uTrans 0) 0x1040000) (dieWin 1 uTrans 24) 0x103E) (ccWin 1 0x130) 0x1040080
  let s := wr64 s 0x98 1
  let s := modCore s 0x356 (fun c => { c with grant := some { rcb := 0x1000, stage := 0, lent := none, handTo := none } })
  let s := modSlot (modSlot s 0x356 0 (fun t => { t with st := .run })) 0x356 1 (fun t => { t with st := .run })
  let s := modSlot s 0x356 2 (fun t => { t with incarn := 0x41 })
  modPort s 1 0 (fun p => { p with part := some 0x1000, queue := [0x12A], seeds := [{ seq := 0x12A, token := 0x00012A3000041000, state := 1, attempt := 0, ready := 0, done := none }] })
theorem test_binding : (match exec .bindSeedTask table110 with
    | .next t => let u := getSlot t 0x356 2
      decide (u.st = .run ∧ u.taskid = 0x00012A0003000002 ∧ u.incarn = 0x42 ∧ u.x.toList.take 5 = [0, 0, 0x36000, 0x1040000, 0x00012A3000041000] ∧
        u.k.toList.head? = some 0xFFFFFFFF ∧ u.status = 0)
    | _ => false) = true := by decide
/-- The draws of the worked shard of chapter 16: u = 0.625 draws 102 with K = 3, with n = 4 and with all six. -/
abbrev shard : Sinter :=
  { Sinter.clear with
    heap := [(0x40A00000, 101), (0x40A00000, 102), (0x40800000, 104), (0x40400000, 100), (0x3F800000, 103), (0, 105)], m := 0x40A00000, s := 0x40360000 }
theorem test_draws : heapDraw shard 0x3F200000 3 = 102 ∧ heapDraw shard 0x3F200000 4 = 102 ∧ heapDraw shard 0x3F200000 6 = 102 := by decide +kernel

end Sys2Proof.Tests
end

section
/-! SUPPORT. The scalar values of chapter 3: what the model's bit fields, counts, products and quotients are as bit
vectors. -/
namespace Sys2Proof.Scalar
open Sys2Proof Sys2Proof.Machine Sys2Proof.Safety

/-! ### Bit fields -/

theorem getLsbD_ofNat_bits (v : W64) (lo len k : Nat) (h : lo + len ≤ 64) :
    (BitVec.ofNat 64 (bits v lo len)).getLsbD k = (decide (k < len) && v.getLsbD (lo + k)) := by
  rw [BitVec.getLsbD_ofNat, bits, Nat.testBit_mod_two_pow, Nat.testBit_div_two_pow, BitVec.testBit_toNat, Nat.add_comm k lo]
  by_cases hk : k < len
  · simp [hk, show k < 64 by omega]
  · simp [hk]

/-- Replacing a field of a number leaves what stands below and above it. -/
theorem sub_field_add (n lo len x : Nat) :
    n - n / 2 ^ lo % 2 ^ len * 2 ^ lo + x * 2 ^ lo = 2 ^ lo * (2 ^ len * (n / 2 ^ lo / 2 ^ len) + x) + n % 2 ^ lo := by
  have hlow := Nat.div_add_mod n (2 ^ lo)
  have hfield := Nat.div_add_mod (n / 2 ^ lo) (2 ^ len)
  generalize n / 2 ^ lo % 2 ^ len = f at *
  generalize n / 2 ^ lo / 2 ^ len = g at *
  have hn : n = 2 ^ lo * (2 ^ len * g) + f * 2 ^ lo + n % 2 ^ lo := by
    rw [Nat.mul_comm f, ← Nat.mul_add, hfield, hlow]
  rw [Nat.mul_add, Nat.mul_comm (2 ^ lo) x]
  omega

/-- The bits of a dword with a field replaced (R67). -/
theorem getLsbD_setBits (v : W64) (lo len x k : Nat) (h : lo + len ≤ 64) :
    (setBits v lo len x).getLsbD k = if lo ≤ k ∧ k < lo + len then x.testBit (k - lo) else v.getLsbD k := by
  rw [setBits, sub_field_add, BitVec.getLsbD_ofNat, Nat.testBit_two_pow_mul_add _ (Nat.mod_lt _ (Nat.two_pow_pos lo)),
    Nat.testBit_two_pow_mul_add _ (Nat.mod_lt _ (Nat.two_pow_pos len)), Nat.testBit_mod_two_pow, Nat.testBit_mod_two_pow,
    Nat.testBit_div_two_pow, Nat.testBit_div_two_pow, BitVec.testBit_toNat, BitVec.testBit_toNat]
  by_cases hlow : k < lo
  · simp [hlow, show ¬ lo ≤ k by omega, show k < 64 by omega]
  by_cases hmid : k < lo + len
  · simp [hlow, hmid, show lo ≤ k by omega, show k - lo < len by omega, show k < 64 by omega]
  · simp only [hlow, hmid, show ¬ k - lo < len by omega, if_false, and_false, show k - lo - len + len + lo = k by omega]
    by_cases hk : k < 64
    · simp [hk]
    · simp [hk, BitVec.getLsbD_of_ge v k (by omega)]

/-- One bit of a dword replaced. -/
theorem getLsbD_setBits_one (v : W64) (i x k : Nat) (h : i < 64) :
    (setBits v i 1 x).getLsbD k = if k = i then x.testBit 0 else v.getLsbD k := by
  rw [getLsbD_setBits v i 1 x k (by omega)]
  by_cases hk : k = i
  · subst hk; simp
  · rw [if_neg hk, if_neg (by omega)]

theorem bits_one (v : W64) (i : Nat) : bits v i 1 = (v.getLsbD i).toNat := by
  rw [bits, pow_one, ← BitVec.testBit_toNat, Nat.toNat_testBit]

theorem bits_shift_amount (v : W64) : bits v 0 6 = v.toNat % 64 := by
  simp [bits]

/-! ### Comparisons -/

theorem sgn_lt_iff (x y : W64) : sgn x < sgn y ↔ x.slt y = true := BitVec.slt_iff_toInt_lt.symm
theorem sgn_le_iff (x y : W64) : sgn x ≤ sgn y ↔ x.sle y = true := BitVec.sle_iff_toInt_le.symm
theorem toNat_lt_iff (x y : W64) : x.toNat < y.toNat ↔ x.ult y = true := BitVec.ult_iff_toNat_lt.symm
theorem toNat_le_iff (x y : W64) : x.toNat ≤ y.toNat ↔ x.ule y = true := BitVec.ule_iff_toNat_le.symm

theorem sgn_injective {x y : W64} (h : sgn x = sgn y) : x = y := BitVec.eq_of_toInt_eq h

/-- Choosing by `q < p` is choosing by `p ≤ q`, the other way round. -/
theorem ite_lt_eq_ite_le {α β : Type} [LinearOrder α] (p q : α) (x y : β) :
    (if q < p then y else x) = if p ≤ q then x else y := by
  by_cases h : p ≤ q
  · rw [if_pos h, if_neg (not_lt.2 h)]
  · rw [if_neg h, if_pos (not_le.1 h)]

/-- Of two values that agree where they compare equal, either order of the comparison chooses the greater. -/
theorem ite_lt_eq_ite_le_of_eq {α β : Type} [LinearOrder α] {p q : α} {x y : β} (heq : p = q → x = y) :
    (if p < q then y else x) = if p ≤ q then y else x := by
  rcases lt_trichotomy p q with h | h | h
  · rw [if_pos h, if_pos h.le]
  · rw [if_neg h.not_lt, if_pos h.le, heq h]
  · rw [if_neg h.not_gt, if_neg (not_le.2 h)]

/-! ### Counts of bits (R64) -/

theorem leadZeros_le (n v : Nat) : leadZeros n v ≤ n := by
  induction n with
  | zero => exact Nat.le_refl 0
  | succ n ih => rw [leadZeros]; split <;> omega

/-- Above its leading zeros a number has no bit. -/
theorem lt_of_leadZeros (n v : Nat) (h : v < 2 ^ n) : v < 2 ^ (n - leadZeros n v) := by
  induction n with
  | zero => exact h
  | succ n ih =>
    rw [leadZeros]
    split
    · exact h
    · rename_i hbit
      rw [Nat.add_sub_add_right]
      refine ih (Nat.lt_of_not_le fun hge => hbit ?_)
      exact Nat.testBit_of_two_pow_le_and_two_pow_add_one_gt hge h

/-- Below its leading zeros a number has its highest bit. -/
theorem le_of_leadZeros (n v : Nat) (h : leadZeros n v < n) : 2 ^ (n - 1 - leadZeros n v) ≤ v := by
  induction n with
  | zero => exact absurd h (Nat.not_lt_zero _)
  | succ n ih =>
    rw [leadZeros] at h ⊢
    split at h
    · rename_i hbit
      rw [if_pos hbit]
      exact Nat.ge_two_pow_of_testBit hbit
    · rename_i hbit
      rw [if_neg hbit, show n + 1 - 1 - (leadZeros n v + 1) = n - 1 - leadZeros n v by omega]
      exact ih (by omega)

theorem trailZeros_le (n v : Nat) : trailZeros n v ≤ n := by
  induction n generalizing v with
  | zero => exact Nat.le_refl 0
  | succ n ih => rw [trailZeros]; have := ih (v / 2); split <;> omega

theorem testBit_lt_trailZeros (n v j : Nat) (h : j < trailZeros n v) : v.testBit j = false := by
  induction n generalizing v j with
  | zero => exact absurd h (Nat.not_lt_zero _)
  | succ n ih =>
    rw [trailZeros] at h
    split at h
    · exact absurd h (Nat.not_lt_zero _)
    · rename_i hodd
      cases j with
      | zero => simpa using hodd
      | succ j => rw [Nat.testBit_succ]; exact ih _ _ (by omega)

theorem testBit_trailZeros (n v : Nat) (h : trailZeros n v < n) : v.testBit (trailZeros n v) = true := by
  induction n generalizing v with
  | zero => exact absurd h (Nat.not_lt_zero _)
  | succ n ih =>
    rw [trailZeros] at h ⊢
    split at h
    · rename_i hodd
      rw [if_pos hodd]
      simpa using hodd
    · rename_i hodd
      rw [if_neg hodd, Nat.testBit_succ]
      exact ih _ (by omega)

theorem countOnes_eq_countP (n v : Nat) : countOnes n v = (List.range n).countP (fun j => v.testBit j) := by
  induction n generalizing v with
  | zero => rfl
  | succ n ih =>
    rw [countOnes, ih, List.range_succ_eq_map, List.countP_cons, List.countP_map]
    have hstep : ((fun j => v.testBit j) ∘ Nat.succ) = fun j => (v / 2).testBit j := funext fun j => Nat.testBit_succ v j
    have hlow : v % 2 = if v.testBit 0 = true then 1 else 0 := by
      rcases Nat.mod_two_eq_zero_or_one v with h | h <;> simp [h]
    rw [hstep, ← hlow, Nat.add_comm]

/-! ### Extensions (R65) -/

theorem sextN_eq_signExtend (v : W64) (n : Nat) (hn : n ≤ 64) : sextN v.toNat n = (v.setWidth n).signExtend 64 := by
  apply BitVec.eq_of_toNat_eq
  rw [BitVec.toNat_signExtend, BitVec.toNat_setWidth_of_le hn, BitVec.msb_eq_decide, BitVec.toNat_setWidth, sextN]
  have hlow : v.toNat % 2 ^ n < 2 ^ n := Nat.mod_lt _ (Nat.two_pow_pos n)
  have hpow : 2 ^ n ≤ 2 ^ 64 := Nat.pow_le_pow_right (by decide) hn
  generalize v.toNat % 2 ^ n = m at *
  by_cases hneg : m < 2 ^ (n - 1)
  · rw [if_pos hneg, BitVec.toNat_ofNat, Nat.mod_eq_of_lt (by omega), if_neg (by simpa using hneg), Nat.add_zero]
  · rw [if_neg hneg, BitVec.toNat_ofNat, Nat.mod_eq_of_lt (by omega), if_pos (by simpa using hneg), Nat.add_comm]

theorem zext_eq_setWidth (v : W64) (n : Nat) : BitVec.ofNat 64 (v.toNat % 2 ^ n) = (v.setWidth n).setWidth 64 := by
  rw [← BitVec.toNat_setWidth, BitVec.ofNat_toNat]

/-- The width codes 0, 1 and 2 name 8, 16 and 32 bits. -/
theorem widthBits_eq {c : BitVec 5} (h : c.toNat < 3) : widthBits c = 8 * 2 ^ c.toNat := by
  rw [widthBits, Nat.mod_eq_of_lt (by omega)]

theorem width_le {c : BitVec 5} (h : c.toNat < 3) : 8 * 2 ^ c.toNat ≤ 64 := by
  have := Nat.pow_le_pow_right (n := 2) (by decide) (show c.toNat ≤ 2 by omega)
  omega

/-! ### Products, quotients and remainders (Table 3-1, R66) -/

theorem mulh_eq_extract (x y : W64) :
    BitVec.ofInt 64 (sgn x * sgn y / 2 ^ 64) = (x.signExtend 128 * y.signExtend 128).extractLsb' 64 64 := by
  have hprod : x.signExtend 128 * y.signExtend 128 = BitVec.ofInt 128 (sgn x * sgn y) := by
    rw [BitVec.ofInt_mul]; rfl
  rw [hprod]
  apply BitVec.eq_of_toNat_eq
  rw [BitVec.extractLsb'_toNat, BitVec.toNat_ofInt, BitVec.toNat_ofInt, Nat.shiftRight_eq_div_pow]
  generalize sgn x * sgn y = m
  omega

theorem mulhw_eq_extract (x y : W64) :
    BitVec.ofNat 64 (x.toNat * y.toNat / 2 ^ 64) = (x.setWidth 128 * y.setWidth 128).extractLsb' 64 64 := by
  apply BitVec.eq_of_toNat_eq
  rw [BitVec.extractLsb'_toNat, BitVec.toNat_ofNat, BitVec.toNat_mul, Nat.shiftRight_eq_div_pow,
    BitVec.toNat_setWidth_of_le (by decide), BitVec.toNat_setWidth_of_le (by decide)]
  generalize x.toNat * y.toNat = m
  omega

theorem sgn_nonneg_iff (x : W64) : 0 ≤ sgn x ↔ x.msb = false := by
  rw [BitVec.msb_eq_toInt, sgn]; simp

theorem divSigned_eq (x y : W64) : divSigned x y =
    if y = 0 then (if x.msb then BitVec.intMin 64 else BitVec.intMax 64)
    else if x = BitVec.intMin 64 ∧ y = -1 then BitVec.intMax 64 else x.sdiv y := by
  have hquot : BitVec.ofInt 64 ((sgn x).tdiv (sgn y)) = x.sdiv y :=
    BitVec.eq_of_toInt_eq (by rw [BitVec.toInt_ofInt, BitVec.toInt_sdiv]; rfl)
  have hlimit : (if 0 ≤ sgn x then 0x7FFFFFFFFFFFFFFF else 0x8000000000000000 : W64) =
      if x.msb then BitVec.intMin 64 else BitVec.intMax 64 := by
    cases hm : x.msb
    · exact if_pos ((sgn_nonneg_iff x).2 hm)
    · exact if_neg fun h => absurd ((sgn_nonneg_iff x).1 h) (by simp [hm])
  rw [divSigned, hquot, hlimit]
  rfl

theorem divWhole_eq (x y : W64) : divWhole x y = if y = 0 then BitVec.allOnes 64 else x / y := by
  rw [divWhole, ← BitVec.toNat_udiv, BitVec.ofNat_toNat, BitVec.setWidth_eq]
  rfl

theorem remSigned_eq (x y : W64) : remSigned x y = if y = 0 then x else x.srem y := by
  rw [remSigned, sgn, sgn, ← BitVec.toInt_srem, BitVec.ofInt_toInt]

theorem remWhole_eq (x y : W64) : remWhole x y = if y = 0 then x else x % y := by
  rw [remWhole, ← BitVec.toNat_umod, BitVec.ofNat_toNat, BitVec.setWidth_eq]

/-! ### Instructions with one scalar result -/

/-- An instruction that ends in `scalarResult` gives its value, in whichever form the statement writes it. -/
theorem givesX_scalarResult {i : Instr} {s : State} {w : BitVec 3} {d : BitVec 5} {lat : Nat} {v v' : W64}
    (he : exec i s = scalarResult s w d lat v) (hv : v = v') : GivesX i s w d lat v' :=
  givesX_of (hv ▸ he)

/-- `clz` gives the number of zero bits above the highest one bit (R64). -/
theorem givesX_clz (s : State) (w : BitVec 3) (d a : BitVec 5) :
    ∃ k ≤ 64, GivesX (.clz w d a) s w d 1 (BitVec.ofNat 64 k) ∧ (xr s a).toNat < 2 ^ (64 - k) ∧
      (k < 64 → 2 ^ (63 - k) ≤ (xr s a).toNat) :=
  ⟨leadZeros 64 (xr s a).toNat, leadZeros_le _ _, givesX_of rfl, lt_of_leadZeros 64 _ (xr s a).isLt, le_of_leadZeros 64 _⟩

/-- `ctz` gives the number of zero bits below the lowest one bit (R64). -/
theorem givesX_ctz (s : State) (w : BitVec 3) (d a : BitVec 5) :
    ∃ k ≤ 64, GivesX (.ctz w d a) s w d 1 (BitVec.ofNat 64 k) ∧ (∀ j < k, (xr s a).getLsbD j = false) ∧
      (k < 64 → (xr s a).getLsbD k = true) :=
  ⟨trailZeros 64 (xr s a).toNat, trailZeros_le _ _, givesX_of rfl,
    fun j hj => testBit_lt_trailZeros 64 _ j hj, testBit_trailZeros 64 _⟩

/-- Settles O1: each instruction ends in `scalarResult`, and its value is the one of Table 3-1 and R64 to R66. -/
theorem scalarRegisterOperations : Obligations.ScalarRegisterOperations := by
  refine ⟨fun s w d a b c sh => ?_, fun s w d a c => ?_, fun s w d a b => ?_⟩
  · refine ⟨givesX_of rfl, givesX_of rfl, givesX_of rfl, givesX_of rfl, givesX_of rfl,
      givesX_scalarResult rfl ?sll, givesX_scalarResult rfl ?srl, givesX_scalarResult rfl ?sra,
      givesX_scalarResult rfl ?slt, givesX_scalarResult rfl ?slto, givesX_scalarResult rfl ?min,
      givesX_scalarResult rfl ?max, givesX_scalarResult rfl ?minw, givesX_scalarResult rfl ?maxw, givesX_of rfl,
      givesX_scalarResult rfl (mulh_eq_extract _ _), givesX_scalarResult rfl (mulhw_eq_extract _ _), givesX_of rfl,
      givesX_scalarResult rfl ?csel⟩
    case sll | srl | sra => rw [bits_shift_amount]
    case slt => simp only [sgn_lt_iff]
    case slto => simp only [toNat_lt_iff]
    case min => simp only [ite_lt_eq_ite_le, sgn_le_iff]
    case max => rw [ite_lt_eq_ite_le_of_eq sgn_injective]; simp only [sgn_le_iff]
    case minw => simp only [ite_lt_eq_ite_le, toNat_le_iff]
    case maxw => rw [ite_lt_eq_ite_le_of_eq BitVec.eq_of_toNat_eq]; simp only [toNat_le_iff]
    case csel => rw [ite_not]
  · refine ⟨givesX_clz s w d a, givesX_ctz s w d a, givesX_scalarResult rfl ?popc,
      fun hc => givesX_scalarResult rfl ?sext, fun hc => givesX_scalarResult rfl ?zext⟩
    case popc => rw [countOnes_eq_countP]; rfl
    case sext => rw [widthBits_eq hc, sextN_eq_signExtend _ _ (width_le hc)]
    case zext => rw [widthBits_eq hc, zext_eq_setWidth]
  · exact ⟨givesX_scalarResult rfl (divSigned_eq _ _), givesX_scalarResult rfl (divWhole_eq _ _),
      givesX_scalarResult rfl (remSigned_eq _ _), givesX_scalarResult rfl (remWhole_eq _ _)⟩

/-- Settles O2: each instruction ends in `scalarResult`; the fields of `bfx` and `bfi` are read bit by bit. -/
theorem immediatesAndFields : Obligations.ImmediatesAndFields := by
  intro s w d a i j sh l p u x
  refine ⟨givesX_of rfl, givesX_of rfl, givesX_of rfl, givesX_of rfl, givesX_scalarResult rfl ?slti, givesX_of rfl,
    givesX_of rfl, givesX_of rfl, fun hfit => ⟨_, givesX_of rfl, fun k => ?bfx⟩, fun hfit => ⟨_, givesX_of rfl, fun k => ?bfi⟩,
    givesX_of rfl⟩
  case slti => simp only [sgn_lt_iff]; rfl
  case bfx => rw [getLsbD_ofNat_bits _ _ _ _ (by omega)]; simp only [Nat.lt_succ_iff]; rfl
  case bfi =>
    rw [getLsbD_setBits _ _ _ _ _ (by omega), BitVec.testBit_toNat]
    simp only [← Nat.add_assoc, Nat.lt_succ_iff]
    rfl

end Sys2Proof.Scalar
end

section
/-! SUPPORT. Counter chains and control transfers (R70 to R77). -/
namespace Sys2Proof.Scalar
open Sys2Proof Sys2Proof.Machine Sys2Proof.Safety

/-! ### Chains as they stand in a slot -/

/-- A slot with its chains replaced. -/
def withChains (ch : Vector Level 12) (u : Slot) : Slot := { u with chains := ch }

/-- One level set: that level reads as it was set, every other as before. -/
theorem chainLevel_setLevel (u : Slot) (v : Level) {c l k m : Nat} (hc : c < 4) (hl : l < 3) (hm : m < 3) :
    chainLevel (setLevel u c l v) k m = if k = c ∧ m = l then v else chainLevel u k m := by
  rw [chainLevel, setLevel, vget_vset _ _ _ _ _ (by omega)]
  by_cases h : k = c ∧ m = l
  · rw [if_pos h, if_pos (by omega)]
  · rw [if_neg h, if_neg (by omega)]; rfl

theorem activeDepth_le (u : Slot) (c : Nat) : activeDepth u c ≤ 3 := by
  rw [activeDepth]; split_ifs <;> omega

/-- Replacing the chains of the issuing slot is seen in every cycle, and nothing else is. -/
theorem slotAt_withChains (s : State) (ch : Vector Level 12) (n : Nat) :
    slotAt (modMe s (withChains ch)) n = withChains ch (slotAt s n) := by
  rw [slotAt_rest s (withChains ch) rfl rfl, slotAt_self s n]
  rfl

theorem withChains_slotAt_self (s : State) (n : Nat) : withChains (me s).chains (slotAt s n) = slotAt s n := by
  rw [slotAt_self s n]
  rfl

/-! ### Going on, or elsewhere, after the chains have been replaced -/

theorem onward_retire_withChains (s : State) (ch : Vector Level 12) (w : BitVec 3) :
    Onward s (retire (modMe s (withChains ch)) w) w := by
  have h := onward_retire (modMe s (withChains ch)) w
  rw [Onward, me_modMe] at h
  exact h

theorem goes_goTo_withChains (s : State) (ch : Vector Level 12) (w : BitVec 3) (dest : W64) :
    Goes s (goTo (modMe s (withChains ch)) w dest) w dest (if inBuffer s dest then 0 else 3) := by
  have h := goes_goTo (modMe s (withChains ch)) w dest
  rw [inBuffer, me_modMe] at h
  exact h

theorem bare_retire_withChains (s : State) (ch : Vector Level 12) (w : BitVec 3) (n : Nat) :
    bare (withChains (me s).chains (slotAt (retire (modMe s (withChains ch)) w) n)) = bare (slotAt s n) := by
  have h := congrArg (withChains (me s).chains) (bare_retire (modMe s (withChains ch)) w n)
  rw [slotAt_withChains] at h
  have h2 := congrArg bare (withChains_slotAt_self s n)
  exact h.trans h2

theorem bare_goTo_withChains (s : State) (ch : Vector Level 12) (w : BitVec 3) (dest : W64) (n : Nat) :
    bare (withChains (me s).chains (slotAt (goTo (modMe s (withChains ch)) w dest) n)) =
      bare { slotAt s n with fbuf := if inBuffer s dest then (me s).fbuf else [] } := by
  have h := congrArg (withChains (me s).chains) (bare_goTo (modMe s (withChains ch)) w dest n)
  rw [slotAt_withChains, inBuffer, me_modMe] at h
  have h2 := congrArg (fun u : Slot => bare { u with fbuf := if inBuffer s dest then (me s).fbuf else [] })
    (withChains_slotAt_self s n)
  exact h.trans h2

/-! ### The advance of a chain (R76) -/

/-- A level after its iteration has moved: the last one wraps. -/
def moved (v : Level) : Level := { v with i := if v.i + 1 = v.n then 0 else v.i + 1 }

theorem atLast_iff (u : Slot) (c l : Nat) : atLast u c l = true ↔ (chainLevel u c l).i + 1 = (chainLevel u c l).n := beq_iff_eq

/-- The advance touches the chains alone. -/
theorem advanceChain_eq_withChains (c d fuel : Nat) : ∀ (l : Nat) (u : Slot),
    (advanceChain c d fuel l u).1 = withChains (advanceChain c d fuel l u).1.chains u := by
  induction fuel with
  | zero => intros; rfl
  | succ fuel ih =>
    intro l u
    rw [advanceChain]
    split
    · rfl
    · dsimp only
      split
      · exact ih (l + 1) _
      · rfl

/-- Every level of a chain from `l` up to `m` stands at its last iteration. -/
def Wrapping (u : Slot) (c l m : Nat) : Prop := ∀ j, l ≤ j → j < m → atLast u c j = true

theorem wrapping_of_le (u : Slot) (c : Nat) {l m : Nat} (h : m ≤ l) : Wrapping u c l m := fun j hj hjm => by omega

theorem wrapping_succ {u : Slot} {c l : Nat} (h : (chainLevel u c l).i + 1 = (chainLevel u c l).n) (m : Nat) :
    Wrapping u c l m ↔ Wrapping u c (l + 1) m := by
  refine ⟨fun hw j hj => hw j (by omega), fun hw j hj hjm => ?_⟩
  by_cases hjl : j = l
  · rw [hjl]; exact (atLast_iff u c l).2 h
  · exact hw j (by omega) hjm

theorem wrapping_head {u : Slot} {c l m : Nat} (hw : Wrapping u c l m) (hlm : l < m) :
    (chainLevel u c l).i + 1 = (chainLevel u c l).n := (atLast_iff u c l).1 (hw l (le_refl l) hlm)

/-- The levels above one that has been set stand as they did. -/
theorem wrapping_setLevel {u : Slot} {c l m : Nat} (v : Level) (hc : c < 4) (hl : l < 3) (hm : m ≤ 3) :
    Wrapping (setLevel u c l v) c (l + 1) m ↔ Wrapping u c (l + 1) m := by
  refine forall_congr' fun j => forall_congr' fun hj => forall_congr' fun hjm => ?_
  rw [atLast_iff, atLast_iff, chainLevel_setLevel u v hc hl (by omega), if_neg (by omega)]

/-- A level below the depth moves when every level from the first one advanced up to it wraps. -/
theorem chainLevel_advanceChain {c d : Nat} (hc : c < 4) (hd : d ≤ 3) (fuel : Nat) : ∀ (l : Nat) (u : Slot) (k m : Nat),
    d ≤ fuel + l → m < 3 → (k = c ∧ l ≤ m ∧ m < d ∧ Wrapping u c l m →
      chainLevel (advanceChain c d fuel l u).1 k m = moved (chainLevel u k m)) ∧
    (¬ (k = c ∧ l ≤ m ∧ m < d ∧ Wrapping u c l m) → chainLevel (advanceChain c d fuel l u).1 k m = chainLevel u k m) := by
  induction fuel with
  | zero => intro l u k m hfuel _; exact ⟨fun h => by omega, fun _ => rfl⟩
  | succ fuel ih =>
    intro l u k m hfuel hm
    rw [advanceChain]
    by_cases hdl : d ≤ l
    · rw [if_pos hdl]; exact ⟨fun h => by omega, fun _ => rfl⟩
    have hl : l < 3 := by omega
    have hfirst : k = c ∧ m = l → k = c ∧ l ≤ m ∧ m < d ∧ Wrapping u c l m := fun ⟨hkc, hml⟩ =>
      ⟨hkc, hml.ge, by omega, wrapping_of_le u c hml.le⟩
    rw [if_neg hdl]
    dsimp only
    by_cases hwrap : (chainLevel u c l).i + 1 = (chainLevel u c l).n
    · rw [if_pos hwrap]
      obtain ⟨hmoves, hstays⟩ := ih (l + 1) (setLevel u c l { chainLevel u c l with i := 0 }) k m (by omega) hm
      rw [wrapping_setLevel _ hc hl (by omega), ← wrapping_succ hwrap, chainLevel_setLevel u _ hc hl hm] at hmoves hstays
      by_cases hml : k = c ∧ m = l
      · refine ⟨fun _ => ?_, fun h => absurd (hfirst hml) h⟩
        obtain ⟨rfl, rfl⟩ := hml
        rw [hstays (by omega), if_pos ⟨rfl, rfl⟩, moved, if_pos hwrap]
      · rw [if_neg hml] at hmoves hstays
        exact ⟨fun ⟨hkc, hlm, hmd, hw⟩ => hmoves ⟨hkc, by omega, hmd, hw⟩,
          fun h => hstays fun ⟨hkc, hlm, hmd, hw⟩ => h ⟨hkc, by omega, hmd, hw⟩⟩
    · rw [if_neg hwrap, chainLevel_setLevel u _ hc hl hm]
      by_cases hml : k = c ∧ m = l
      · refine ⟨fun _ => ?_, fun h => absurd (hfirst hml) h⟩
        obtain ⟨rfl, rfl⟩ := hml
        rw [if_pos ⟨rfl, rfl⟩, moved, if_neg hwrap]
      · rw [if_neg hml]
        exact ⟨fun ⟨hkc, hlm, _, hw⟩ => absurd (wrapping_head hw (by omega)) hwrap, fun _ => rfl⟩

/-- The nest is unfinished when some level from the first one advanced does not wrap. -/
theorem advanceChain_again {c d : Nat} (hc : c < 4) (hd : d ≤ 3) (fuel : Nat) : ∀ (l : Nat) (u : Slot), d ≤ fuel + l →
    ((advanceChain c d fuel l u).2 = true ↔ ¬ Wrapping u c l d) := by
  induction fuel with
  | zero => intro l u hfuel; simp [advanceChain, wrapping_of_le u c (show d ≤ l by omega)]
  | succ fuel ih =>
    intro l u hfuel
    rw [advanceChain]
    by_cases hdl : d ≤ l
    · simp [hdl, wrapping_of_le u c hdl]
    rw [if_neg hdl]
    dsimp only
    by_cases hwrap : (chainLevel u c l).i + 1 = (chainLevel u c l).n
    · rw [if_pos hwrap, ih _ _ (by omega), wrapping_setLevel _ hc (by omega) hd, ← wrapping_succ hwrap]
    · rw [if_neg hwrap]
      exact ⟨fun _ hw => hwrap (wrapping_head hw (by omega)), fun _ => rfl⟩

/-- The chain that `chloop` leaves is the advanced one. -/
theorem chainLevel_advance {c k m : Nat} (u : Slot) (hc : c < 4) (hm : m < 3) :
    chainLevel (advanceChain c (activeDepth u c) 3 0 u).1 k m = if k = c then advanced u k m else chainLevel u k m := by
  obtain ⟨hmoves, hstays⟩ := chainLevel_advanceChain hc (activeDepth_le u c) 3 0 u k m (activeDepth_le u c) hm
  by_cases hk : k = c
  · subst hk
    have hall : m < activeDepth u k ∧ (List.range m).all (fun j => atLast u k j) = true ↔
        k = k ∧ 0 ≤ m ∧ m < activeDepth u k ∧ Wrapping u k 0 m := by
      simp [Wrapping]
    rw [if_pos rfl, advanced]
    split
    · rename_i h
      exact hmoves (hall.1 h)
    · rename_i h
      exact hstays (mt hall.2 h)
  · rw [if_neg hk]
    exact hstays fun h => hk h.1

/-- `chloop` goes to its label when the chain is active and has not stood at its last iteration. -/
theorem advance_again {c : Nat} (u : Slot) (hc : c < 4) :
    (advanceChain c (activeDepth u c) 3 0 u).2 = (decide (activeDepth u c ≠ 0) && !chainLast u c) := by
  rw [Bool.eq_iff_iff, advanceChain_again hc (activeDepth_le u c) 3 0 u (activeDepth_le u c)]
  have hlast : chainLast u c = true ↔ activeDepth u c ≠ 0 ∧ Wrapping u c 0 (activeDepth u c) := by
    simp [chainLast, Wrapping, atLast]
  rw [Bool.and_eq_true, decide_eq_true_iff, Bool.not_eq_true', ← Bool.not_eq_true, hlast]
  refine ⟨fun hn => ⟨fun h0 => hn (wrapping_of_le u c (by omega)), fun h => hn h.2⟩, fun h hw => h.2 ⟨h.1, hw⟩⟩

/-! ### The instructions -/

theorem exec_chcfg (s : State) (w : BitVec 3) (c a b : BitVec 5) (l : BitVec 2) :
    exec (.chcfg w c a b l) s = .next (retire (modMe s (withChains
      (setLevel (me s) c.toNat l.toNat ⟨(xr s a).setWidth 32, xr s b, 0⟩).chains)) w) := rfl

theorem exec_chloop (s : State) (w : BitVec 3) (c : BitVec 5) (o : BitVec 18) :
    exec (.chloop w c o) s =
      let adv := advanceChain c.toNat (activeDepth (me s) c.toNat) 3 0 (me s)
      let s' := modMe s (withChains adv.1.chains)
      if adv.2 then .next (goTo s' w ((me s).pc + 4 * o.signExtend 64)) else .next (retire s' w) := by
  have hs : modMe s (fun _ => (advanceChain c.toNat (activeDepth (me s) c.toNat) 3 0 (me s)).1) =
      modMe s (withChains (advanceChain c.toNat (activeDepth (me s) c.toNat) 3 0 (me s)).1.chains) :=
    congrArg (setSlot s s.curCore s.curSlot) (advanceChain_eq_withChains _ _ _ _ _)
  dsimp only
  rw [← hs]
  rfl

/-- `chcfg` sets one level of one chain (R74). -/
theorem chcfg_sets_level (s : State) (w : BitVec 3) (c a b : BitVec 5) (l : BitVec 2) (hc : c.toNat < 4) (hl : l.toNat < 3) :
    ∃ t, exec (.chcfg w c a b l) s = .next t ∧ Onward s t w ∧ MineOnly s t ∧
      (∀ k m, k < 4 → m < 3 → chainLevel (me t) k m =
        if k = c.toNat ∧ m = l.toNat then ⟨(xr s a).setWidth 32, xr s b, 0⟩ else chainLevel (me s) k m) ∧
      ∀ n, bare { slotAt t n with chains := (me s).chains } = bare (slotAt s n) := by
  refine ⟨_, exec_chcfg s w c a b l, onward_retire_withChains _ _ _,
    mineOnly_trans (mineOnly_modMe _ _) (mineOnly_retire _ _), fun k m _ hm => ?_, bare_retire_withChains _ _ _⟩
  rw [me_retire, me_modMe, ← chainLevel_setLevel (me s) _ hc hl hm]
  rfl

/-- `chloop` advances one chain, and continues at its label while the nest is unfinished (R76). -/
theorem chloop_advances (s : State) (w : BitVec 3) (c : BitVec 5) (o : BitVec 18) (hc : c.toNat < 4) :
    ∃ t, exec (.chloop w c o) s = .next t ∧ MineOnly s t ∧
      (let dest := (me s).pc + 4 * o.signExtend 64
       let again := decide (activeDepth (me s) c.toNat ≠ 0) && !chainLast (me s) c.toNat
       (if again then Goes s t w dest (if inBuffer s dest then 0 else 3) else Onward s t w) ∧
       (∀ k m, k < 4 → m < 3 → chainLevel (me t) k m =
         if k = c.toNat then advanced (me s) k m else chainLevel (me s) k m) ∧
       ∀ n, bare { slotAt t n with chains := (me s).chains } =
         bare { slotAt s n with fbuf := if again && !inBuffer s dest then [] else (me s).fbuf }) := by
  have hexec := exec_chloop s w c o
  dsimp only at hexec ⊢
  rw [← advance_again (me s) hc]
  cases hagain : (advanceChain c.toNat (activeDepth (me s) c.toNat) 3 0 (me s)).2
  · rw [hagain, if_neg (by decide)] at hexec
    refine ⟨_, hexec, mineOnly_trans (mineOnly_modMe _ _) (mineOnly_retire _ _), ?_, fun k m _ hm => ?_, fun n => ?_⟩
    · rw [if_neg (by decide)]
      exact onward_retire_withChains _ _ _
    · rw [me_retire, me_modMe, ← chainLevel_advance (me s) hc hm]
      rfl
    · rw [Bool.false_and, if_neg (by decide)]
      refine (bare_retire_withChains s _ w n).trans ?_
      rw [slotAt_self s n]
      rfl
  · rw [hagain, if_pos rfl] at hexec
    refine ⟨_, hexec, mineOnly_trans (mineOnly_modMe _ _) (mineOnly_goTo _ _ _), ?_, fun k m _ hm => ?_, fun n => ?_⟩
    · rw [if_pos rfl]
      exact goes_goTo_withChains _ _ _ _
    · rw [me_goTo, me_modMe, ← chainLevel_advance (me s) hc hm]
      rfl
    · refine (bare_goTo_withChains s _ w _ n).trans ?_
      cases inBuffer s ((me s).pc + 4 * o.signExtend 64) <;> rfl

/-- A conditional branch goes to its target where its condition holds, else on (R70). -/
theorem branches_branchIf {i : Instr} {s : State} {w : BitVec 3} {o : BitVec 13} {taken : Bool} {c : Prop}
    (he : exec i s = branchIf s w taken o) (hc : taken = true ↔ c) : Branches i s w o c := by
  refine ⟨fun h => jumps_goTo ?_, fun h => writes_retire ?_⟩
  · rw [he, branchIf, if_pos (hc.2 h)]; rfl
  · rw [he, branchIf, if_neg (mt hc.1 h)]

/-- `jalr` asks of its target that it is a word's address (R71). -/
theorem exec_jalr (s : State) (w : BitVec 3) (d a : BitVec 5) (i : BitVec 13) :
    exec (.jalr w d a i) s =
      if (xr s a + i.signExtend 64).toNat % 4 ≠ 0 then .next (trapHere s 0x03 0 (xr s a + i.signExtend 64))
      else .next (goTo (wx s d 1 ((me s).pc + 4)) w (xr s a + i.signExtend 64)) := by
  have hbits : ∀ v : W64, bits v 0 2 = v.toNat % 4 := fun v => by rw [bits, pow_zero, Nat.div_one]; rfl
  rw [← hbits]
  rfl

/-- Settles O3: `chcfg` and `chloop` replace the chains of the issuing slot alone, `chidx` ends in `scalarResult`, and each
branch in `branchIf`. -/
theorem chainsAndBranches : Obligations.ChainsAndBranches := by
  refine ⟨fun s w c a b d l o hc hl => ⟨chcfg_sets_level s w c a b l hc hl, givesX_of rfl, chloop_advances s w c o hc⟩,
    fun s w d a b o i => ⟨jumps_wx rfl, fun halign => jumps_wx ?_, ?_⟩⟩
  · rw [exec_jalr, if_neg (not_not.2 halign)]
  · exact ⟨branches_branchIf rfl decide_eq_true_iff, branches_branchIf rfl decide_eq_true_iff,
      branches_branchIf rfl (decide_eq_true_iff.trans (sgn_lt_iff _ _)),
      branches_branchIf rfl (decide_eq_true_iff.trans (sgn_le_iff _ _)),
      branches_branchIf rfl (decide_eq_true_iff.trans (toNat_lt_iff _ _)),
      branches_branchIf rfl (decide_eq_true_iff.trans (toNat_le_iff _ _))⟩

end Sys2Proof.Scalar
end

section
/-! SUPPORT. What a turn belongs to: the slots, which of them issues, and the cycle, and the operations that leave all of
these as they are. -/
namespace Sys2Proof.Scalar
open Sys2Proof Sys2Proof.Machine Sys2Proof.Safety

/-! ### The turn -/

/-- The slots, which of them issues, whether it has, and the cycle. -/
def turn (s : State) : FMap Slot × Nat × Nat × Bool × Nat := (s.slots, s.curCore, s.curSlot, s.issued, s.now)

theorem me_of_turn {s t : State} (h : turn t = turn s) : me t = me s := by
  simp only [turn, Prod.mk.injEq] at h
  obtain ⟨hslots, hcore, hslot, -, -⟩ := h
  rw [me, me, getSlot, getSlot, hslots, hcore, hslot]

theorem issued_of_turn {s t : State} (h : turn t = turn s) : t.issued = s.issued := congrArg (fun p => p.2.2.2.1) h
theorem curSlot_of_turn {s t : State} (h : turn t = turn s) : t.curSlot = s.curSlot := congrArg (fun p => p.2.2.1) h

theorem now_of_turn {s t : State} (h : turn t = turn s) : t.now = s.now := congrArg (fun p => p.2.2.2.2) h

/-- One update of a slot from states of one turn. -/
theorem turn_modSlot {s t : State} (h : turn t = turn s) (c k : Nat) (f : Slot → Slot) :
    turn (modSlot t c k f) = turn (modSlot s c k f) := by
  have hslots : t.slots = s.slots := congrArg Prod.fst h
  have hslot : getSlot t c k = getSlot s c k := by rw [getSlot, hslots, getSlot]
  exact congrArg₂ Prod.mk (by rw [modSlot, setSlot, hslot, hslots]; rfl) (congrArg Prod.snd h)

/-! ### Operations that leave the turn -/

theorem turn_setReg (s : State) (a : Nat) (v : W64) : turn (setReg s a v) = turn s := rfl
theorem turn_schedule (s : State) (due : Nat) (ev : Instr) (args : List Nat) :
    turn (schedule s due ev args) = turn s := rfl
theorem turn_wr64 (s : State) (pa : Nat) (v : W64) : turn (wr64 s pa v) = turn s :=
  (show turn (wr64 s pa v) = turn { wrN s pa 8 v.toNat with mem := s.mem } from rfl).trans
    (congrArg turn (wrN_frame 8 s pa v.toNat))

theorem turn_scheduleOnce (s : State) (due : Nat) (ev : Instr) (args : List Nat) :
    turn (scheduleOnce s due ev args) = turn s := by
  rw [scheduleOnce]; split <;> rfl
theorem turn_soon (s : State) (ev : Instr) (args : List Nat) : turn (soon s ev args) = turn s := by
  rw [soon]; split <;> rfl

/-- A choice of two states of one turn is of that turn. -/
theorem turn_ite {c : Prop} [Decidable c] {s a b : State} (ha : turn a = turn s) (hb : turn b = turn s) :
    turn (if c then a else b) = turn s := by
  split
  · exact ha
  · exact hb

/-- A fold of operations that leave the turn leaves it. -/
theorem turn_foldl {α : Type} {f : State → α → State} (hf : ∀ s a, turn (f s a) = turn s) (l : List α) :
    ∀ s, turn (l.foldl f s) = turn s := by
  induction l with
  | nil => intro s; rfl
  | cons a l ih => intro s; rw [List.foldl_cons, ih, hf]

theorem turn_takeDelay (s : State) : turn (takeDelay s).2 = turn s := by
  rw [takeDelay]; split <;> rfl
theorem turn_addWait (s : State) (id cycles : Nat) : turn (addWait s id cycles) = turn s := by
  rw [addWait]; split <;> rfl

theorem turn_arrive (s : State) (key : Nat) (ev : Instr) (args : List Nat) : turn (arrive s key ev args) = turn s := by
  rw [arrive, arriveIn]
  refine Eq.trans ?_ (turn_takeDelay s)
  dsimp only
  split
  · exact turn_addWait _ _ _
  · rfl

theorem turn_send (s : State) (src dst srcHome dstHome typ vc bytes key : Nat) (ev : Instr) (args : List Nat) :
    turn (send s src dst srcHome dstHome typ vc bytes key ev args) = turn s := by
  rw [send]
  split
  · exact turn_arrive _ _ _ _
  · dsimp only
    split
    · rfl
    · exact turn_scheduleOnce _ _ _ _

theorem turn_lbFree (s : State) (core i : Nat) : turn (lbFree s core i) = turn s := by
  rw [lbFree, turn_scheduleOnce, turn_wr64]; rfl

theorem turn_bounceAll (core slot : Nat) (l : List Nat) : ∀ s, turn (bounceAll core slot l s) = turn s := by
  induction l with
  | nil => intro s; rfl
  | cons i l ih =>
    intro s
    rw [bounceAll]
    dsimp only
    split
    · rw [ih, turn_send]
      exact turn_lbFree s core i
    · exact ih s

theorem turn_faultLog (s : State) (region arose cause unit core : Nat) (pc value : W64) :
    turn (faultLog s region arose cause unit core pc value) = turn s := by
  unfold faultLog
  refine turn_ite rfl (turn_ite (turn_wr64 _ _ _) ?_)
  rw [turn_setReg, turn_setReg, turn_wr64, turn_wr64, turn_wr64, turn_wr64]

theorem turn_abandonOps (s : State) (core slot : Nat) : turn (abandonOps s core slot) = turn s := rfl
theorem turn_freeTags (s : State) (core slot : Nat) (which : Nat → Bool) : turn (freeTags s core slot which) = turn s :=
  rfl

theorem turn_completeSeed (s : State) (pkg port seq status cause unit : Nat) (value : W64) :
    turn (completeSeed s pkg port seq status cause unit value) = turn s := by
  rw [completeSeed, turn_soon]; rfl

theorem turn_reportEnd (s : State) (core slot : Nat) (failed : Bool) (cause : Nat) (value : W64) :
    turn (reportEnd s core slot failed cause value) = turn s := by
  rw [reportEnd]
  split
  · split
    · exact turn_completeSeed _ _ _ _ _ _ _ _
    · split
      · rfl
      · exact turn_completeSeed _ _ _ _ _ _ _ _
  · exact turn_soon _ _ _
  · rfl

theorem turn_leaveWalks (s : State) (core slot : Nat) : turn (leaveWalks s core slot) = turn s := by
  rw [leaveWalks]; split <;> rfl

theorem turn_afterFree (s : State) (core : Nat) : turn (afterFree s core) = turn s := by
  unfold afterFree
  extract_lets p col pk ports tiles drained switched
  have hports : turn ports = turn s :=
    turn_foldl (fun t i => turn_ite (turn_schedule t _ _ _) rfl) _ _
  have htiles : turn tiles = turn s := turn_ite ((turn_schedule _ _ _ _).trans hports) hports
  have hdrained : turn drained = turn s := turn_ite ((turn_soon _ _ _).trans htiles) htiles
  have hswitched : turn switched = turn s := by
    unfold switched
    split
    · exact (turn_soon _ _ _).trans hdrained
    · exact hdrained
  split
  · exact turn_ite ((turn_soon _ _ _).trans hswitched) hswitched
  · exact hswitched

/-! ### A slot that becomes FREE -/

/-- A slot that has just become FREE (R26, R29). -/
def freed (now : Nat) (t : Slot) : Slot :=
  { t with st := .free, retiredAt := some now, origin := none, ac := Vector.replicate 8 none, pend := [], records := [],
           errs := [], barFaults := [], gang := none, stall := none, request := none, replied := none, draught := none,
           freezing := false, yielding := none, w7 := false }

theorem turn_modSlot_freed {s t : State} (h : turn t = turn s) (core slot : Nat) :
    turn (modSlot t core slot (freed t.now)) = turn (modSlot s core slot (freed s.now)) := by
  rw [now_of_turn h, turn_modSlot h]

/-- Of the turn, freeing a slot changes that slot alone. -/
theorem turn_freeSlot (s : State) (core slot : Nat) :
    turn (freeSlot s core slot) = turn (modSlot s core slot (freed s.now)) := by
  unfold freeSlot
  extract_lets bounced untagged logged left
  have hlogged : turn logged = turn untagged :=
    turn_foldl (fun t r => turn_ite (turn_faultLog t _ _ _ _ _ _ _) rfl) _ _
  have hleft : turn left = turn s := by
    rw [turn_leaveWalks, hlogged, turn_freeTags, turn_bounceAll]
  rw [turn_afterFree]
  exact turn_modSlot_freed hleft core slot

/-- Of the turn, a double trap frees the slot, and the instruction has issued (R23). -/
theorem turn_doubleTrap (s : State) (core slot cause unit : Nat) :
    turn (doubleTrap s core slot cause unit) = turn (modSlot { s with issued := true } core slot (freed s.now)) := by
  have hissued : ∀ t : State, turn t = turn s → turn { t with issued := true } = turn { s with issued := true } :=
    fun t h => congrArg (fun p => (p.1, p.2.1, p.2.2.1, true, p.2.2.2.2)) h
  unfold doubleTrap
  refine (turn_freeSlot _ core slot).trans (turn_modSlot_freed (hissued _ ?_) core slot)
  rw [turn_reportEnd, turn_abandonOps, turn_faultLog]

end Sys2Proof.Scalar
end

section
/-! SUPPORT. Traps, the return from one, `yield` and `isync` (R23, R28, R41, R79 to R86, R110). -/
namespace Sys2Proof.Scalar
open Sys2Proof Sys2Proof.Machine Sys2Proof.Safety

/-! ### The entry of a trap (R84 to R86) -/

/-- STATUS at the entry of a trap: PLVL takes LVL, LVL and INTRAP become 1. -/
def enteredStatus (st : W64) : W64 := setBits (setBits (setBits st 1 1 (bits st 0 1)) 0 1 1) 2 1 1

theorem getLsbD_enteredStatus (st : W64) (j : Nat) : (enteredStatus st).getLsbD j =
    if j = 0 ∨ j = 2 then true else if j = 1 then st.getLsbD 0 else st.getLsbD j := by
  rw [enteredStatus, getLsbD_setBits_one _ _ _ _ (by decide), getLsbD_setBits_one _ _ _ _ (by decide),
    getLsbD_setBits_one _ _ _ _ (by decide), bits_one]
  by_cases h2 : j = 2
  · simp [h2]
  by_cases h0 : j = 0
  · simp [h0]
  by_cases h1 : j = 1
  · cases h : st.getLsbD 0 <;> simp [h1]
  · simp [h0, h1, h2]

/-- The slot as a trap's entry leaves it, from its registers at the cycle when the last pending write has landed. -/
def entered (s : State) (cause unit : Nat) (value pc : W64) (t : Slot) : Slot :=
  let u := t.landDue false (lastDue s)
  { u with
    trapcause := BitVec.ofNat 64 (unit * 4096 + cause), trappc := pc &&& 0xFFFFFFFFFFFFC, trapval := value
    status := enteredStatus u.status, pc := tvecOf s s.curCore s.curSlot + BitVec.ofNat 64 (64 * cause), st := .trap
    fbuf := [], ready := lastDue s, w7 := false, stall := none, request := none, replied := none }

theorem takeTrap_of_canTrap {s : State} (h : canTrap s) (cause unit : Nat) (value pc : W64) :
    takeTrap s s.curCore s.curSlot cause unit value pc =
      modMe { s with issued := true } (entered s cause unit value pc) := by
  obtain ⟨htask, hfirst⟩ := h
  rw [takeTrap, if_neg (by omega)]
  exact (if_neg fun htwice => absurd (hfirst.symm.trans htwice) (by decide)).trans rfl

/-- A trap of a task slot that is in none makes the entry every precise trap makes. -/
theorem trapEntry_takeTrap {s : State} (h : canTrap s) (cause unit : Nat) (value pc : W64) :
    TrapEntry s (takeTrap s s.curCore s.curSlot cause unit value pc) cause unit value pc := by
  have hland : slotAt s (lastDue s) = (me s).landDue false (lastDue s) := by
    rw [slotAt, show (s.curSlot == 4) = false from beq_false_of_ne (by have := h.1; omega)]
  have hme : me (modMe { s with issued := true } (entered s cause unit value pc)) = entered s cause unit value pc (me s) :=
    me_modMe _ _
  rw [takeTrap_of_canTrap h]
  refine ⟨rfl, mineOnly_trans (mineOnly_issued s true) (mineOnly_modMe _ _), ?_, fun j => ?_⟩
  · rw [hme, hland]
    rfl
  · rw [hme, hland]
    exact getLsbD_enteredStatus _ j

theorem traps_of {i : Instr} {s : State} {cause unit : Nat} {value pc : W64} (h : canTrap s)
    (he : exec i s = .next (takeTrap s s.curCore s.curSlot cause unit value pc)) : Traps i s cause unit value pc :=
  ⟨_, he, trapEntry_takeTrap h cause unit value pc⟩

/-! ### The double trap (R23, R26) -/

theorem me_doubleTrap (s : State) (cause unit : Nat) :
    me (doubleTrap s s.curCore s.curSlot cause unit) = freed s.now (me s) :=
  (me_of_turn (turn_doubleTrap s s.curCore s.curSlot cause unit)).trans (me_modMe { s with issued := true } _)

theorem issued_doubleTrap (s : State) (cause unit : Nat) : (doubleTrap s s.curCore s.curSlot cause unit).issued = true :=
  issued_of_turn (turn_doubleTrap s s.curCore s.curSlot cause unit)

/-- A trap of a task slot that is in one already is a double trap. -/
theorem takeTrap_of_inTrap {s : State} (htask : s.curSlot < 4) (h : inTrap (me s) = true) (cause unit : Nat) (value pc : W64) :
    takeTrap s s.curCore s.curSlot cause unit value pc = doubleTrap s s.curCore s.curSlot cause unit := by
  rw [takeTrap, if_neg (by omega)]
  exact if_pos h

/-- An instruction that traps while INTRAP is 1 frees its slot; the registers and the first trap's stand. -/
theorem frees_of_inTrap {i : Instr} {s : State} {cause unit : Nat} {value pc : W64} (htask : s.curSlot < 4)
    (h : inTrap (me s) = true) (he : exec i s = .next (takeTrap s s.curCore s.curSlot cause unit value pc)) :
    ∃ t, exec i s = .next t ∧ t.issued = true ∧
      (me t).st = .free ∧ (me t).incarn = (me s).incarn ∧ (me t).x = (me s).x ∧ (me t).v = (me s).v ∧ (me t).k = (me s).k ∧
      (me t).trapcause = (me s).trapcause ∧ (me t).trappc = (me s).trappc ∧ (me t).trapval = (me s).trapval ∧
      (me t).origin = none := by
  rw [takeTrap_of_inTrap htask h] at he
  refine ⟨_, he, issued_doubleTrap s cause unit, ?_⟩
  rw [me_doubleTrap]
  exact ⟨rfl, rfl, rfl, rfl, rfl, rfl, rfl, rfl, rfl⟩

/-! ### Instructions that trap (R71, R79, R83) -/

theorem exec_csrOp (s : State) (w : BitVec 3) (d a : BitVec 5) (r : BitVec 11) (op : CsrOp) :
    exec (op.instr w d a r) s = csrWrite s w d r.toNat (op.new (csrValue s r.toNat) (xr s a)) := by
  cases op <;> rfl

theorem traps_jalr {s : State} {w : BitVec 3} {d a : BitVec 5} {i : BitVec 13} (h : canTrap s)
    (halign : (xr s a + i.signExtend 64).toNat % 4 ≠ 0) :
    Traps (.jalr w d a i) s 0x03 0 (xr s a + i.signExtend 64) (me s).pc := by
  refine traps_of h ?_
  rw [exec_jalr, if_pos halign]
  rfl

theorem traps_csrOp {s : State} {w : BitVec 3} {d a : BitVec 5} {r : BitVec 11} {op : CsrOp} (h : canTrap s)
    (hdenied : ¬ csrAllowed s r.toNat (op.new (csrValue s r.toNat) (xr s a))) :
    Traps (op.instr w d a r) s 0x05 0 (r.setWidth 64) (me s).pc := by
  rw [csrAllowed, not_or] at hdenied
  refine traps_of h ?_
  rw [exec_csrOp, csrWrite, if_pos ⟨by simpa using hdenied.1, hdenied.2⟩, BitVec.ofNat_toNat]
  rfl

/-- `tret` at system level returns from the trap, and a slot that took a DRAUGHT trap then freezes; at task level it traps. -/
theorem exec_tret (s : State) (w : BitVec 3) : exec (.tret w) s =
    if (me s).status.getLsbD 0 then .next (freezeAfterDraught (holdWait (trapReturn s) w)) else .next (trapHere s 0x05 0 0) := by
  rw [show exec (.tret w) s = execTret w s from rfl, execTret, lvlOf, bitOf]
  cases (me s).status.getLsbD 0 <;> rfl

theorem traps_tret {s : State} {w : BitVec 3} (h : canTrap s) (hlvl : (me s).status.getLsbD 0 = false) :
    Traps (.tret w) s 0x05 0 0 (me s).pc := by
  refine traps_of h ?_
  rw [exec_tret, hlvl]
  rfl

/-! ### The agenda -/

theorem mem_insertDue (due : Nat) (ev : Instr × List Nat) (l : List (Nat × Instr × List Nat)) :
    (due, ev) ∈ insertDue due ev l := by
  induction l with
  | nil => exact List.mem_singleton_self _
  | cons p l ih =>
    rw [insertDue]
    split
    · exact List.mem_cons_self
    · exact List.mem_cons_of_mem _ ih

/-- What is to happen soon stands on the agenda. -/
theorem listed_soon (s : State) (ev : Instr) (args : List Nat) : Listed (soon s ev args) ev args := by
  rw [Listed, List.mem_map, soon]
  split
  · rename_i h
    obtain ⟨p, hp, heq⟩ := List.any_eq_true.1 h
    exact ⟨p, hp, eq_of_beq (Bool.and_eq_true_iff.1 heq).2⟩
  · exact ⟨_, mem_insertDue s.now (ev, args) s.agenda, rfl⟩

theorem soon_mem (s : State) (ev : Instr) (args : List Nat) : (soon s ev args).mem = s.mem := by
  rw [soon]; split <;> rfl

/-! ### The freeze of a slot that took a DRAUGHT trap (R28) -/

/-- A slot that freezes if it took a DRAUGHT trap. -/
def frozen (u : Slot) : Slot := { u with draught := none, freezing := u.freezing || u.draught.isSome }

theorem frozen_of_none {u : Slot} (h : u.draught = none) : frozen u = u := by
  obtain ⟨⟩ := u
  cases h
  rw [frozen, Option.isSome_none, Bool.or_false]

theorem freezeAfterDraught_of_none {s : State} (h : (me s).draught = none) : freezeAfterDraught s = s := by
  rw [freezeAfterDraught, h]
  rfl

theorem freezeAfterDraught_of_some {s : State} (h : (me s).draught ≠ none) :
    freezeAfterDraught s = soon (modMe s frozen) .slotFreeze [s.curCore, s.curSlot] := by
  have hsome : (me s).draught.isSome = true := Option.isSome_iff_ne_none.2 h
  have hslot : frozen (me s) = { me s with draught := none, freezing := true } := by rw [frozen, hsome, Bool.or_true]
  have hmod : modMe s frozen = modMe s (fun t => { t with draught := none, freezing := true }) :=
    congrArg (setSlot s s.curCore s.curSlot) hslot
  rw [freezeAfterDraught, if_pos hsome, hmod]

theorem me_freezeAfterDraught (s : State) : me (freezeAfterDraught s) = frozen (me s) := by
  by_cases h : (me s).draught = none
  · rw [freezeAfterDraught_of_none h, frozen_of_none h]
  · rw [freezeAfterDraught_of_some h, me_of_turn (turn_soon _ _ _), me_modMe]

theorem issued_freezeAfterDraught (s : State) : (freezeAfterDraught s).issued = s.issued := by
  rw [freezeAfterDraught]
  split
  · exact (issued_of_turn (turn_soon _ _ _)).trans rfl
  · rfl

theorem listed_freezeAfterDraught {s : State} (h : (me s).draught ≠ none) :
    Listed (freezeAfterDraught s) .slotFreeze [s.curCore, s.curSlot] := by
  rw [freezeAfterDraught_of_some h]
  exact listed_soon _ _ _

theorem freezeAfterDraught_mem (s : State) : (freezeAfterDraught s).mem = s.mem := by
  rw [freezeAfterDraught]
  split
  · exact soon_mem _ _ _
  · rfl

/-- A freeze is seen in every cycle, and changes no register. -/
theorem slotAt_freezeAfterDraught (s : State) (n : Nat) :
    slotAt (freezeAfterDraught s) n =
      { slotAt s n with draught := none, freezing := (me s).freezing || (me s).draught.isSome } := by
  have hslot : (freezeAfterDraught s).curSlot = s.curSlot := by
    rw [freezeAfterDraught]
    split
    · exact (curSlot_of_turn (turn_soon _ _ _)).trans rfl
    · rfl
  have hmod : slotAt (freezeAfterDraught s) n = slotAt (modMe s frozen) n := by
    rw [slotAt, slotAt, me_freezeAfterDraught, me_modMe, hslot]
    rfl
  rw [hmod, slotAt_rest s frozen rfl rfl, slotAt_self s n]
  rfl

/-! ### `tret` (R83) -/

/-- STATUS after the return from a trap to level `lvl`: LVL takes PLVL, PLVL and INTRAP become 0. -/
def returnedStatus (st : W64) : W64 := setBits (setBits (setBits st 0 1 (bits st 1 1)) 1 1 0) 2 1 0

theorem getLsbD_returnedStatus (st : W64) (j : Nat) : (returnedStatus st).getLsbD j =
    if j = 0 then st.getLsbD 1 else if j = 1 ∨ j = 2 then false else st.getLsbD j := by
  rw [returnedStatus, getLsbD_setBits_one _ _ _ _ (by decide), getLsbD_setBits_one _ _ _ _ (by decide),
    getLsbD_setBits_one _ _ _ _ (by decide), bits_one]
  by_cases h2 : j = 2
  · simp [h2]
  by_cases h1 : j = 1
  · simp [h1]
  by_cases h0 : j = 0
  · cases h : st.getLsbD 1 <;> simp [h0]
  · simp [h0, h1, h2]

/-- A write still to land after the return: of STATUS, it leaves PLVL and INTRAP (R38). -/
def keptPend (p : Pend) : Pend := if p.file == .csr && p.idx == 0 then { p with val := p.val &&& ~~~6 } else p

theorem map_keptPend {l : List Pend} (h : ∀ p ∈ l, p.file = .csr → p.idx ≠ 0) : l.map keptPend = l := by
  refine (List.map_congr_left fun p hp => ?_).trans (List.map_id l)
  rw [keptPend, if_neg]
  · rfl
  · rw [Bool.and_eq_true, beq_iff_eq, beq_iff_eq]
    exact fun hcsr => h p hp hcsr.1 hcsr.2

/-- The issuing slot after the return from a trap. -/
theorem me_return {s : State} (w : BitVec 3) (htask : s.curSlot < 4) : me (holdWait (trapReturn s) w) = { me s with
    pc := (me s).trappc, status := returnedStatus (me s).status
    st := if (me s).status.getLsbD 1 then .trap else .run
    fbuf := if inBuffer s (me s).trappc then (me s).fbuf else [], pend := (me s).pend.map keptPend
    ready := max (s.now + 2 + (if inBuffer s (me s).trappc then 0 else 3)) (s.now + 1 + (if w = 7 then 0 else w.toNat))
    w7 := w == 7, stall := none } := by
  have hlvl : (if (me s).status.getLsbD 1 then SlotSt.trap else .run) = if bits (me s).status 1 1 = 1 then .trap else .run := by
    rw [bits_one]; cases (me s).status.getLsbD 1 <;> rfl
  rw [holdWait, me_modMe, trapReturn, me_modMe, hlvl]
  simp only [show ¬ s.curSlot = 4 by omega, if_false]
  rfl

theorem mineOnly_return (s : State) (w : BitVec 3) : MineOnly s (holdWait (trapReturn s) w) :=
  mineOnly_trans (mineOnly_trans (mineOnly_issued s true) (mineOnly_modMe _ _)) (mineOnly_modMe _ _)

theorem tret_returns (s : State) (w : BitVec 3) (htask : s.curSlot < 4) (hlvl : (me s).status.getLsbD 0 = true) :
    ∃ t, exec (.tret w) s = .next t ∧ t.issued = true ∧
      (let dest := (me s).trappc
       me t = { me s with
         pc := dest, status := (me t).status, st := if (me s).status.getLsbD 1 then .trap else .run,
         fbuf := if inBuffer s dest then (me s).fbuf else [], ready := (me t).ready, pend := (me t).pend,
         w7 := w == 7, stall := none, draught := none, freezing := (me s).freezing || (me s).draught.isSome } ∧
       s.now + 2 + (if inBuffer s dest then 0 else 3) ≤ (me t).ready ∧
       (w.toNat < 2 → (me t).ready = s.now + 2 + (if inBuffer s dest then 0 else 3))) ∧
      ((∀ p ∈ (me s).pend, p.file = .csr → p.idx ≠ 0) → (me t).pend = (me s).pend) ∧
      (∀ j, (me t).status.getLsbD j =
        if j = 0 then (me s).status.getLsbD 1 else if j = 1 ∨ j = 2 then false else (me s).status.getLsbD j) ∧
      ((me s).draught = none → MineOnly s t) ∧
      ((me s).draught ≠ none → (Instr.slotFreeze, [s.curCore, s.curSlot]) ∈ t.agenda.map (·.2) ∧ t.mem = s.mem) := by
  have hreturn := me_return w htask
  have hdraught : (me (holdWait (trapReturn s) w)).draught = (me s).draught := by rw [hreturn]
  have hexec := exec_tret s w
  rw [hlvl, if_pos rfl] at hexec
  refine ⟨_, hexec, issued_freezeAfterDraught _, ?_⟩
  rw [me_freezeAfterDraught, hreturn]
  refine ⟨⟨rfl, le_max_left _ _, fun hw => max_eq_left ?_⟩, map_keptPend, getLsbD_returnedStatus _, fun h => ?_, fun h => ?_⟩
  · split <;> omega
  · rw [freezeAfterDraught_of_none (hdraught.trans h)]
    exact mineOnly_return s w
  · exact ⟨listed_freezeAfterDraught (hdraught ▸ h), freezeAfterDraught_mem _⟩

/-! ### `yield` and `isync` (R81, R110) -/

/-- A slot that gives up issue until a cycle. -/
def yielded (due : Nat) (u : Slot) : Slot := { u with yielding := some (due, []) }

theorem exec_yield (s : State) (w : BitVec 3) :
    exec (.yield w) s = .next (freezeAfterDraught (modMe (retire s w) (yielded (s.now + 8)))) := rfl

theorem me_yield (s : State) (w : BitVec 3) :
    me (modMe (retire s w) (yielded (s.now + 8))) = yielded (s.now + 8) (me (retire s w)) := me_modMe _ _

theorem slotAt_yield (s : State) (w : BitVec 3) (n : Nat) :
    slotAt (modMe (retire s w) (yielded (s.now + 8))) n = yielded (s.now + 8) (slotAt (retire s w) n) := by
  rw [slotAt_rest _ (yielded (s.now + 8)) rfl rfl, slotAt_self (retire s w) n]
  rfl

theorem draught_yield (s : State) (w : BitVec 3) : (me (modMe (retire s w) (yielded (s.now + 8)))).draught = (me s).draught := by
  rw [me_yield, me_retire]; rfl

/-- Whatever leaves the issuing slot's pc, readiness and stall as `retire` does, goes on. -/
theorem onward_of_retire {s t : State} {w : BitVec 3} (hissued : t.issued = true) (hpc : (me t).pc = (me (retire s w)).pc)
    (hw7 : (me t).w7 = (me (retire s w)).w7) (hstall : (me t).stall = (me (retire s w)).stall)
    (hready : (me t).ready = (me (retire s w)).ready) : Onward s t w := by
  obtain ⟨-, hpc', hw7', hstall', hready'⟩ := onward_retire s w
  exact ⟨hissued, hpc.trans hpc', hw7.trans hw7', hstall.trans hstall', hready.trans hready'⟩

theorem onward_yield (s : State) (w : BitVec 3) :
    Onward s (freezeAfterDraught (modMe (retire s w) (yielded (s.now + 8)))) w := by
  have hme := (me_freezeAfterDraught _).trans (congrArg frozen (me_yield s w))
  refine onward_of_retire (issued_freezeAfterDraught _) ?_ ?_ ?_ ?_ <;> (rw [hme]; rfl)

/-- `yield` of a slot that took no DRAUGHT trap. -/
theorem yield_waits {s : State} (w : BitVec 3) (h : (me s).draught = none) : ∃ t, exec (.yield w) s = .next t ∧ Onward s t w ∧
    MineOnly s t ∧ (me t).yielding = some (s.now + 8, []) ∧
    ∀ n, bare { slotAt t n with yielding := none } = bare { slotAt s n with yielding := none } := by
  have hkeep := freezeAfterDraught_of_none ((draught_yield s w).trans h)
  refine ⟨_, exec_yield s w, onward_yield s w, ?_, ?_, fun n => ?_⟩
  · rw [hkeep]
    exact mineOnly_trans (mineOnly_retire s w) (mineOnly_modMe _ _)
  · rw [hkeep, me_yield]
    rfl
  · rw [hkeep, slotAt_yield]
    exact congrArg (fun u : Slot => { u with yielding := none }) (bare_retire s w n)

/-- `yield` of a slot that took a DRAUGHT trap. -/
theorem yield_freezes {s : State} (w : BitVec 3) (h : (me s).draught ≠ none) : ∃ t, exec (.yield w) s = .next t ∧ Onward s t w ∧
    (me t).freezing = true ∧ (Instr.slotFreeze, [s.curCore, s.curSlot]) ∈ t.agenda.map (·.2) ∧ t.mem = s.mem ∧
    ∀ n, bare { slotAt t n with yielding := none, draught := none, freezing := true } =
      bare { slotAt s n with yielding := none, draught := none, freezing := true } := by
  have hdraught := draught_yield s w
  refine ⟨_, exec_yield s w, onward_yield s w, ?_, listed_freezeAfterDraught (hdraught ▸ h), freezeAfterDraught_mem _,
    fun n => ?_⟩
  · rw [me_freezeAfterDraught, frozen, hdraught, Option.isSome_iff_ne_none.2 h, Bool.or_true]
  · rw [slotAt_freezeAfterDraught, slotAt_yield]
    exact congrArg (fun u : Slot => { u with yielding := none, draught := none, freezing := true }) (bare_retire s w n)

/-- A slot with its fetch buffer emptied, to issue no earlier than a cycle. -/
def refetching (due : Nat) (u : Slot) : Slot := { u with fbuf := [], ready := max u.ready due }

theorem isync_refetches (s : State) (w : BitVec 3) : ∃ t, exec (.isync w) s = .next t ∧ MineOnly s t ∧ t.issued = true ∧
    (me t).pc = (me s).pc + 4 ∧ (me t).fbuf = [] ∧ (me t).w7 = (w == 7) ∧ s.now + 3 ≤ (me t).ready ∧
    (w = 7 ∨ w.toNat < 3 → (me t).ready = s.now + 3) ∧
    ∀ n, bare { slotAt t n with fbuf := [] } = bare { slotAt s n with fbuf := [] } := by
  have hexec : exec (.isync w) s = .next (modMe (retire s w) (refetching (s.now + 3))) := rfl
  refine ⟨_, hexec, mineOnly_trans (mineOnly_retire s w) (mineOnly_modMe _ _), rfl, ?_⟩
  rw [me_modMe, me_retire]
  refine ⟨rfl, rfl, rfl, le_max_right _ _, fun hw => max_eq_right ?_, fun n => ?_⟩
  · dsimp only
    rcases hw with rfl | hw
    · rw [if_pos rfl]; omega
    · split <;> omega
  · rw [slotAt_rest _ (refetching (s.now + 3)) rfl rfl]
    have hbare := congrArg (fun u : Slot => { u with fbuf := [] }) (bare_retire s w n)
    rw [slotAt_self (retire s w) n] at hbare
    exact hbare

/-- Settles O5: the traps make the entry of `takeTrap`, or free the slot; `tret`, `yield` and `isync` are updates of the
issuing slot, after which a slot that took a DRAUGHT trap freezes. -/
theorem trapsAndReturns : Obligations.TrapsAndReturns := by
  refine ⟨fun s w i h => ⟨traps_of h rfl, traps_of h rfl⟩, fun s w i htask hin instr hinstr => ?_,
    fun s w d a i r op h => ⟨traps_jalr h, traps_csrOp h, traps_tret h⟩, tret_returns,
    fun s w => ⟨yield_waits w, yield_freezes w, isync_refetches s w⟩⟩
  rcases hinstr with rfl | rfl
  · exact frees_of_inTrap (cause := 0x10) htask hin rfl
  · exact frees_of_inTrap (cause := 0x11) htask hin rfl

end Sys2Proof.Scalar
end

section
/-! SUPPORT. The element types of the vector unit: their widths, and elements as numbers and as bits (R51, R122, R180,
R184). -/
namespace Sys2Proof.Vectors
open Sys2Proof Sys2Proof.Machine Sys2Proof.Safety

/-! ### Types -/

theorem fmtBits_tyCode : ∀ t : BitVec 4, t.toNat < 9 → fmtBits (tyCode t) = elemWidth t := by decide
theorem intSigned_tyCode : ∀ t : BitVec 4, t.toNat < 6 → intSigned (tyCode t) = decide (t.toNat < 3) := by decide

theorem elemWidth_cases : ∀ t : BitVec 4, elemWidth t = 8 ∨ elemWidth t = 16 ∨ elemWidth t = 32 := by decide
theorem elemWidth_pos (t : BitVec 4) : 0 < elemWidth t := by
  rcases elemWidth_cases t with h | h | h <;> omega

theorem tyLanes_eq {t : BitVec 4} (ht : t.toNat < 9) : tyLanes t = 256 / elemWidth t := by
  rw [tyLanes, fmtBits_tyCode t ht]
theorem tyFloat_of_lt {t : BitVec 4} (ht : t.toNat < 6) : tyFloat t = false := decide_eq_false (by omega)
theorem tyFloat_of_le {t : BitVec 4} (ht : 6 ≤ t.toNat) : tyFloat t = true := decide_eq_true ht

/-- The lanes of a type fill a vector register, and a mask register has a bit for each. -/
theorem elemWidth_mul_lanes (t : BitVec 4) : elemWidth t * (256 / elemWidth t) = 256 := by
  rcases elemWidth_cases t with h | h | h <;> rw [h]
theorem lanes_le (t : BitVec 4) : 256 / elemWidth t ≤ 32 := by
  rcases elemWidth_cases t with h | h | h <;> rw [h] <;> decide

theorem two_pow_elemWidth (t : BitVec 4) : 2 ^ elemWidth t = 2 * 2 ^ (elemWidth t - 1) := by
  rw [← Nat.pow_succ', Nat.succ_eq_add_one, Nat.sub_add_cancel (elemWidth_pos t)]

/-! ### Integer elements -/

theorem laneInt_eq_elemInt {t : BitVec 4} (ht : t.toNat < 6) {x : Nat} (hx : x < 2 ^ elemWidth t) :
    laneInt (tyCode t) x = elemInt t x := by
  rw [laneInt, elemInt, fmtBits_tyCode t (by omega), intSigned_tyCode t ht]
  by_cases hsigned : t.toNat < 3
  · rw [if_pos hsigned, BitVec.toInt_eq_toNat_cond, BitVec.toNat_ofNat, Nat.mod_eq_of_lt hx]
    have := two_pow_elemWidth t
    by_cases hneg : 2 ^ (elemWidth t - 1) ≤ x
    · rw [if_pos ⟨decide_eq_true hsigned, hneg⟩, if_neg (by omega)]
    · rw [if_neg fun h => hneg h.2, if_pos (by omega)]
  · rw [if_neg hsigned, if_neg fun h => hsigned (of_decide_eq_true h.1)]

theorem intLane_eq_elemBits {t : BitVec 4} (ht : t.toNat < 6) (v : Int) : intLane (tyCode t) v = elemBits t v := by
  rw [intLane, elemBits, BitVec.toNat_ofInt, fmtBits_tyCode t (by omega)]

/-- The least and the greatest value of an integer type (Table 5-3). -/
theorem intMin_tyCode {t : BitVec 4} (ht : t.toNat < 6) :
    intMin (tyCode t) = if t.toNat < 3 then -2 ^ (elemWidth t - 1) else 0 := by
  rw [intMin, intSigned_tyCode t ht, fmtBits_tyCode t (by omega)]
  simp
theorem intMax_tyCode {t : BitVec 4} (ht : t.toNat < 6) :
    intMax (tyCode t) = if t.toNat < 3 then 2 ^ (elemWidth t - 1) - 1 else 2 ^ elemWidth t - 1 := by
  rw [intMax, intSigned_tyCode t ht, fmtBits_tyCode t (by omega)]
  simp

theorem intMin_le_elemInt {t : BitVec 4} (ht : t.toNat < 6) (x : Nat) : intMin (tyCode t) ≤ elemInt t x := by
  rw [intMin_tyCode ht, elemInt]
  split
  · exact BitVec.le_toInt _
  · exact Int.natCast_nonneg x

theorem elemInt_le_intMax {t : BitVec 4} (ht : t.toNat < 6) {x : Nat} (hx : x < 2 ^ elemWidth t) :
    elemInt t x ≤ intMax (tyCode t) := by
  rw [intMax_tyCode ht, elemInt]
  split
  · exact BitVec.toInt_le
  · exact Int.le_sub_one_of_lt (by exact_mod_cast hx)

/-! ### Float elements -/

theorem width_of_fpFmt {t : BitVec 4} {f : FpFmt} (ht : 6 ≤ t.toNat) (ht9 : t.toNat < 9) (hf : fpFmt (tyCode t) = some f) :
    elemWidth t = f.eb + f.mb + 1 := by
  have hall : ∀ t : BitVec 4, 6 ≤ t.toNat → t.toNat < 9 →
      (fpFmt (tyCode t)).all (fun f => elemWidth t == f.eb + f.mb + 1) = true := by decide
  have h := hall t ht ht9
  rw [hf] at h
  exact eq_of_beq h

/-- A float element is read from the bits of its format alone (R119). -/
theorem decodeFp_mod (f : FpFmt) (b : Nat) : decodeFp f (b % 2 ^ (f.eb + f.mb + 1)) = decodeFp f b := by
  have hsign : (b % 2 ^ (f.eb + f.mb + 1)).testBit (f.eb + f.mb) = b.testBit (f.eb + f.mb) := by
    rw [Nat.testBit_mod_two_pow, decide_eq_true (Nat.lt_succ_self _), Bool.true_and]
  have hexp : b % 2 ^ (f.eb + f.mb + 1) / 2 ^ f.mb % 2 ^ f.eb = b / 2 ^ f.mb % 2 ^ f.eb := by
    rw [show f.eb + f.mb + 1 = f.mb + (f.eb + 1) by omega, Nat.pow_add 2 f.mb, Nat.mod_mul_right_div_self]
    exact Nat.mod_mod_of_dvd _ (pow_dvd_pow 2 (Nat.le_succ _))
  have hman : b % 2 ^ (f.eb + f.mb + 1) % 2 ^ f.mb = b % 2 ^ f.mb :=
    Nat.mod_mod_of_dvd _ (pow_dvd_pow 2 (by omega))
  rw [decodeFp, decodeFp, hsign, hexp, hman]

theorem decodeNum_of_fpFmt {t : BitVec 4} {f : FpFmt} (ht : 6 ≤ t.toNat) (ht9 : t.toNat < 9) (hf : fpFmt (tyCode t) = some f)
    (b : Nat) : decodeNum (tyCode t) b = decodeFp f b := by
  rw [decodeNum, hf, fmtBits_tyCode t ht9, width_of_fpFmt ht ht9 hf]
  exact decodeFp_mod f b

theorem roundTo_of_fpFmt {code : Nat} {f : FpFmt} (hf : fpFmt code = some f) (r : Rnd) (x : Machine.Num) :
    roundTo code r x = roundFp f r x := by
  rw [roundTo, hf]

end Sys2Proof.Vectors
end

section
/-! SUPPORT. Compares, selections, moves, elements and mask operations (R188, R198 to R200). -/
namespace Sys2Proof.Vectors
open Sys2Proof Sys2Proof.Machine Sys2Proof.Safety

/-! ### Compares and `vsel` (R184, R188) -/

/-- Whether one of two elements is a NaN. -/
def elemNan (t : BitVec 4) (x y : Nat) : Bool :=
  decide (6 ≤ t.toNat) && ((decodeNum (tyCode t) x).isNan || (decodeNum (tyCode t) y).isNan)
/-- The order of two elements, neither a NaN: negative, zero or positive. -/
def elemOrder (t : BitVec 4) (x y : Nat) : Int :=
  if t.toNat < 6 then Int.sign (elemInt t x - elemInt t y) else cmpNum (decodeNum (tyCode t) x) (decodeNum (tyCode t) y)

/-- The bits of a mask register made of single-bit lanes. -/
theorem getLsbD_maskBits {n : Nat} (hn : n ≤ 32) (c : Nat → Prop) [DecidablePred c] (j : Nat) :
    (BitVec.ofNat 32 (ofLanes 1 ((List.range n).map (fun i => if c i then 1 else 0)))).getLsbD j =
      (decide (j < n) && decide (c j)) := by
  have hlane := ofLanes_div 1 ((List.range n).map (fun i => if c i then 1 else 0)) j
  rw [Nat.one_mul, pow_one] at hlane
  rw [BitVec.getLsbD_ofNat, Nat.testBit_eq_decide_div_mod_eq, hlane, List.getD_eq_getElem?_getD, List.getElem?_map]
  by_cases hj : j < n
  · rw [List.getElem?_range hj]
    by_cases hc : c j <;> simp [hj, hc, show j < 32 by omega]
  · rw [List.getElem?_eq_none (by simpa using hj)]
    simp [hj]

/-- A compare reads its relation off two elements through `elemNan` and `elemOrder`. -/
theorem rel_elem {t : BitVec 4} {x y : Nat} {ri : Int → Int → Bool} {rel : Bool → Int → Bool} (hx : x < 2 ^ elemWidth t)
    (hy : y < 2 ^ elemWidth t) (hri : ∀ x y, ri x y = rel false (Int.sign (x - y))) :
    (if tyFloat t then rel ((decodeNum (tyCode t) x).isNan || (decodeNum (tyCode t) y).isNan)
        (cmpNum (decodeNum (tyCode t) x) (decodeNum (tyCode t) y))
      else ri (laneInt (tyCode t) x) (laneInt (tyCode t) y)) = rel (elemNan t x y) (elemOrder t x y) := by
  rw [elemNan, elemOrder]
  by_cases hint : t.toNat < 6
  · rw [tyFloat_of_lt hint, if_neg Bool.false_ne_true, laneInt_eq_elemInt hint hx, laneInt_eq_elemInt hint hy, hri,
      if_pos hint, decide_eq_false (by omega), Bool.false_and]
  · rw [tyFloat_of_le (by omega), if_pos rfl, if_neg hint, decide_eq_true (by omega), Bool.true_and]

/-- A compare sets the bit of each active lane whose elements stand in its relation, and clears every other bit. -/
theorem givesK_compare {i : Instr} {s : State} {w : BitVec 3} {t : BitVec 4} {d a b : BitVec 5} {k : BitVec 3}
    {ri : Int → Int → Bool} {rel : Bool → Int → Bool} (ht : t.toNat < 9) (he : exec i s = compare s w t d a b k ri rel)
    (hri : ∀ x y, ri x y = rel false (Int.sign (x - y))) :
    ∃ m, GivesK i s w d 2 m ∧ ∀ j, m.getLsbD j = (decide (j < 256 / elemWidth t) && (kr s k).getLsbD j &&
      rel (elemNan t (lane (vr s a) (elemWidth t) j) (lane (vr s b) (elemWidth t) j))
        (elemOrder t (lane (vr s a) (elemWidth t) j) (lane (vr s b) (elemWidth t) j))) := by
  refine ⟨_, givesK_of he, fun j => ?_⟩
  rw [tyLanes_eq ht, getLsbD_maskBits (lanes_le t), fmtBits_tyCode t ht, Bool.decide_and, Bool.decide_eq_true,
    Bool.decide_eq_true, Bool.and_assoc, ← rel_elem (lane_lt _ _ _) (lane_lt _ _ _) hri]

/-- The relations of the compares, on whether an element is a NaN and the order (R188). -/
def relEq (nan : Bool) (c : Int) : Bool := !nan && c == 0
def relNe (nan : Bool) (c : Int) : Bool := nan || c != 0
def relLt (nan : Bool) (c : Int) : Bool := !nan && decide (c < 0)
def relLe (nan : Bool) (c : Int) : Bool := !nan && decide (c ≤ 0)

theorem decide_eq_relEq (x y : Int) : decide (x = y) = relEq false (Int.sign (x - y)) := by
  rw [relEq, Bool.not_false, Bool.true_and, Bool.eq_iff_iff, decide_eq_true_iff, beq_iff_eq, Int.sign_eq_zero_iff_zero,
    sub_eq_zero]
theorem decide_ne_relNe (x y : Int) : decide (x ≠ y) = relNe false (Int.sign (x - y)) := by
  rw [relNe, Bool.false_or, Bool.eq_iff_iff, decide_eq_true_iff, bne_iff_ne, ne_eq, ne_eq, Int.sign_eq_zero_iff_zero,
    sub_eq_zero]
theorem decide_lt_relLt (x y : Int) : decide (x < y) = relLt false (Int.sign (x - y)) := by
  rw [relLt, Bool.not_false, Bool.true_and, Bool.eq_iff_iff, decide_eq_true_iff, decide_eq_true_iff, Int.sign_neg_iff,
    sub_neg]
theorem decide_le_relLe (x y : Int) : decide (x ≤ y) = relLe false (Int.sign (x - y)) := by
  rw [relLe, Bool.not_false, Bool.true_and, Bool.eq_iff_iff, decide_eq_true_iff, decide_eq_true_iff, Int.sign_nonpos_iff,
    sub_nonpos]

theorem exec_vceq (s : State) (w : BitVec 3) (t : BitVec 4) (d a b : BitVec 5) (k : BitVec 3) :
    exec (.vceq w t d a b k) s = compare s w t d a b k (fun x y => decide (x = y)) relEq := rfl
theorem exec_vcne (s : State) (w : BitVec 3) (t : BitVec 4) (d a b : BitVec 5) (k : BitVec 3) :
    exec (.vcne w t d a b k) s = compare s w t d a b k (fun x y => decide (x ≠ y)) relNe := rfl
theorem exec_vclt (s : State) (w : BitVec 3) (t : BitVec 4) (d a b : BitVec 5) (k : BitVec 3) :
    exec (.vclt w t d a b k) s = compare s w t d a b k (fun x y => decide (x < y)) relLt := rfl
theorem exec_vcle (s : State) (w : BitVec 3) (t : BitVec 4) (d a b : BitVec 5) (k : BitVec 3) :
    exec (.vcle w t d a b k) s = compare s w t d a b k (fun x y => decide (x ≤ y)) relLe := rfl

/-- An instruction that builds its destination lane by lane gives those lanes, cut to their width. -/
theorem givesV_buildLanes {i : Instr} {s : State} {w : BitVec 3} {d : BitVec 5} {lat wd n : Nat} {f g : Nat → Nat}
    (hn : wd * n ≤ 256) (he : exec i s = .next (retire (wv s d lat (buildLanes wd n f)) w)) (hf : ∀ j < n, f j % 2 ^ wd = g j) :
    ∃ v, GivesV i s w d lat v ∧ ∀ j < n, lane v wd j = g j :=
  ⟨_, givesV_of he, fun j hj => (lane_buildLanes wd n f hn hj).trans (hf j hj)⟩

theorem lane_mod (v : W256) (wd j : Nat) : lane v wd j % 2 ^ wd = lane v wd j := Nat.mod_eq_of_lt (lane_lt v wd j)

/-- `vsel` takes each lane from the source that its mask selects (R184). -/
theorem givesV_vsel (s : State) (w : BitVec 3) {t : BitVec 4} (d a b : BitVec 5) (k : BitVec 3) (ht : t.toNat < 9) :
    ∃ v, GivesV (.vsel w t d a b k) s w d 2 v ∧ ∀ j < 256 / elemWidth t, lane v (elemWidth t) j =
      if (kr s k).getLsbD j then lane (vr s a) (elemWidth t) j else lane (vr s b) (elemWidth t) j := by
  have he : exec (.vsel w t d a b k) s = .next (retire (wv s d 2 (buildLanes (fmtBits (tyCode t)) (tyLanes t) (fun i =>
    if (kr s k).getLsbD i then lane (vr s a) (fmtBits (tyCode t)) i else lane (vr s b) (fmtBits (tyCode t)) i))) w) := rfl
  rw [fmtBits_tyCode t ht, tyLanes_eq ht] at he
  refine givesV_buildLanes (elemWidth_mul_lanes t).le he fun j _ => ?_
  split <;> exact lane_mod _ _ _

/-! ### Byte-lane moves (R198) -/

/-- A byte-lane move completes lane by lane. -/
theorem givesLanes_byteMove {i : Instr} {s : State} {w : BitVec 3} {d : BitVec 5} {k : BitVec 3} {f g : Nat → Nat}
    (he : exec i s = byteMove s w d k f) (hf : ∀ j < 32, f j % 2 ^ 8 = g j) : GivesLanes i s w d k 2 8 32 g :=
  givesLanes_of (by decide) he hf

theorem givesLanes_vperm (s : State) (w : BitVec 3) (d a b : BitVec 5) (k : BitVec 3) :
    GivesLanes (.vperm w d a b k) s w d k 2 8 32
      (fun j => if 128 ≤ lane (vr s b) 8 j then 0 else lane (vr s a) 8 (lane (vr s b) 8 j % 32)) := by
  refine givesLanes_byteMove rfl fun j _ => ?_
  split
  · rfl
  · exact lane_mod _ _ _

/-- A slide by 32 or more, which the model counts as 32, moves every byte out as the full count does. -/
theorem givesLanes_vslideup (s : State) (w : BitVec 3) (d a m : BitVec 5) (k : BitVec 3) :
    GivesLanes (.vslideup w d a m k) s w d k 2 8 32
      (fun j => if (xr s m).toNat ≤ j then lane (vr s a) 8 (j - (xr s m).toNat) else 0) := by
  refine givesLanes_byteMove rfl fun j hj => ?_
  rw [slideBy]
  by_cases hin : (xr s m).toNat ≤ j
  · rw [min_eq_left (by omega), if_pos hin]
    exact lane_mod _ _ _
  · rw [if_neg hin, if_neg (by omega)]
    rfl

theorem givesLanes_vslidedn (s : State) (w : BitVec 3) (d a m : BitVec 5) (k : BitVec 3) :
    GivesLanes (.vslidedn w d a m k) s w d k 2 8 32
      (fun j => if j + (xr s m).toNat < 32 then lane (vr s a) 8 (j + (xr s m).toNat) else 0) := by
  refine givesLanes_byteMove rfl fun j hj => ?_
  rw [slideBy]
  by_cases hin : j + (xr s m).toNat < 32
  · rw [min_eq_left (by omega), if_pos hin]
    exact lane_mod _ _ _
  · rw [if_neg hin, if_neg (by omega)]
    rfl

theorem exec_vrget (s : State) (w : BitVec 3) (d m : BitVec 5) (k : BitVec 3) :
    exec (.vrget w d m k) s = if 32 ≤ (xr s m).toNat then .next (trapHere s 0x0F 0 (xr s m))
      else byteMove s w d k (fun i => lane ((me s).rv (xr s m).toNat) 8 i) := rfl

theorem givesLanes_vrget {s : State} {m : BitVec 5} (hin : (xr s m).toNat < 32) (w : BitVec 3) (d : BitVec 5) (k : BitVec 3) :
    GivesLanes (.vrget w d m k) s w d k 2 8 32 (fun j => lane ((me s).rv (xr s m).toNat) 8 j) :=
  givesLanes_byteMove ((exec_vrget s w d m k).trans (if_neg (by omega))) fun _ _ => lane_mod _ _ _

theorem traps_vrget {s : State} {m : BitVec 5} (hcan : canTrap s) (hout : 32 ≤ (xr s m).toNat) (w : BitVec 3) (d : BitVec 5)
    (k : BitVec 3) : Traps (.vrget w d m k) s 0x0F 0 (xr s m) (me s).pc :=
  Scalar.traps_of hcan ((exec_vrget s w d m k).trans (if_pos hout))

/-! ### Elements and scalars (R199) -/

/-- The elements of 8, 16, 32 or 64 bits fill a vector register. -/
theorem lanes_of_code {c : BitVec 3} (hc : c.toNat < 4) :
    256 / (8 * 2 ^ c.toNat) = 32 / 2 ^ c.toNat ∧ 8 * 2 ^ c.toNat * (32 / 2 ^ c.toNat) = 256 := by
  have hall : ∀ n < 4, 256 / (8 * 2 ^ n) = 32 / 2 ^ n ∧ 8 * 2 ^ n * (32 / 2 ^ n) = 256 := by decide
  exact hall c.toNat hc

theorem givesV_vbcast (s : State) (w : BitVec 3) (d m : BitVec 5) {c : BitVec 3} (hc : c.toNat < 4) :
    ∃ v, GivesV (.vbcast w d m c) s w d 2 v ∧
      ∀ j < 32 / 2 ^ c.toNat, lane v (8 * 2 ^ c.toNat) j = (xr s m).toNat % 2 ^ (8 * 2 ^ c.toNat) := by
  obtain ⟨hcount, hfill⟩ := lanes_of_code hc
  have he : exec (.vbcast w d m c) s = .next (retire (wv s d 2
    (buildLanes (8 * 2 ^ c.toNat) (256 / (8 * 2 ^ c.toNat)) (fun _ => (xr s m).toNat))) w) := rfl
  rw [hcount] at he
  exact givesV_buildLanes hfill.le he fun _ _ => rfl

theorem exec_vxget (s : State) (w : BitVec 3) (d a m : BitVec 5) (c : BitVec 3) :
    exec (.vxget w d a m c) s = if 32 / 2 ^ c.toNat ≤ (xr s m).toNat then .next (trapHere s 0x0F 0 (xr s m))
      else scalarResult s w d 2 (BitVec.ofNat 64 (lane (vr s a) (8 * 2 ^ c.toNat) (xr s m).toNat)) := rfl

theorem exec_vxput (s : State) (w : BitVec 3) (d b m : BitVec 5) (c : BitVec 3) :
    exec (.vxput w d b m c) s = if 32 / 2 ^ c.toNat ≤ (xr s m).toNat then .next (trapHere s 0x0F 0 (xr s m))
      else .next (retire (wv s d 2 (buildLanes (8 * 2 ^ c.toNat) (256 / (8 * 2 ^ c.toNat)) (fun j =>
        if j = (xr s m).toNat then (xr s b).toNat else lane (vr s d) (8 * 2 ^ c.toNat) j))) w) := rfl

theorem givesX_vxget {s : State} {m : BitVec 5} {c : BitVec 3} (hin : (xr s m).toNat < 32 / 2 ^ c.toNat) (w : BitVec 3)
    (d a : BitVec 5) : GivesX (.vxget w d a m c) s w d 2
      (BitVec.ofNat 64 (lane (vr s a) (8 * 2 ^ c.toNat) (xr s m).toNat)) :=
  givesX_of ((exec_vxget s w d a m c).trans (if_neg (Nat.not_le.2 hin)))

theorem givesV_vxput {s : State} {m : BitVec 5} {c : BitVec 3} (hc : c.toNat < 4) (hin : (xr s m).toNat < 32 / 2 ^ c.toNat)
    (w : BitVec 3) (d b : BitVec 5) : ∃ v, GivesV (.vxput w d b m c) s w d 2 v ∧
      ∀ j < 32 / 2 ^ c.toNat, lane v (8 * 2 ^ c.toNat) j =
        if j = (xr s m).toNat then (xr s b).toNat % 2 ^ (8 * 2 ^ c.toNat) else lane (vr s d) (8 * 2 ^ c.toNat) j := by
  obtain ⟨hcount, hfill⟩ := lanes_of_code hc
  have he := (exec_vxput s w d b m c).trans (if_neg (Nat.not_le.2 hin))
  rw [hcount] at he
  refine givesV_buildLanes hfill.le he fun j _ => ?_
  split
  · rfl
  · exact lane_mod _ _ _

theorem traps_element {s : State} {m : BitVec 5} {c : BitVec 3} (hcan : canTrap s) (hout : 32 / 2 ^ c.toNat ≤ (xr s m).toNat)
    (w : BitVec 3) (d a b : BitVec 5) : Traps (.vxget w d a m c) s 0x0F 0 (xr s m) (me s).pc ∧
      Traps (.vxput w d b m c) s 0x0F 0 (xr s m) (me s).pc :=
  ⟨Scalar.traps_of hcan ((exec_vxget s w d a m c).trans (if_pos hout)),
    Scalar.traps_of hcan ((exec_vxput s w d b m c).trans (if_pos hout))⟩

/-- Settles O16: a compare is read bit by bit, a move or an element write lane by lane, and each mask operation ends in one
register write. -/
theorem vectorComparesAndMoves : Obligations.VectorComparesAndMoves := by
  refine ⟨fun s w t d a b k ht => ?_, fun s w d a b m k c => ?_, fun s w d a b => ?_⟩
  · exact ⟨givesK_compare ht (exec_vceq s w t d a b k) decide_eq_relEq,
      givesK_compare ht (exec_vcne s w t d a b k) decide_ne_relNe,
      givesK_compare ht (exec_vclt s w t d a b k) decide_lt_relLt,
      givesK_compare ht (exec_vcle s w t d a b k) decide_le_relLe, givesV_vsel s w d a b k ht⟩
  · exact ⟨givesLanes_byteMove rfl fun _ _ => lane_mod _ _ _, givesLanes_vperm s w d a b k,
      givesLanes_vslideup s w d a m k, givesLanes_vslidedn s w d a m k, fun hin => givesLanes_vrget hin w d k,
      fun hcan hout => traps_vrget hcan hout w d k,
      fun hc => ⟨givesV_vbcast s w d m hc, fun hin => givesX_vxget hin w d a, fun hin => givesV_vxput hc hin w d b,
        fun hcan hout => traps_element hcan hout w d a b⟩⟩
  · exact ⟨givesK_of rfl, givesK_of rfl, givesK_of rfl, givesK_of rfl, givesK_of rfl, givesX_of rfl⟩

end Sys2Proof.Vectors
end

section
/-! SUPPORT. Reductions: the pairwise tree over an associative node, and the flags its nodes raise (R149, R189). -/
namespace Sys2Proof.Vectors
open Sys2Proof Sys2Proof.Machine Sys2Proof.Safety

/-! ### The pairwise tree -/

/-- A level of the tree halves the values. -/
theorem length_treeLevel {α : Type} (node : α → α → α × Nat) (m : Nat) : ∀ l : List α, l.length = 2 * m →
    (treeLevel node l).1.length = m := by
  induction m with
  | zero => intro l hl; rw [List.length_eq_zero_iff.1 hl]; rfl
  | succ m ih =>
    intro l hl
    match l, hl with
    | x :: y :: r, hl => exact congrArg (· + 1) (ih r (by simpa [Nat.mul_add] using hl))

/-- A level whose node is associative leaves what the values fold to, from any end value. -/
theorem foldr_treeLevel {α : Type} {op : α → α → α} (hassoc : ∀ x y z, op (op x y) z = op x (op y z)) (e : α) (m : Nat) :
    ∀ l : List α, l.length = 2 * m → (treeLevel (fun x y => (op x y, 0)) l).1.foldr op e = l.foldr op e := by
  induction m with
  | zero => intro l hl; rw [List.length_eq_zero_iff.1 hl]; rfl
  | succ m ih =>
    intro l hl
    match l, hl with
    | x :: y :: r, hl =>
      have hrest := ih r (by simpa [Nat.mul_add] using hl)
      exact (hassoc x y _).trans (congrArg (fun z => op x (op y z)) hrest)

/-- The end value stays neutral for the values of a level when it is for those below. -/
theorem neutral_treeLevel {α : Type} {op : α → α → α} (hassoc : ∀ x y z, op (op x y) z = op x (op y z)) {e : α} (m : Nat) :
    ∀ l : List α, l.length = 2 * m → (∀ x ∈ l, op x e = x) → ∀ x ∈ (treeLevel (fun x y => (op x y, 0)) l).1, op x e = x := by
  induction m with
  | zero => intro l hl _; rw [List.length_eq_zero_iff.1 hl]; exact fun _ hx => nomatch hx
  | succ m ih =>
    intro l hl he
    match l, hl, he with
    | x :: y :: r, hl, he =>
      intro z hz
      rcases List.mem_cons.1 hz with rfl | hz
      · rw [hassoc, he y (by simp)]
      · exact ih r (by simpa [Nat.mul_add] using hl) (fun u hu => he u (by simp [hu])) z hz

/-- The tree over an associative node gives what the values fold to from a neutral end value. -/
theorem tree_eq_foldr {α : Type} {op : α → α → α} (hassoc : ∀ x y z, op (op x y) z = op x (op y z)) {e : α} (n : Nat) :
    ∀ l : List α, l.length = 2 ^ n → (∀ x ∈ l, op x e = x) → (tree (fun x y => (op x y, 0)) n l).1 = [l.foldr op e] := by
  induction n with
  | zero =>
    intro l hl he
    obtain ⟨x, rfl⟩ := List.length_eq_one_iff.1 hl
    exact congrArg (fun z => [z]) (he x (by simp)).symm
  | succ n ih =>
    intro l hl he
    rw [pow_succ'] at hl
    have hlevel := ih _ (length_treeLevel _ _ l hl) (neutral_treeLevel hassoc _ l hl he)
    rw [foldr_treeLevel hassoc e _ l hl] at hlevel
    exact hlevel

/-- The flags of a level lie below a power of two when each node's do. -/
theorem treeLevel_flags_lt {α : Type} {node : α → α → α × Nat} {b : Nat} (hnode : ∀ x y, (node x y).2 < 2 ^ b) :
    ∀ l : List α, (treeLevel node l).2 < 2 ^ b
  | [] => Nat.two_pow_pos b
  | [_] => Nat.two_pow_pos b
  | x :: y :: r => Nat.or_lt_two_pow (hnode x y) (treeLevel_flags_lt hnode r)

theorem tree_flags_lt {α : Type} {node : α → α → α × Nat} {b : Nat} (hnode : ∀ x y, (node x y).2 < 2 ^ b) (n : Nat) :
    ∀ l : List α, (tree node n l).2 < 2 ^ b := by
  induction n with
  | zero => exact fun _ => Nat.two_pow_pos b
  | succ n ih => exact fun l => Nat.or_lt_two_pow (treeLevel_flags_lt hnode l) (ih _)

/-! ### The flags of a node -/

theorem addNum_flags (mode : Nat) : ∀ x y : Machine.Num, (addNum mode x y).2 = 0 ∨ (addNum mode x y).2 = fNV
  | .nan _, _ => .inl rfl
  | .inf _, .nan _ => .inl rfl
  | .fin .., .nan _ => .inl rfl
  | .inf a, .inf b => by
    rw [addNum]
    split
    · exact .inl rfl
    · exact .inr rfl
  | .inf _, .fin .. => .inl rfl
  | .fin .., .inf _ => .inl rfl
  | .fin .., .fin .. => .inl rfl

theorem addNum_flags_lt (mode : Nat) (x y : Machine.Num) : (addNum mode x y).2 < 2 ^ 7 := by
  rcases addNum_flags mode x y with h | h <;> rw [h] <;> decide

/-- A rounding sets only flags of Table 5-8. -/
theorem roundFp_flags_lt (f : FpFmt) (r : Rnd) (x : Machine.Num) : (roundFp f r x).2 < 2 ^ 7 := by
  cases x with
  | nan neg => rw [roundFp]; split <;> exact Nat.le_of_ble_eq_true rfl
  | inf neg => rw [roundFp]; split <;> exact Nat.le_of_ble_eq_true rfl
  | fin neg m e =>
    simp only [roundFp]
    split_ifs <;> exact Nat.le_of_ble_eq_true rfl

/-! ### How a reduction ends -/

theorem invalidLanes_one (r : Nat × Nat) : invalidLanes [r] = r.2 % 2 := by
  rw [invalidLanes, invalidLanes]
  split <;> omega

/-- A result of one lane traps with bit 0 set when it is invalid under FIE, and lands with its flags when not (R137). -/
theorem finishVec_one (s : State) (w : BitVec 3) (d : BitVec 5) (lat : Nat) (r : Nat × Nat) (v : W256) :
    finishVec s s w d lat [r] v = if fieOf (me s) = true ∧ r.2 % 2 = 1 then .next (trapHere s 0x0E 0 1)
      else .next (retire (wflags (wv s d lat v) lat r.2) w) := by
  have hflags : orAll [r] = r.2 := Nat.or_zero r.2
  rw [finishVec, hflags, invalidLanes_one]
  by_cases htrap : fieOf (me s) = true ∧ r.2 % 2 = 1
  · obtain ⟨hfie, hinv⟩ := htrap
    rw [hinv, if_pos ⟨hfie, Nat.one_ne_zero⟩, if_pos ⟨hfie, rfl⟩]
    rfl
  · rw [if_neg htrap, if_neg fun h => htrap ⟨h.1, Nat.mod_two_ne_zero.1 h.2⟩]

/-- A reduction whose flags are not to trap gives its result and its flags. -/
theorem givesFlags_finishVec_one {i : Instr} {s : State} {w : BitVec 3} {d : BitVec 5} {lat b fl : Nat} {v : W256}
    (he : exec i s = finishVec s s w d lat [(b, fl)] v) (hgo : ¬ (fieOf (me s) = true ∧ fl % 2 = 1)) (hq : flagsQuiet s lat)
    (hfl : fl < 2 ^ 64) : GivesFlags i s w d lat v fl :=
  givesDrawn_of ⟨rfl, rfl, rfl⟩ hq hfl (he.trans ((finishVec_one s w d lat (b, fl) v).trans (if_neg hgo)))

theorem traps_finishVec_one {i : Instr} {s : State} {w : BitVec 3} {d : BitVec 5} {lat b fl : Nat} {v : W256}
    (he : exec i s = finishVec s s w d lat [(b, fl)] v) (hcan : canTrap s) (hfie : fieOf (me s) = true) (hinv : fl % 2 = 1) :
    Traps i s 0x0E 0 1 (me s).pc :=
  Scalar.traps_of hcan (he.trans ((finishVec_one s w d lat (b, fl) v).trans (if_pos ⟨hfie, hinv⟩)))

/-! ### Integer reductions -/

/-- The values that an integer reduction combines: an inactive lane stands for the identity. -/
def redInts (s : State) (t : BitVec 4) (a : BitVec 5) (k : BitVec 3) (z : Int) : List Int :=
  (List.range (256 / elemWidth t)).map (fun j => if (kr s k).getLsbD j then elemInt t (lane (vr s a) (elemWidth t) j) else z)

theorem lanes_eq_two_pow : ∀ t : BitVec 4, 256 / elemWidth t = 2 ^ Nat.log2 (256 / elemWidth t) := by decide

theorem length_redInts (s : State) (t : BitVec 4) (a : BitVec 5) (k : BitVec 3) (z : Int) :
    (redInts s t a k z).length = 2 ^ Nat.log2 (256 / elemWidth t) := by
  rw [redInts, List.length_map, List.length_range]
  exact lanes_eq_two_pow t

/-- A bound of the elements and of the identity bounds the values that are combined. -/
theorem forall_mem_redInts {s : State} {t : BitVec 4} {a : BitVec 5} {k : BitVec 3} {z : Int} {p : Int → Prop} (hz : p z)
    (hx : ∀ x < 2 ^ elemWidth t, p (elemInt t x)) : ∀ v ∈ redInts s t a k z, p v := by
  intro v hv
  obtain ⟨j, -, rfl⟩ := List.mem_map.1 hv
  split
  · exact hx _ (lane_lt _ _ _)
  · exact hz

theorem reduce_int (s : State) (w : BitVec 3) {t : BitVec 4} (d a : BitVec 5) (k : BitVec 3) (ni : Int → Int → Int) (zi : Int)
    (nf : Machine.Num → Machine.Num → Machine.Num × Nat) (zf : Machine.Num) (ht : t.toNat < 6) :
    reduce s w t d a k ni zi nf zf =
      let b := elemBits t
        ((tree (fun x y => (ni x y, 0)) (Nat.log2 (256 / elemWidth t)) (redInts s t a k zi)).1.headD zi)
      finishVec s s w d 6 [(b, 0)] (BitVec.ofNat 256 b) := by
  have hvals : (List.range (256 / elemWidth t)).map (fun j =>
      if (kr s k).getLsbD j then laneInt (tyCode t) (lane (vr s a) (elemWidth t) j) else zi) = redInts s t a k zi :=
    List.map_congr_left fun j _ => by rw [laneInt_eq_elemInt ht (lane_lt _ _ _)]
  simp only [reduce, tyFloat_of_lt ht, Bool.false_eq_true, if_false, tyLanes_eq (show t.toNat < 9 by omega),
    fmtBits_tyCode t (by omega), hvals, intLane_eq_elemBits ht]

/-- An integer reduction by an associative node gives what the active lanes fold to. -/
theorem givesFlags_reduce_int {i : Instr} {s : State} {w : BitVec 3} {t : BitVec 4} {d a : BitVec 5} {k : BitVec 3}
    {op : Int → Int → Int} {z : Int} {nf : Machine.Num → Machine.Num → Machine.Num × Nat} {zf : Machine.Num}
    (he : exec i s = reduce s w t d a k op z nf zf) (ht : t.toNat < 6) (hq : flagsQuiet s 6)
    (hassoc : ∀ x y z, op (op x y) z = op x (op y z)) (hz : ∀ v ∈ redInts s t a k z, op v z = v) :
    GivesFlags i s w d 6 (BitVec.ofNat 256 (elemBits t ((redInts s t a k z).foldr op z))) 0 := by
  rw [reduce_int s w d a k op z nf zf ht, tree_eq_foldr hassoc _ _ (length_redInts s t a k z) hz] at he
  exact givesFlags_finishVec_one he (fun h => absurd h.2 (by decide)) hq (by decide)

theorem exec_vredsum (s : State) (w : BitVec 3) (t : BitVec 4) (d a : BitVec 5) (k : BitVec 3) :
    exec (.vredsum w t d a k) s = reduce s w t d a k (· + ·) 0 (addNum (vecRnd s).mode) (.fin true 0 0) := rfl
theorem exec_vredmin (s : State) (w : BitVec 3) (t : BitVec 4) (d a : BitVec 5) (k : BitVec 3) :
    exec (.vredmin w t d a k) s =
      reduce s w t d a k min (intMax (tyCode t)) (fun x y => (minmaxNum false x y, 0)) (.inf false) := rfl
theorem exec_vredmax (s : State) (w : BitVec 3) (t : BitVec 4) (d a : BitVec 5) (k : BitVec 3) :
    exec (.vredmax w t d a k) s =
      reduce s w t d a k max (intMin (tyCode t)) (fun x y => (minmaxNum true x y, 0)) (.inf true) := rfl

theorem givesFlags_vredsum_int {s : State} (w : BitVec 3) {t : BitVec 4} (d a : BitVec 5) (k : BitVec 3) (ht : t.toNat < 6)
    (hq : flagsQuiet s 6) :
    GivesFlags (.vredsum w t d a k) s w d 6 (BitVec.ofNat 256 (elemBits t (redInts s t a k 0).sum)) 0 := by
  rw [List.sum_eq_foldr]
  exact givesFlags_reduce_int (exec_vredsum s w t d a k) ht hq Int.add_assoc fun v _ => Int.add_zero v

theorem givesFlags_vredmin_int {s : State} (w : BitVec 3) {t : BitVec 4} (d a : BitVec 5) (k : BitVec 3) (ht : t.toNat < 6)
    (hq : flagsQuiet s 6) : GivesFlags (.vredmin w t d a k) s w d 6
      (BitVec.ofNat 256 (elemBits t ((redInts s t a k (intMax (tyCode t))).foldr min (intMax (tyCode t))))) 0 :=
  givesFlags_reduce_int (exec_vredmin s w t d a k) ht hq min_assoc
    fun v hv => min_eq_left (forall_mem_redInts (p := (· ≤ intMax (tyCode t))) le_rfl (fun _ hx => elemInt_le_intMax ht hx) v hv)

theorem givesFlags_vredmax_int {s : State} (w : BitVec 3) {t : BitVec 4} (d a : BitVec 5) (k : BitVec 3) (ht : t.toNat < 6)
    (hq : flagsQuiet s 6) : GivesFlags (.vredmax w t d a k) s w d 6
      (BitVec.ofNat 256 (elemBits t ((redInts s t a k (intMin (tyCode t))).foldr max (intMin (tyCode t))))) 0 :=
  givesFlags_reduce_int (exec_vredmax s w t d a k) ht hq max_assoc
    fun v hv => max_eq_left (forall_mem_redInts (p := (intMin (tyCode t) ≤ ·)) le_rfl (fun x _ => intMin_le_elemInt ht x) v hv)

/-! ### Float reductions -/

/-- The values that a float reduction combines: an inactive lane stands for the identity. -/
def redNums (s : State) (t : BitVec 4) (a : BitVec 5) (k : BitVec 3) (f : FpFmt) (z : Machine.Num) : List Machine.Num :=
  (List.range (256 / elemWidth t)).map (fun j =>
    if (kr s k).getLsbD j then decodeFp f (lane (vr s a) (elemWidth t) j) else z)
/-- A node of a float reduction: the result rounded into the format, with the flags of the operation and the rounding. -/
def fpNode (f : FpFmt) (r : Rnd) (op : Machine.Num → Machine.Num → Machine.Num × Nat) (x y : Machine.Num) : Machine.Num × Nat :=
  (decodeFp f (roundFp f r (op x y).1).1, Nat.lor (roundFp f r (op x y).1).2 (op x y).2)
/-- The levels of the tree over the lanes of a float type. -/
def fpLevels (t : BitVec 4) : Nat := if t.toNat = 8 then 3 else 4
/-- What a float reduction's tree leaves, with the flags of all its nodes. -/
def redTree (s : State) (t : BitVec 4) (a : BitVec 5) (k : BitVec 3) (f : FpFmt)
    (op : Machine.Num → Machine.Num → Machine.Num × Nat) (z : Machine.Num) : List Machine.Num × Nat :=
  tree (fpNode f (vecRnd s) op) (fpLevels t) (redNums s t a k f z)

theorem log2_lanes : ∀ t : BitVec 4, 6 ≤ t.toNat → t.toNat < 9 → Nat.log2 (256 / elemWidth t) = fpLevels t := by decide

theorem redTree_flags_lt {op : Machine.Num → Machine.Num → Machine.Num × Nat} (hop : ∀ x y, (op x y).2 < 2 ^ 7) (s : State)
    (t : BitVec 4) (a : BitVec 5) (k : BitVec 3) (f : FpFmt) (z : Machine.Num) : (redTree s t a k f op z).2 < 2 ^ 64 :=
  lt_of_lt_of_le (tree_flags_lt (fun x y => Nat.or_lt_two_pow (roundFp_flags_lt f _ _) (hop x y)) _ _)
    (Nat.pow_le_pow_right (by decide) (by decide))

section
variable {t : BitVec 4} {f : FpFmt} (ht : 6 ≤ t.toNat) (ht9 : t.toNat < 9) (hf : fpFmt (tyCode t) = some f)
include ht ht9 hf

theorem reduce_float (s : State) (w : BitVec 3) (d a : BitVec 5) (k : BitVec 3) (ni : Int → Int → Int) (zi : Int)
    (nf : Machine.Num → Machine.Num → Machine.Num × Nat) (zf : Machine.Num) :
    reduce s w t d a k ni zi nf zf =
      let out := redTree s t a k f nf zf
      let b := (roundFp f (vecRnd s) (out.1.headD zf)).1
      finishVec s s w d 6 [(b, out.2)] (BitVec.ofNat 256 b) := by
  have hnode : (fun x y => (decodeFp f (fpResult s (tyCode t) (nf x y)).1, (fpResult s (tyCode t) (nf x y)).2)) =
      fpNode f (vecRnd s) nf := by
    funext x y
    rw [fpResult, roundTo_of_fpFmt hf, fpNode]
  simp only [reduce, tyFloat_of_le ht, if_true, tyLanes_eq ht9, fmtBits_tyCode t ht9, decodeNum_of_fpFmt ht ht9 hf,
    roundTo_of_fpFmt hf, hnode, log2_lanes t ht ht9]
  rfl

/-- A float reduction gives the value at the root of its tree with the flags of its nodes, or traps when one of them is
invalid under FIE. -/
theorem givesFlags_or_traps_reduce_float {i : Instr} {s : State} {w : BitVec 3} {d a : BitVec 5} {k : BitVec 3}
    {ni : Int → Int → Int} {zi : Int} {op : Machine.Num → Machine.Num → Machine.Num × Nat} {z : Machine.Num}
    (he : exec i s = reduce s w t d a k ni zi op z) (hop : ∀ x y, (op x y).2 < 2 ^ 7) :
    (¬ (fieOf (me s) = true ∧ (redTree s t a k f op z).2 % 2 = 1) → flagsQuiet s 6 → GivesFlags i s w d 6
      (BitVec.ofNat 256 (roundFp f (vecRnd s) ((redTree s t a k f op z).1.headD z)).1) (redTree s t a k f op z).2) ∧
    (canTrap s → fieOf (me s) = true → (redTree s t a k f op z).2 % 2 = 1 → Traps i s 0x0E 0 1 (me s).pc) := by
  rw [reduce_float ht ht9 hf s w d a k ni zi op z] at he
  exact ⟨fun hgo hq => givesFlags_finishVec_one he hgo hq (redTree_flags_lt hop s t a k f z), traps_finishVec_one he⟩

end

/-- Settles O17: an integer reduction is the fold of its associative node, a float one the tree of its rounded nodes. -/
theorem vectorReductions : Obligations.VectorReductions := by
  refine ⟨fun s w t d a k ht hq => ?_, fun s w t d a k f ht ht9 hf => ?_⟩
  · have hmin := givesFlags_vredmin_int w d a k ht hq
    have hmax := givesFlags_vredmax_int w d a k ht hq
    rw [intMax_tyCode ht] at hmin
    rw [intMin_tyCode ht] at hmax
    exact ⟨givesFlags_vredsum_int w d a k ht hq, hmin, hmax⟩
  · exact ⟨givesFlags_or_traps_reduce_float ht ht9 hf (exec_vredsum s w t d a k) (addNum_flags_lt _),
      givesFlags_or_traps_reduce_float ht ht9 hf (exec_vredmin s w t d a k) fun _ _ => Nat.two_pow_pos 7,
      givesFlags_or_traps_reduce_float ht ht9 hf (exec_vredmax s w t d a k) fun _ _ => Nat.two_pow_pos 7⟩

end Sys2Proof.Vectors
end

section
/-! SUPPORT. Dwords stored to the core's own local memory below the Letterbox (R94), and what goes on after them. -/
namespace Sys2Proof.Sinters
open Sys2Proof Sys2Proof.Machine Sys2Proof.Safety Sys2Proof.Scalar

/-! ### States of one turn -/

theorem slotAt_of_turn {s t : State} (h : Scalar.turn t = Scalar.turn s) (n : Nat) : slotAt t n = slotAt s n := by
  rw [slotAt, slotAt, me_of_turn h, curSlot_of_turn h]

theorem onward_of_turn {s u t : State} {w : BitVec 3} (h : Scalar.turn u = Scalar.turn s) (ht : Onward u t w) : Onward s t w := by
  rwa [Onward, Goes, me_of_turn h, now_of_turn h] at ht

theorem memByte_of_mineOnly {s t : State} (h : MineOnly s t) (x : Nat) : memByte t x = memByte s x := by
  have hmem := congrArg State.mem h.1
  exact congrArg (fun m => FMap.get 0 m x) hmem

/-! ### A scalar result -/

theorem onward_wx (s : State) (w : BitVec 3) (d : BitVec 5) (lat : Nat) (v : W64) : Onward s (retire (wx s d lat v) w) w := by
  have h := onward_retire (wx s d lat v) w
  rwa [Onward, Goes, wx, me_wreg_pc, mineOnly_now (mineOnly_wreg _ _ _ _ _)] at h

theorem mineOnly_wx (s : State) (w : BitVec 3) (d : BitVec 5) (lat : Nat) (v : W64) : MineOnly s (retire (wx s d lat v) w) :=
  mineOnly_trans (mineOnly_wreg _ _ _ _ _) (mineOnly_retire _ w)

theorem bare_wx (s : State) (w : BitVec 3) (d : BitVec 5) (lat : Nat) (v : W64) (n : Nat) :
    bare (slotAt (retire (wx s d lat v) w) n) = bare (if n < s.now + lat then slotAt s n else putX (slotAt s n) d.toNat v) := by
  rw [bare_retire, wx, bare_wreg s .x _ _ _ (.inl rfl), bare_land_x]

/-! ### What stores of whole dwords change -/

/-- `t` is `s` but for memory and for error marks of local dwords, which a store of a whole dword clears (R94). -/
def StoredFrom (s t : State) : Prop :=
  { t with mem := s.mem, localBad := s.localBad } = s ∧
  ∀ k, t.localBad.find k = s.localBad.find k ∨ t.localBad.find k = none

theorem storedFrom_refl (s : State) : StoredFrom s s := ⟨rfl, fun _ => .inl rfl⟩

theorem storedFrom_trans {s t u : State} (h : StoredFrom s t) (g : StoredFrom t u) : StoredFrom s u := by
  obtain ⟨hframe, hbad⟩ := h
  obtain ⟨gframe, gbad⟩ := g
  refine ⟨(congrArg (fun x : State => { x with mem := s.mem, localBad := s.localBad }) gframe).trans hframe, fun k => ?_⟩
  rcases gbad k with hsame | hnone
  · rw [hsame]; exact hbad k
  · exact .inr hnone

theorem turn_of_storedFrom {s t : State} (h : StoredFrom s t) : Scalar.turn t = Scalar.turn s := by
  have hturn := congrArg Scalar.turn h.1
  exact hturn

theorem curCore_of_storedFrom {s t : State} (h : StoredFrom s t) : t.curCore = s.curCore := by
  have hcore := congrArg State.curCore h.1
  exact hcore

/-- Beside what an update of the issuing slot changes, a store before it changes memory and error marks. -/
theorem frame_of_storedFrom {s u t : State} (h : StoredFrom s u) (ht : MineOnly u t) :
    { t with slots := s.slots, issued := s.issued, mem := s.mem, localBad := s.localBad } = s := by
  have hmine := congrArg (fun x : State =>
    { x with slots := s.slots, issued := s.issued, mem := s.mem, localBad := s.localBad }) ht.1
  have hstore := congrArg (fun x : State => { x with slots := s.slots, issued := s.issued }) h.1
  exact hmine.trans hstore

/-! ### One dword -/

/-- A byte of a dword as it stands in memory, the lowest address least significant (R6). -/
theorem ofNat_div_eq_extract (v : W64) (j : Nat) : BitVec.ofNat 8 (v.toNat / 256 ^ j) = v.extractLsb' (8 * j) 8 := by
  apply BitVec.eq_of_toNat_eq
  rw [BitVec.toNat_ofNat, BitVec.extractLsb'_toNat, Nat.shiftRight_eq_div_pow, Nat.pow_mul]

theorem storeLocal_eq_wr64 {s : State} {a : Nat} (v : W64) (hc : s.curCore < 2048) (ha : a + 8 ≤ 0x3FE00) :
    storeLocal s a v =
      wr64 { s with localBad := s.localBad.del (localPa s.curCore a / 8) } (localPa s.curCore a) v := by
  rw [storeLocal, if_neg (by omega), putDword, backing_localPa hc (by omega), freshDword, placeOf_localPa hc (by omega)]

theorem memByte_storeLocal {s : State} {a : Nat} (v : W64) (hc : s.curCore < 2048) (ha : a + 8 ≤ 0x3FE00) (x : Nat) :
    memByte (storeLocal s a v) x = if localPa s.curCore a ≤ x ∧ x < localPa s.curCore a + 8 then
      v.extractLsb' (8 * (x - localPa s.curCore a)) 8 else memByte s x := by
  rw [storeLocal_eq_wr64 v hc ha, wr64, memByte_wrN, ofNat_div_eq_extract]
  rfl

theorem storedFrom_storeLocal {s : State} {a : Nat} (v : W64) (hc : s.curCore < 2048) (ha : a + 8 ≤ 0x3FE00) :
    StoredFrom s (storeLocal s a v) := by
  rw [storeLocal_eq_wr64 v hc ha, wr64]
  have hframe := wrN_frame 8 { s with localBad := s.localBad.del (localPa s.curCore a / 8) } (localPa s.curCore a) v.toNat
  refine ⟨congrArg (fun x : State => { x with localBad := s.localBad }) hframe, fun k => ?_⟩
  have hbad := congrArg State.localBad hframe
  dsimp only at hbad
  rw [hbad]
  by_cases hk : localPa s.curCore a / 8 = k
  · subst hk; exact .inr (FMap.find_del_same _ _)
  · exact .inl (FMap.find_del_other _ hk)

/-! ### Several dwords in order -/

/-- Dwords stored one after another from a local address on. -/
def storeDwords (a : Nat) : List W64 → State → State
  | [], s => s
  | v :: r, s => storeDwords (a + 8) r (storeLocal s a v)

/-- `snorm`'s fold stores its dwords in order. -/
theorem foldl_storeLocal (k : Nat) (l : List Nat) : ∀ (i : Nat) (s : State),
    (l.zipIdx i).foldl (fun s q => storeLocal s (k + 8 * q.2) (BitVec.ofNat 64 q.1)) s =
      storeDwords (k + 8 * i) (l.map (BitVec.ofNat 64)) s := by
  induction l with
  | nil => intro i s; rfl
  | cons v r ih =>
    intro i s
    rw [List.zipIdx_cons, List.foldl_cons, ih, List.map_cons, storeDwords]
    rfl

theorem storedFrom_storeDwords (l : List W64) : ∀ {s : State} {a : Nat}, s.curCore < 2048 → a + 8 * l.length ≤ 0x3FE00 →
    StoredFrom s (storeDwords a l s) := by
  induction l with
  | nil => intro s a _ _; exact storedFrom_refl s
  | cons v r ih =>
    intro s a hc ha
    rw [List.length_cons] at ha
    have hfirst := storedFrom_storeLocal v hc (show a + 8 ≤ 0x3FE00 by omega)
    exact storedFrom_trans hfirst (ih (by rwa [curCore_of_storedFrom hfirst]) (by omega))

/-- Outside the dwords stored, memory stands as it did. -/
theorem memByte_storeDwords_outside (l : List W64) : ∀ {s : State} {a : Nat}, s.curCore < 2048 → a + 8 * l.length ≤ 0x3FE00 →
    ∀ {x : Nat}, x < localPa s.curCore a ∨ localPa s.curCore a + 8 * l.length ≤ x →
      memByte (storeDwords a l s) x = memByte s x := by
  induction l with
  | nil => intros; rfl
  | cons v r ih =>
    intro s a hc ha x hx
    rw [List.length_cons] at ha hx
    have hcore := curCore_of_storedFrom (storedFrom_storeLocal v hc (show a + 8 ≤ 0x3FE00 by omega))
    rw [storeDwords, ih (by rwa [hcore]) (by omega) (by rw [hcore]; unfold localPa at hx ⊢; omega),
      memByte_storeLocal v hc (by omega), if_neg (by omega)]

/-- Inside, each byte is one of the dword stored there. -/
theorem memByte_storeDwords_inside (l : List W64) : ∀ {s : State} {a : Nat}, s.curCore < 2048 → a + 8 * l.length ≤ 0x3FE00 →
    ∀ {j : Nat}, j < 8 * l.length →
      memByte (storeDwords a l s) (localPa s.curCore a + j) = (l.getD (j / 8) 0).extractLsb' (8 * (j % 8)) 8 := by
  induction l with
  | nil => intro s a _ _ j hj; exact absurd hj (Nat.not_lt_zero _)
  | cons v r ih =>
    intro s a hc ha j hj
    rw [List.length_cons] at ha hj
    have hcore := curCore_of_storedFrom (storedFrom_storeLocal v hc (show a + 8 ≤ 0x3FE00 by omega))
    have hnext : localPa s.curCore (a + 8) = localPa s.curCore a + 8 := by unfold localPa; omega
    rw [storeDwords]
    by_cases hfirst : j < 8
    · rw [memByte_storeDwords_outside r (by rwa [hcore]) (by omega) (by rw [hcore, hnext]; omega),
        memByte_storeLocal v hc (by omega), if_pos (by omega), Nat.add_sub_cancel_left, Nat.div_eq_of_lt hfirst,
        Nat.mod_eq_of_lt hfirst]
      rfl
    · have hrest := ih (s := storeLocal s a v) (a := a + 8) (by rwa [hcore]) (by omega) (j := j - 8) (by omega)
      rw [hcore, hnext, show localPa s.curCore a + 8 + (j - 8) = localPa s.curCore a + j by omega,
        show (j - 8) % 8 = j % 8 by omega] at hrest
      rw [hrest, show j / 8 = (j - 8) / 8 + 1 by omega, List.getD_cons_succ]

/-- An instruction that stores dwords of its own core's local memory and goes on, completes so. -/
theorem stores_of_storedFrom {i : Instr} {s u : State} {w : BitVec 3} (h : StoredFrom s u)
    (he : exec i s = .next (retire u w)) : Stores i s w (memByte u) := by
  have hmine := mineOnly_retire u w
  have hturn := turn_of_storedFrom h
  have hbad : (retire u w).localBad = u.localBad := rfl
  refine ⟨_, he, onward_of_turn hturn (onward_retire u w), memByte_of_mineOnly hmine, frame_of_storedFrom h hmine,
    fun k => hbad ▸ h.2 k, fun key hkey => ?_, fun n => ?_⟩
  · have hcore : u.curCore = s.curCore := curCore_of_storedFrom h
    have hslots : u.slots = s.slots := congrArg Prod.fst hturn
    rw [hmine.2 key (by rwa [hcore, curSlot_of_turn hturn]), hslots]
  · rw [← slotAt_of_turn hturn n]
    exact congrArg (fun x : Slot => { x with retry := false }) (bare_retire u w n)

end Sys2Proof.Sinters
end

section
/-! SUPPORT. The join of the Sinter (R358), and the checks of an address that a record or a summary stands at (R89). -/
namespace Sys2Proof.Sinters
open Sys2Proof Sys2Proof.Machine Sys2Proof.Safety Sys2Proof.Scalar

/-! ### The join -/

/-- No operation of the Sinter is on its way at the core, and no fault of one is recorded for the issuing slot. -/
def Joined (s : State) : Prop := (myCore s).sq = [] ∧ ∀ r ∈ (me s).records, r.unit ≠ 5

/-- A slot with its recorded faults replaced. -/
def withRecords (l : List Rec) (u : Slot) : Slot := { u with records := l }

/-- An instruction delivers a recorded fault: it traps for it, with the other records left. -/
def Delivers (i : Instr) (s : State) (r : Rec) (rest : List Rec) : Prop :=
  ∃ t, exec i s = .next t ∧ TrapEntry (modMe s (withRecords rest)) t r.cause r.unit r.value (me s).pc

theorem stalls_stallMe {i : Instr} {s : State} (he : exec i s = .next (stallMe s)) : Stalls i s := by
  refine ⟨_, he, rfl, mineOnly_modMe _ _, ?_⟩
  rw [stallMe, me_modMe]

theorem delivers_trapHere {i : Instr} {s : State} {r : Rec} {rest : List Rec} (h : canTrap s)
    (he : exec i s = .next (trapHere (modMe s (withRecords rest)) r.cause r.unit r.value)) : Delivers i s r rest := by
  have hcan : canTrap (modMe s (withRecords rest)) := ⟨h.1, by rw [me_modMe]; exact h.2⟩
  have hpc : (me (modMe s (withRecords rest))).pc = (me s).pc := by rw [me_modMe]; rfl
  exact ⟨_, he, hpc ▸ trapEntry_takeTrap hcan _ _ _ _⟩

theorem sinterJoin_of_joined {s : State} (h : Joined s) : sinterJoin s = none := by
  obtain ⟨hidle, hclean⟩ := h
  have hfind : (me s).records.find? (fun r => r.unit == 5) = none :=
    List.find?_eq_none.2 fun r hr => by simpa using hclean r hr
  rw [sinterJoin, if_neg (not_not.2 hidle), deliverRec, hfind]

theorem sinterJoin_of_busy {s : State} (h : (myCore s).sq ≠ []) : sinterJoin s = some (stallMe s) := if_pos h

/-- Of the slot's records, the join takes the oldest one of the Sinter. -/
theorem sinterJoin_of_record {s : State} {older younger : List Rec} {r : Rec} (hidle : (myCore s).sq = [])
    (hrecords : (me s).records = older ++ r :: younger) (hunit : r.unit = 5) (holder : ∀ x ∈ older, x.unit ≠ 5) :
    sinterJoin s = some (trapHere (modMe s (withRecords (older ++ younger))) r.cause r.unit r.value) := by
  have hfind : (me s).records.find? (fun r => r.unit == 5) = some r := by
    rw [hrecords, List.find?_append, List.find?_eq_none.2 fun x hx => by simpa using holder x hx,
      List.find?_cons_of_pos (by simpa using hunit)]
    rfl
  have herase : (me s).records.erase r = older ++ younger := by
    rw [hrecords, List.erase_append_right _ fun hmem => holder r hmem hunit, List.erase_cons_head]
  have hslot : modMe s (fun t => { t with records := t.records.erase r }) = modMe s (withRecords (older ++ younger)) :=
    congrArg (setSlot s s.curCore s.curSlot) (congrArg (fun l => withRecords l (me s)) herase)
  rw [sinterJoin, if_neg (not_not.2 hidle), deliverRec, hfind]
  exact congrArg (fun t => some (trapHere t r.cause r.unit r.value)) hslot

/-! ### The address of a record or a summary -/

/-- The `n` bytes at an address stand in local memory, where the issuing slot's level may have a record (R165, R288, R359). -/
def Inside (s : State) (p : W64) (n : Nat) : Prop :=
  p.toNat + n ≤ 0x40000 ∧ (lvlOf (me s) = true ∨ sysOnlyRange s s.curCore p.toNat n = false)

theorem recordAllowed_iff (s : State) (k n : Nat) :
    recordAllowed s k n = true ↔ lvlOf (me s) = true ∨ sysOnlyRange s s.curCore k n = false := by
  rw [recordAllowed, Bool.or_eq_true, Bool.not_eq_true']

theorem addrGate_misaligned {s : State} {p : W64} {n : Nat} (h : p.toNat % n ≠ 0) (allowed : Bool) :
    addrGate s p n n allowed = some (trapHere s 0x03 0 p) := if_pos h

theorem addrGate_recordAllowed {s : State} {p : W64} {n : Nat} (h : p.toNat % n = 0) :
    addrGate s p n n (recordAllowed s p.toNat n) = none ∧ Inside s p n ∨
      addrGate s p n n (recordAllowed s p.toNat n) = some (trapHere s 0x05 0 p) ∧ ¬ Inside s p n := by
  have hguard : (0x40000 < p.toNat + n ∨ (!recordAllowed s p.toNat n) = true) ↔ ¬ Inside s p n := by
    rw [Inside, ← recordAllowed_iff, not_and_or, Nat.not_le, Bool.not_eq_true', Bool.not_eq_true]
  rw [addrGate, if_neg (not_not.2 h)]
  by_cases hin : Inside s p n
  · exact .inl ⟨if_neg fun hg => hguard.1 hg hin, hin⟩
  · exact .inr ⟨if_pos (hguard.2 hin), hin⟩

theorem addrGate_inside {s : State} {p : W64} {n : Nat} (h : p.toNat % n = 0) (hin : Inside s p n) :
    addrGate s p n n (recordAllowed s p.toNat n) = none :=
  (addrGate_recordAllowed h).elim And.left fun hout => absurd hin hout.2

theorem addrGate_outside {s : State} {p : W64} {n : Nat} (h : p.toNat % n = 0) (hout : ¬ Inside s p n) :
    addrGate s p n n (recordAllowed s p.toNat n) = some (trapHere s 0x05 0 p) :=
  (addrGate_recordAllowed h).elim (fun hin => absurd hin.2 hout) And.left

/-- Neither an earlier access nor a granule bars a local access that may be made now. -/
theorem granGate_of_localOk {s : State} {p : W64} {n al : Nat} {load dstore : Bool} (h : LocalOk s p n al load dstore) :
    granGate s p n = none := by
  obtain ⟨-, -, -, -, hpending, hfirst, hlast, -⟩ := h
  simp [granGate, hpending, hfirst, hlast]

/-! ### A record read at issue -/

theorem inside_of_recordOk {s : State} {p : W64} {n : Nat} (h : RecordOk s p n) : Inside s p n := by
  obtain ⟨-, hend, hlevel, -, -⟩ := h
  exact ⟨by omega, hlevel⟩

theorem shortGate_of_localOk {s : State} {p : W64} {n al : Nat} {dstore : Bool} (h : LocalOk s p n al true dstore) :
    shortGate s p n = none := by
  obtain ⟨-, -, -, -, -, -, -, hshort⟩ := h
  rw [shortGate, hshort rfl, Option.map_none, ite_self]

/-- No line on its way can make the issuing slot trap STALL_SHORT. -/
theorem shortGate_of_noShort {s : State} (h : NoShort s) (p : W64) (n : Nat) : shortGate s p n = none := by
  rcases h with hoff | hnone
  · rw [shortGate, bitOf, hoff]
    rfl
  · have hshort : aldShort s s.curCore s.curSlot p.toNat n = none := by
      rw [aldShort, show (getCore s s.curCore).chim = [] from hnone]
      rfl
    rw [shortGate, hshort, Option.map_none, ite_self]

/-- The dwords of a record that may be read hold no error. -/
theorem clean_of_recordOk {s : State} {p : W64} {n i : Nat} (hn : 8 ∣ n) (h : RecordOk s p n) (hi : i < n / 8) :
    s.curCore < 2048 ∧ p.toNat + 8 * i < 0x40000 ∧ s.localBad.find (localPa s.curCore (p.toNat + 8 * i) / 8) = none := by
  obtain ⟨halign, hend, -, ⟨hcore, -⟩, hclean⟩ := h
  have hdvd : 8 ∣ p.toNat := hn.trans (Nat.dvd_of_mod_eq_zero halign)
  have hword := hclean (p.toNat / 8 + i) (by omega) (by omega)
  rw [show 8 * (p.toNat / 8 + i) = p.toNat + 8 * i by omega] at hword
  exact ⟨hcore, by omega, hword⟩

theorem recordGate_of_recordOk {s : State} {p : W64} {n : Nat} (hn : 8 ∣ n) (h : RecordOk s p n) : recordGate s p n = none := by
  have hin := inside_of_recordOk h
  obtain ⟨halign, -, -, hlocal, -⟩ := id h
  have hgate : localGateIf s p n n true (recordAllowed s p.toNat n) = none := by
    rw [localGateIf, if_pos rfl, shortGate_of_localOk hlocal, addrGate_inside halign hin, granGate_of_localOk hlocal]
    rfl
  have hwords : (List.range (n / 8)).findSome? (fun i =>
      if wordErr s (localPa s.curCore (p.toNat + 8 * i)) = .ecc then some (p.toNat + 8 * i) else none) = none := by
    refine List.findSome?_eq_none_iff.2 fun i hi => ?_
    obtain ⟨hcore, hlt, hgood⟩ := clean_of_recordOk hn h (List.mem_range.1 hi)
    rw [wordErr_clean hcore hlt hgood]
    rfl
  rw [recordGate, hgate]
  dsimp only
  rw [hwords, Option.map_none]

/-- Reading the dwords of such a record changes nothing. -/
theorem readRecord_of_recordOk {s : State} {p : W64} {n : Nat} (h : RecordOk s p (8 * n)) :
    readRecord s p.toNat n = (recordAt s p n, s) := by
  have hnote : ∀ l : List Nat, (∀ i ∈ l, i < n) →
      l.foldl (fun s i => noteRead s (localPa s.curCore (p.toNat + 8 * i))) s = s := by
    intro l
    induction l with
    | nil => intro _; rfl
    | cons i l ih =>
      intro hl
      obtain ⟨hcore, hlt, hgood⟩ := clean_of_recordOk (i := i) ⟨n, rfl⟩ h (by have := hl i List.mem_cons_self; omega)
      rw [List.foldl_cons, noteRead_clean hcore hlt hgood]
      exact ih fun j hj => hl j (List.mem_cons_of_mem i hj)
  obtain ⟨-, -, -, hlocal, -⟩ := h
  rw [readRecord, countAldShort_ok hlocal, hnote _ fun i hi => List.mem_range.1 hi, recordAt]

end Sys2Proof.Sinters
end

section
/-! SUPPORT. `hread`, `snorm` and `slabel` (R361, R370, R371). -/
namespace Sys2Proof.Sinters
open Sys2Proof Sys2Proof.Machine Sys2Proof.Safety Sys2Proof.Scalar

/-- A binary32 in the upper half of a dword, and a number below it. -/
def word (hi : W32) (lo : Nat) : W64 := BitVec.ofNat 64 (hi.toNat * 2 ^ 32 + lo)

/-! ### The items of `hread` (Table 16-7) -/

/-- The selectors that name an item. -/
def Named (sel : Nat) : Prop := sel < 75 ∨ 128 ≤ sel ∧ sel < 192

theorem lt_of_named {sel : Nat} (h : Named sel) : sel < 256 := by unfold Named at h; omega

section
variable (t : Sinter)

theorem hreadItem_heap {sel v : Nat} {x : W32} (hsel : sel < 64) (h : t.heap[sel]? = some (x, v)) :
    hreadItem t sel = some (word x (2 ^ 31 + v)) := by
  rw [hreadItem, if_pos hsel, h, word, ← Nat.add_assoc]

theorem hreadItem_heap_empty {sel : Nat} (hsel : sel < 64) (h : t.heap.length ≤ sel) : hreadItem t sel = some 0 := by
  rw [hreadItem, if_pos hsel, List.getElem?_eq_none h]

theorem hreadItem_label {j : Nat} (hj : j < 8) : hreadItem t (64 + j) =
    let l := t.labels.toList.getD j ⟨false, 0, 0, 0, false⟩
    some (word l.logit ((if l.v then 2 ^ 31 else 0) + (if l.lv then 2 ^ 30 else 0) + l.tok)) := by
  rw [hreadItem, if_neg (by omega), if_pos (by omega), Nat.add_sub_cancel_left, vget]
  simp only [word, b2n, ite_mul, Nat.one_mul, Nat.zero_mul, Nat.add_assoc]

theorem hreadItem_mass : hreadItem t 72 = some (word t.m t.s.toNat) := rfl
theorem hreadItem_status : hreadItem t 73 = some (sinterStatus t) := rfl

theorem hreadItem_drawn : hreadItem t 74 = some (BitVec.ofNat 64 ((if t.drawnV then 2 ^ 63 else 0) + t.drawn)) := by
  cases h : t.drawnV <;> simp [hreadItem, b2n, h]

theorem hreadItem_shard {sel : Nat} {x y : W32} (hlo : 128 ≤ sel) (hhi : sel < 192) (h : t.shards[sel - 128]? = some (x, y)) :
    hreadItem t sel = some (word x y.toNat) := by
  rw [hreadItem, if_neg (by omega), if_neg (by omega), if_neg (by omega), if_neg (by omega), if_neg (by omega),
    if_pos ⟨hlo, hhi⟩, h, word]

theorem hreadItem_shard_empty {sel : Nat} (hlo : 128 ≤ sel) (hhi : sel < 192) (h : t.shards.length ≤ sel - 128) :
    hreadItem t sel = some 0 := by
  rw [hreadItem, if_neg (by omega), if_neg (by omega), if_neg (by omega), if_neg (by omega), if_neg (by omega),
    if_pos ⟨hlo, hhi⟩, List.getElem?_eq_none h]

theorem hreadItem_unnamed {sel : Nat} (h : ¬ Named sel) : hreadItem t sel = none := by
  unfold Named at h
  rw [hreadItem, if_neg (by omega), if_neg (by omega), if_neg (by omega), if_neg (by omega), if_neg (by omega),
    if_neg (by omega)]

theorem hreadItem_named {sel : Nat} (h : Named sel) : ∃ v, hreadItem t sel = some v := by
  unfold Named at h
  by_cases hheap : sel < 64
  · rcases hx : t.heap[sel]? with _ | ⟨x, v⟩
    · exact ⟨_, hreadItem_heap_empty t hheap (List.getElem?_eq_none_iff.1 hx)⟩
    · exact ⟨_, hreadItem_heap t hheap hx⟩
  by_cases hlabel : sel < 72
  · obtain ⟨j, rfl⟩ := Nat.exists_eq_add_of_le (Nat.not_lt.1 hheap)
    exact ⟨_, hreadItem_label t (by omega)⟩
  by_cases hshard : 128 ≤ sel
  · rcases hx : t.shards[sel - 128]? with _ | ⟨x, y⟩
    · exact ⟨_, hreadItem_shard_empty t hshard (by omega) (List.getElem?_eq_none_iff.1 hx)⟩
    · exact ⟨_, hreadItem_shard t hshard (by omega) hx⟩
  obtain rfl | rfl | rfl : sel = 72 ∨ sel = 73 ∨ sel = 74 := by omega
  · exact ⟨_, hreadItem_mass t⟩
  · exact ⟨_, hreadItem_status t⟩
  · exact ⟨_, hreadItem_drawn t⟩

end

/-! ### `hread` (R370) -/

section
variable {s : State} {a : BitVec 5} (w : BitVec 3) (d : BitVec 5)

theorem exec_hread_joins {t : State} (h : Named (xr s a).toNat) (hj : sinterJoin s = some t) :
    exec (.hread w a d) s = .next t := by
  obtain ⟨v, hv⟩ := hreadItem_named (myCore s).sint h
  rw [show exec (.hread w a d) s = execHread w a d s from rfl, execHread]
  simp only [if_pos (lt_of_named h), hv, hj]

theorem givesX_hread {v : W64} (h : Joined s) (hv : hreadItem (myCore s).sint (xr s a).toNat = some v) :
    GivesX (.hread w a d) s w d 2 v := by
  have hnamed : Named (xr s a).toNat := by
    by_contra hn
    rw [hreadItem_unnamed _ hn] at hv
    exact nomatch hv
  refine givesX_of ?_
  rw [show exec (.hread w a d) s = execHread w a d s from rfl, execHread]
  simp only [if_pos (lt_of_named hnamed), hv, sinterJoin_of_joined h, Option.getD_some]
  rfl

theorem traps_hread (hcan : canTrap s) (h : ¬ Named (xr s a).toNat) : Traps (.hread w a d) s 0x0F 0 (xr s a) (me s).pc := by
  refine traps_of hcan ?_
  rw [show exec (.hread w a d) s = execHread w a d s from rfl, execHread]
  simp only [hreadItem_unnamed _ h, ite_self]
  rfl

end

/-! ### `snorm` (R89, R358, R371) -/

theorem packIds_lt : ∀ l : List Nat, (∀ v ∈ l, v < 2 ^ 18) → packIds l < 2 ^ (18 * l.length)
  | [], _ => Nat.one_pos
  | v :: r, h => by
    have hv := h v List.mem_cons_self
    have hr := packIds_lt r fun x hx => h x (List.mem_cons_of_mem v hx)
    rw [packIds, List.length_cons, Nat.mul_succ, Nat.add_comm (18 * r.length), Nat.pow_add]
    have := Nat.mul_le_mul_left (2 ^ 18) (Nat.succ_le_of_lt hr)
    omega

/-- Each identifier of a pack stands in its 18 bits. -/
theorem packIds_div_mod : ∀ (l : List Nat), (∀ v ∈ l, v < 2 ^ 18) → ∀ i < l.length,
    packIds l / 2 ^ (18 * i) % 2 ^ 18 = l.getD i 0
  | [], _, i, hi => absurd hi (Nat.not_lt_zero i)
  | v :: r, h, 0, _ => by
    have hv := h v List.mem_cons_self
    rw [packIds, Nat.mul_zero, Nat.pow_zero, Nat.div_one, Nat.add_mul_mod_self_left, Nat.mod_eq_of_lt hv]
    rfl
  | v :: r, h, i + 1, hi => by
    have hv := h v List.mem_cons_self
    have hr := packIds_div_mod r (fun x hx => h x (List.mem_cons_of_mem v hx)) i (Nat.lt_of_succ_lt_succ hi)
    rw [packIds, Nat.mul_succ, Nat.add_comm (18 * i), Nat.pow_add, ← Nat.div_div_eq_div_mul,
      Nat.add_mul_div_left _ _ (Nat.two_pow_pos 18), Nat.div_eq_of_lt hv, Nat.zero_add, hr, List.getD_cons_succ]

/-- The token of a candidate, or the mark of none. -/
def leader (t : Sinter) (i : Nat) : Nat :=
  match t.heap[i]? with
  | some (_, v) => v
  | none => 0x3FFFF
/-- The tokens of the eight leading candidates. -/
def leaders (t : Sinter) : List Nat := (List.range 8).map (leader t)

theorem leader_lt {t : Sinter} (h : ∀ y ∈ t.heap, y.2 < 2 ^ 18) (i : Nat) : leader t i < 2 ^ 18 := by
  rcases hx : t.heap[i]? with _ | ⟨x, v⟩
  · simp [leader, hx]
  · simpa [leader, hx] using h _ (List.mem_of_getElem? hx)

theorem leaders_lt {t : Sinter} (h : ∀ y ∈ t.heap, y.2 < 2 ^ 18) : ∀ v ∈ leaders t, v < 2 ^ 18 := by
  intro v hv
  obtain ⟨i, -, rfl⟩ := List.mem_map.1 hv
  exact leader_lt h i

/-- The eight dwords that `snorm` stores (Table 16-8). -/
def summary (t : Sinter) : List W64 :=
  [word t.m t.s.toNat, word (fAdd t.m (fLog2 t.s)) (heapTotal t).toNat, sinterStatus t,
    BitVec.ofNat 64 (packIds (leaders t) % 2 ^ 64), BitVec.ofNat 64 (packIds (leaders t) / 2 ^ 64 % 2 ^ 64),
    BitVec.ofNat 64 (packIds (leaders t) / 2 ^ 128), 0, 0]

/-- The eight identifiers stand in dwords 3 to 5 of the summary. -/
theorem summary_ids {t : Sinter} (h : ∀ y ∈ t.heap, y.2 < 2 ^ 18) :
    ((summary t).getD 3 0).toNat + 2 ^ 64 * ((summary t).getD 4 0).toNat + 2 ^ 128 * ((summary t).getD 5 0).toNat =
      packIds (leaders t) ∧ ((summary t).getD 5 0).toNat / 2 ^ 16 = 0 := by
  have hlt : packIds (leaders t) < 2 ^ 144 := packIds_lt (leaders t) (leaders_lt h)
  show (BitVec.ofNat 64 _).toNat + 2 ^ 64 * (BitVec.ofNat 64 _).toNat + 2 ^ 128 * (BitVec.ofNat 64 _).toNat = _ ∧
    (BitVec.ofNat 64 _).toNat / 2 ^ 16 = 0
  simp only [BitVec.toNat_ofNat]
  omega

theorem summary_leader {t : Sinter} (h : ∀ y ∈ t.heap, y.2 < 2 ^ 18) {i : Nat} (hi : i < 8) :
    packIds (leaders t) / 2 ^ (18 * i) % 2 ^ 18 = leader t i := by
  have hlen : (leaders t).length = 8 := rfl
  rw [packIds_div_mod _ (leaders_lt h) i (by rwa [hlen]), leaders, List.getD_eq_getElem?_getD, List.getElem?_map,
    List.getElem?_range hi]
  rfl

section
variable {s : State} {a : BitVec 5} (w : BitVec 3)

theorem exec_snorm_joins {t : State} (hj : sinterJoin s = some t) : exec (.snorm w a) s = .next t := by
  rw [show exec (.snorm w a) s = execSnorm w a s from rfl, execSnorm]
  simp only [hj]

theorem exec_snorm_refused {t : State} (h : Joined s)
    (hg : localGateIf s (xr s a) 64 64 false (recordAllowed s (xr s a).toNat 64) = some t) : exec (.snorm w a) s = .next t := by
  rw [show exec (.snorm w a) s = execSnorm w a s from rfl, execSnorm]
  simp only [sinterJoin_of_joined h, hg]

theorem exec_snorm_stores (h : Joined s)
    (hg : localGateIf s (xr s a) 64 64 false (recordAllowed s (xr s a).toNat 64) = none) :
    exec (.snorm w a) s = .next (retire (storeDwords (xr s a).toNat (summary (myCore s).sint) s) w) := by
  have hstatus : BitVec.ofNat 64 (sinterStatus (myCore s).sint).toNat = sinterStatus (myCore s).sint := by
    rw [BitVec.ofNat_toNat, BitVec.setWidth_eq]
  rw [show exec (.snorm w a) s = execSnorm w a s from rfl, execSnorm]
  simp only [sinterJoin_of_joined h, hg, foldl_storeLocal, List.map_cons, hstatus]
  rfl

/-- The summary's address is checked once the join is made. -/
theorem traps_snorm_of_addrGate (hcan : canTrap s) (h : Joined s) {cause : Nat}
    (hg : addrGate s (xr s a) 64 64 (recordAllowed s (xr s a).toNat 64) = some (trapHere s cause 0 (xr s a))) :
    Traps (.snorm w a) s cause 0 (xr s a) (me s).pc := by
  refine traps_of hcan (exec_snorm_refused w h ?_)
  rw [localGateIf, if_neg Bool.false_ne_true, hg]
  rfl

theorem stores_snorm (h : Joined s) (hend : (xr s a).toNat + 64 ≤ 0x3FE00) (hlocal : LocalOk s (xr s a) 64 64 false false)
    (hin : Inside s (xr s a) 64) :
    Stores (.snorm w a) s w (memByte (storeDwords (xr s a).toNat (summary (myCore s).sint) s)) := by
  obtain ⟨hcore, halign, -⟩ := id hlocal
  refine stores_of_storedFrom (storedFrom_storeDwords _ hcore hend) (exec_snorm_stores w h ?_)
  rw [localGateIf, if_neg Bool.false_ne_true, addrGate_inside halign hin, granGate_of_localOk hlocal]
  rfl

end

/-! ### `slabel` (R361) -/

/-- What a label becomes: named by the operand with its bias, or cleared. -/
def labelled (v : W64) (bias : W32) (old : Label) : Label :=
  if bitOf v 8 then { lv := true, tok := bits v 32 18, bias := bias, logit := old.logit, v := false } else ⟨false, 0, 0, 0, false⟩
/-- The core with a label of its Sinter set. -/
def withLabel (v : W64) (bias : W32) (co : Core) : Core :=
  { co with sint := { co.sint with
      labels := vset co.sint.labels (bits v 0 3) (labelled v bias (vget ⟨false, 0, 0, 0, false⟩ co.sint.labels (bits v 0 3))) } }
/-- An operand of `slabel` that is refused. -/
def BadLabel (v : W64) (bias : W32) : Prop := bits v 50 14 ≠ 0 ∨ fNan bias = true ∨ bias = 0x7F800000

section
variable {s : State} {a b : BitVec 5} (w : BitVec 3)

theorem exec_slabel_joins {t : State} (hj : sinterJoin s = some t) : exec (.slabel w a b) s = .next t := by
  rw [show exec (.slabel w a b) s = execSlabel w a b s from rfl, execSlabel]
  simp only [hj]

theorem exec_slabel_sets (h : Joined s) (hgood : ¬ BadLabel (xr s a) ((xr s b).setWidth 32)) :
    exec (.slabel w a b) s = .next (retire (modMyCore s (withLabel (xr s a) ((xr s b).setWidth 32))) w) := by
  unfold BadLabel at hgood
  rw [show exec (.slabel w a b) s = execSlabel w a b s from rfl, execSlabel]
  simp only [sinterJoin_of_joined h, if_neg hgood]
  rfl

theorem traps_slabel (hcan : canTrap s) (h : Joined s) (hbad : BadLabel (xr s a) ((xr s b).setWidth 32)) :
    Traps (.slabel w a b) s 0x05 0 (xr s a) (me s).pc := by
  unfold BadLabel at hbad
  refine traps_of hcan ?_
  rw [show exec (.slabel w a b) s = execSlabel w a b s from rfl, execSlabel]
  simp only [sinterJoin_of_joined h, if_pos hbad]
  rfl

end

/-- An instruction that updates its own core and goes on engages it, with nothing due. -/
theorem engages_modMyCore {i : Instr} {s : State} {w : BitVec 3} {own : Core → Core}
    (he : exec i s = .next (retire (modMyCore s own) w)) : Engages i s w id own [] := by
  have hturn : Scalar.turn (modMyCore s own) = Scalar.turn s := rfl
  refine ⟨_, he, onward_of_turn hturn (onward_retire _ w), rfl, fun key hkey => (mineOnly_retire _ w).2 key hkey,
    FMap.get_ins_same _ _ _ _, fun c hc => FMap.find_ins_other _ _ (Ne.symm hc), fun _ hp => hp,
    fun _ hp => absurd hp List.not_mem_nil, fun n => ?_⟩
  rw [bare_retire, slotAt_of_turn hturn]
  rfl

end Sys2Proof.Sinters
end

section
/-! SUPPORT. `sdraw` (R364, R365, R367). -/
namespace Sys2Proof.Sinters
open Sys2Proof Sys2Proof.Machine Sys2Proof.Safety Sys2Proof.Scalar

/-! ### How many candidates a draw takes (R365) -/

/-- The mass that a draw with MODE 2 must reach. -/
def wanted (t : Sinter) (d3 : W64) : W32 := fMul (BitVec.ofNat 32 (bits d3 32 32)) t.s
/-- Whether the first `n` candidates reach it. -/
def reaches (t : Sinter) (d3 : W64) (n : Nat) : Bool := fGe ((heapMass t).getD n 0) (wanted t d3)

section
variable {t : Sinter} {d3 : W64}

theorem drawCount_first (h : bits d3 0 2 = 0) : drawCount t d3 = some 1 := if_pos h

theorem drawCount_top (h : bits d3 0 2 = 1) : drawCount t d3 = some (min (bits d3 24 7) t.heap.length) := by
  rw [drawCount, if_neg (by omega), if_pos h]

theorem drawCount_mass (h : bits d3 0 2 = 2) : drawCount t d3 =
    ((List.range t.heap.length).find? (fun i => reaches t d3 (i + 1))).elim
      (if t.complete then some t.heap.length else none) (fun i => some (i + 1)) := by
  have hfind : (fun i => fGe ((heapMass t).getD (i + 1) 0) (fMul (BitVec.ofNat 32 (bits d3 32 32)) t.s)) =
      fun i => reaches t d3 (i + 1) := rfl
  rw [drawCount, if_neg (by omega), if_neg (by omega), if_pos h]
  simp only [hfind]
  cases (List.range t.heap.length).find? (fun i => reaches t d3 (i + 1)) <;> rfl

theorem drawCount_mass_reached {n : Nat} (h : bits d3 0 2 = 2) (hn : n < t.heap.length)
    (hfirst : ∀ j ≤ n, reaches t d3 (j + 1) = decide (j = n)) : drawCount t d3 = some (n + 1) := by
  have hfind : (List.range t.heap.length).find? (fun i => reaches t d3 (i + 1)) = some n := by
    rw [List.find?_range_eq_some]
    refine ⟨by rw [hfirst n le_rfl, decide_eq_true rfl], List.mem_range.2 hn, fun j hj => ?_⟩
    rw [hfirst j hj.le, decide_eq_false hj.ne]
    rfl
  rw [drawCount_mass h, hfind]
  rfl

theorem drawCount_mass_unreached (h : bits d3 0 2 = 2) (hnone : ∀ n < t.heap.length, reaches t d3 (n + 1) = false) :
    drawCount t d3 = if t.complete then some t.heap.length else none := by
  have hfind : (List.range t.heap.length).find? (fun i => reaches t d3 (i + 1)) = none :=
    List.find?_eq_none.2 fun n hn => by rw [hnone n (List.mem_range.1 hn)]; exact Bool.false_ne_true
  rw [drawCount_mass h, hfind]
  rfl

theorem drawCount_all (h : bits d3 0 2 = 3) : drawCount t d3 = if t.complete then some t.heap.length else none := by
  rw [drawCount, if_neg (by omega), if_neg (by omega), if_neg (by omega)]

end

/-- The heap does not settle the draw: more candidates may be needed than it holds. -/
def Lacks (t : Sinter) (d3 : W64) : Prop :=
  bits d3 0 2 = 3 ∧ t.complete = false ∨
    bits d3 0 2 = 2 ∧ t.complete = false ∧ ∀ n, n < t.heap.length → reaches t d3 (n + 1) = false

theorem drawCount_of_lacks {t : Sinter} {d3 : W64} (h : Lacks t d3) : drawCount t d3 = none := by
  rcases h with ⟨hmode, hpart⟩ | ⟨hmode, hpart, hnone⟩
  · rw [drawCount_all hmode, hpart]
    rfl
  · rw [drawCount_mass_unreached hmode hnone, hpart]
    rfl

theorem mode_of_lacks {t : Sinter} {d3 : W64} (h : Lacks t d3) : bits d3 0 2 ≠ 0 := by
  rcases h with ⟨hmode, -⟩ | ⟨hmode, -⟩ <;> omega

/-! ### What a draw gives (R365, R367) -/

/-- Whether a record with `VERIFY` accepts a label: by its probability, against the uniform value (R365). -/
def accepts (t : Sinter) (d : List W64) (l : Label) : Bool :=
  fGt (fDiv (fExp2 (fSub l.logit t.m)) t.s) (fMul (uniform d) (BitVec.ofNat 32 (bits (d.getD 3 0) 32 32)))

section
variable {t : Sinter} {d : List W64}

theorem drawResult_empty (h : t.heap = []) : drawResult t d = .ok (BitVec.ofNat 64 (2 ^ 28 + 0x3FFFF), false) := if_pos h

theorem drawResult_verify (h : t.heap ≠ []) (hv : bitOf (d.getD 3 0) 3 = true) : drawResult t d =
    let l := vget ⟨false, 0, 0, 0, false⟩ t.labels (bits (d.getD 3 0) 18 3)
    .ok (BitVec.ofNat 64 ((if accepts t d l then 0 else 2 ^ 27) + l.tok), true) := by
  rw [drawResult, if_neg h, if_pos hv]
  rfl

variable (h : t.heap ≠ []) (hv : bitOf (d.getD 3 0) 3 = false)
include h hv

theorem drawResult_first (hmode : bits (d.getD 3 0) 0 2 = 0) :
    drawResult t d = .ok (BitVec.ofNat 64 (t.heap.getD 0 (0, 0)).2, false) := by
  simp only [drawResult, if_neg h, hv, Bool.false_eq_true, if_false, drawCount_first hmode, hmode, if_true, bne_self_eq_false]

theorem drawResult_counted {n : Nat} (hmode : bits (d.getD 3 0) 0 2 ≠ 0) (hn : drawCount t (d.getD 3 0) = some n) :
    drawResult t d = .ok (BitVec.ofNat 64 (heapDraw t (uniform d) n), true) := by
  simp only [drawResult, if_neg h, hv, Bool.false_eq_true, if_false, hn, if_neg hmode, bne_iff_ne.2 hmode]

theorem drawResult_passed (hl : Lacks t (d.getD 3 0)) (hpass : bitOf (d.getD 3 0) 2 = true) :
    drawResult t d = .ok (lap2Request t (uniform d) (bits (d.getD 3 0) 0 2 == 2), true) := by
  simp only [drawResult, if_neg h, hv, Bool.false_eq_true, if_false, drawCount_of_lacks hl, hpass, if_true]

theorem drawResult_spilled (hl : Lacks t (d.getD 3 0)) (hpass : bitOf (d.getD 3 0) 2 = false) :
    drawResult t d = .error (heapTotal t) := by
  simp only [drawResult, if_neg h, hv, Bool.false_eq_true, if_false, drawCount_of_lacks hl, hpass]

end

/-! ### The instruction -/

/-- Where `sdraw` may read its record and store the block's next number, with the Sinter joined. -/
def DrawOk (s : State) (p : W64) : Prop := RecordOk s p 32 ∧ p.toNat + 32 ≤ 0x3FE00 ∧ Joined s
/-- What `sdraw` does with the result of its draw: it traps HEAP_SPILL, or gives the value and stores the block's next number. -/
def giveDraw (s : State) (w : BitVec 3) (p : W64) (d : BitVec 5) (r : List W64) :
    Except W32 (W64 × Bool) → Host.Outcome State Fault Refusal
  | .error mass => .next (trapHere s 0x0A 0 (spillVal 1 (myCore s).sint mass))
  | .ok (v, block) => scalarResult (if block then storeLocal s (p.toNat + 8) (r.getD 1 0 + 1) else s) w d 2 v
/-- What `sdraw` does with its record read. -/
def drawFrom (s : State) (w : BitVec 3) (p : W64) (d : BitVec 5) (r : List W64) : Host.Outcome State Fault Refusal :=
  let t := (myCore s).sint
  if recordIllegal t (r.getD 3 0) then .next (trapHere s 0x05 0 p)
  else if !t.valid ∨ t.broken then .next (trapHere s 0x0A 0 (spillVal 4 t 0))
  else giveDraw s w p d r (drawResult t r)

section
variable {s : State} {a : BitVec 5} (w : BitVec 3) (d : BitVec 5)

theorem exec_sdraw_refused {t : State} (hg : addrGate s (xr s a) 32 32 (recordAllowed s (xr s a).toNat 32) = some t)
    (hshort : shortGate s (xr s a) 32 = none) : exec (.sdraw w a d) s = .next t := by
  rw [show exec (.sdraw w a d) s = execSdraw w a d s from rfl, execSdraw]
  simp only [hg, hshort, Option.getD_none]

theorem exec_sdraw_busy (halign : (xr s a).toNat % 32 = 0) (hin : Inside s (xr s a) 32) (h : (myCore s).sq ≠ []) :
    exec (.sdraw w a d) s = .next (stallMe s) := by
  rw [show exec (.sdraw w a d) s = execSdraw w a d s from rfl, execSdraw]
  simp only [addrGate_inside halign hin, if_pos h, Option.orElse_some]

theorem exec_sdraw_joins {t : State} (halign : (xr s a).toNat % 32 = 0) (hin : Inside s (xr s a) 32)
    (hidle : (myCore s).sq = []) (hshort : shortGate s (xr s a) 32 = none) (hj : sinterJoin s = some t) :
    exec (.sdraw w a d) s = .next t := by
  rw [show exec (.sdraw w a d) s = execSdraw w a d s from rfl, execSdraw]
  simp only [addrGate_inside halign hin, if_neg (not_not.2 hidle), hshort, Option.orElse_none, hj]

theorem exec_sdraw_reads (h : DrawOk s (xr s a)) :
    exec (.sdraw w a d) s = drawFrom s w (xr s a) d (recordAt s (xr s a) 4) := by
  obtain ⟨hrecord, -, hjoined⟩ := h
  have hin := inside_of_recordOk hrecord
  obtain ⟨halign, -, -, hlocal, -⟩ := id hrecord
  rw [show exec (.sdraw w a d) s = execSdraw w a d s from rfl, execSdraw]
  simp only [addrGate_inside halign hin, if_neg (not_not.2 hjoined.1), shortGate_of_localOk hlocal, Option.orElse_none,
    sinterJoin_of_joined hjoined, recordGate_of_recordOk (by decide) hrecord, readRecord_of_recordOk (n := 4) hrecord]
  rfl

/-! ### A draw that traps -/

theorem traps_sdraw_of_addrGate (hcan : canTrap s) (hshort : NoShort s) {cause : Nat}
    (hg : addrGate s (xr s a) 32 32 (recordAllowed s (xr s a).toNat 32) = some (trapHere s cause 0 (xr s a))) :
    Traps (.sdraw w a d) s cause 0 (xr s a) (me s).pc :=
  traps_of hcan (exec_sdraw_refused w d hg (shortGate_of_noShort hshort _ _))

theorem traps_sdraw_illegal (hcan : canTrap s) (h : DrawOk s (xr s a))
    (hill : recordIllegal (myCore s).sint ((recordAt s (xr s a) 4).getD 3 0) = true) :
    Traps (.sdraw w a d) s 0x05 0 (xr s a) (me s).pc := by
  refine traps_of hcan ((exec_sdraw_reads w d h).trans ?_)
  rw [drawFrom]
  exact if_pos hill

theorem traps_sdraw_unusable (hcan : canTrap s) (h : DrawOk s (xr s a))
    (hlegal : recordIllegal (myCore s).sint ((recordAt s (xr s a) 4).getD 3 0) = false)
    (hbad : (myCore s).sint.valid = false ∨ (myCore s).sint.broken = true) :
    Traps (.sdraw w a d) s 0x0A 0 (spillVal 4 (myCore s).sint 0) (me s).pc := by
  refine traps_of hcan ((exec_sdraw_reads w d h).trans ?_)
  rw [← Bool.not_eq_true'] at hbad
  rw [drawFrom]
  exact (if_neg (by rw [hlegal]; exact Bool.false_ne_true)).trans (if_pos hbad)

/-! ### A draw that is made -/

/-- The record is legal, and the Sinter holds a state that may be drawn from. -/
def Settled (s : State) (p : W64) : Prop :=
  DrawOk s p ∧ recordIllegal (myCore s).sint ((recordAt s p 4).getD 3 0) = false ∧ (myCore s).sint.valid = true ∧
    (myCore s).sint.broken = false

/-- `sdraw` gives a value and stores the next number of the block that it has taken. -/
def Draws (s : State) (w : BitVec 3) (a d : BitVec 5) (v : W64) : Prop :=
  ∃ t, exec (.sdraw w a d) s = .next t ∧ Onward s t w ∧
    { t with slots := s.slots, issued := s.issued, mem := s.mem, localBad := s.localBad } = s ∧
    (∀ n, bare (slotAt t n) = bare (if n < s.now + 2 then slotAt s n else putX (slotAt s n) d.toNat v)) ∧
    ∀ x, memByte t x = let q := localPa s.curCore ((xr s a).toNat + 8)
      if q ≤ x ∧ x < q + 8 then ((recordAt s (xr s a) 4).getD 1 0 + 1).extractLsb' (8 * (x - q)) 8 else memByte s x

theorem exec_sdraw_settled (h : Settled s (xr s a)) : exec (.sdraw w a d) s =
    giveDraw s w (xr s a) d (recordAt s (xr s a) 4) (drawResult (myCore s).sint (recordAt s (xr s a) 4)) := by
  obtain ⟨hok, hlegal, hvalid, hwhole⟩ := h
  rw [exec_sdraw_reads w d hok, drawFrom]
  simp only [hlegal, hvalid, hwhole, Bool.not_true, Bool.false_eq_true, or_self, if_false]

theorem givesX_sdraw {v : W64} (h : Settled s (xr s a))
    (hv : drawResult (myCore s).sint (recordAt s (xr s a) 4) = .ok (v, false)) : GivesX (.sdraw w a d) s w d 2 v := by
  refine givesX_of ?_
  rw [exec_sdraw_settled w d h, hv]
  rfl

theorem draws_sdraw {v : W64} (h : Settled s (xr s a))
    (hv : drawResult (myCore s).sint (recordAt s (xr s a) 4) = .ok (v, true)) : Draws s w a d v := by
  have hexec := exec_sdraw_settled w d h
  obtain ⟨⟨⟨-, -, -, ⟨hcore, -⟩, -⟩, hend, -⟩, -⟩ := h
  have hstored := storedFrom_storeLocal (a := (xr s a).toNat + 8) ((recordAt s (xr s a) 4).getD 1 0 + 1) hcore (by omega)
  have hturn := turn_of_storedFrom hstored
  have hmine := mineOnly_wx (storeLocal s ((xr s a).toNat + 8) ((recordAt s (xr s a) 4).getD 1 0 + 1)) w d 2 v
  rw [hv] at hexec
  refine ⟨_, hexec, onward_of_turn hturn (onward_wx _ w d 2 v), frame_of_storedFrom hstored hmine, fun n => ?_, fun x => ?_⟩
  · rw [← slotAt_of_turn hturn n, ← now_of_turn hturn]
    exact bare_wx _ w d 2 v n
  · exact (memByte_of_mineOnly hmine x).trans (memByte_storeLocal _ hcore (by omega) x)

theorem traps_sdraw_spill {mass : W32} (hcan : canTrap s) (h : Settled s (xr s a))
    (hv : drawResult (myCore s).sint (recordAt s (xr s a) 4) = .error mass) :
    Traps (.sdraw w a d) s 0x0A 0 (spillVal 1 (myCore s).sint mass) (me s).pc := by
  refine traps_of hcan ?_
  rw [exec_sdraw_settled w d h, hv]
  rfl

end

end Sys2Proof.Sinters
end

section
/-! SUPPORT. The Sinter read, summarised, labelled and drawn from: the statement over the lemmas on each instruction. -/
namespace Sys2Proof.Sinters
open Sys2Proof Sys2Proof.Machine Sys2Proof.Safety Sys2Proof.Scalar

/-! ### Each instruction once the Sinter is joined -/

/-- `hread` gives the item that its selector names (R370). -/
theorem hread_gives {s : State} {a : BitVec 5} (w : BitVec 3) (d : BitVec 5) (h : Joined s) :
    let p := xr s a
    let T := (myCore s).sint
    (∀ x v, p.toNat < 64 → T.heap[p.toNat]? = some (x, v) → GivesX (.hread w a d) s w d 2 (word x (2 ^ 31 + v))) ∧
    (p.toNat < 64 → T.heap.length ≤ p.toNat → GivesX (.hread w a d) s w d 2 0) ∧
    (∀ j l, j < 8 → p.toNat = 64 + j → l = T.labels.toList.getD j ⟨false, 0, 0, 0, false⟩ →
      GivesX (.hread w a d) s w d 2 (word l.logit ((if l.v then 2 ^ 31 else 0) + (if l.lv then 2 ^ 30 else 0) + l.tok))) ∧
    (p = 72 → GivesX (.hread w a d) s w d 2 (word T.m T.s.toNat)) ∧
    (p = 73 → GivesX (.hread w a d) s w d 2 (sinterStatus T)) ∧
    (p = 74 → GivesX (.hread w a d) s w d 2 (BitVec.ofNat 64 ((if T.drawnV then 2 ^ 63 else 0) + T.drawn))) ∧
    (∀ x y, 128 ≤ p.toNat → p.toNat < 192 → T.shards[p.toNat - 128]? = some (x, y) → GivesX (.hread w a d) s w d 2 (word x y.toNat)) ∧
    (128 ≤ p.toNat → p.toNat < 192 → T.shards.length ≤ p.toNat - 128 → GivesX (.hread w a d) s w d 2 0) := by
  refine ⟨fun x v hsel hx => givesX_hread w d h (hreadItem_heap _ hsel hx),
    fun hsel hlen => givesX_hread w d h (hreadItem_heap_empty _ hsel hlen), fun j l hj hsel hl => givesX_hread w d h ?label,
    fun hsel => givesX_hread w d h ?mass, fun hsel => givesX_hread w d h ?status, fun hsel => givesX_hread w d h ?drawn,
    fun x y hlo hhi hx => givesX_hread w d h (hreadItem_shard _ hlo hhi hx),
    fun hlo hhi hlen => givesX_hread w d h (hreadItem_shard_empty _ hlo hhi hlen)⟩
  case label => rw [hsel, hl]; exact hreadItem_label _ hj
  case mass => rw [hsel]; exact hreadItem_mass _
  case status => rw [hsel]; exact hreadItem_status _
  case drawn => rw [hsel]; exact hreadItem_drawn _

/-- `snorm` stores the summary of the state: the mass, the total, the status and the eight leading tokens (R371). -/
theorem snorm_stores {s : State} {a : BitVec 5} (w : BitVec 3) (h : Joined s) (hend : (xr s a).toNat + 64 ≤ 0x3FE00)
    (hlocal : LocalOk s (xr s a) 64 64 false false) (hin : Inside s (xr s a) 64) (hids : ∀ y ∈ (myCore s).sint.heap, y.2 < 2 ^ 18) :
    let p := xr s a
    let T := (myCore s).sint
    ∃ after, Stores (.snorm w a) s w after ∧
      (∀ x, x < localPa s.curCore p.toNat ∨ localPa s.curCore p.toNat + 64 ≤ x → after x = memByte s x) ∧
      ∃ ds : List W64, ds.length = 8 ∧
        (∀ j < 64, after (localPa s.curCore p.toNat + j) = (ds.getD (j / 8) 0).extractLsb' (8 * (j % 8)) 8) ∧
        ds.take 3 = [word T.m T.s.toNat, word (fAdd T.m (fLog2 T.s)) (heapTotal T).toNat, sinterStatus T] ∧ ds.drop 6 = [0, 0] ∧
        (∀ i < 8, ((ds.getD 3 0).toNat + 2 ^ 64 * (ds.getD 4 0).toNat + 2 ^ 128 * (ds.getD 5 0).toNat) / 2 ^ (18 * i) % 2 ^ 18 =
          leader T i) ∧
        (ds.getD 5 0).toNat / 2 ^ 16 = 0 := by
  have hcore := hlocal.1
  obtain ⟨hpack, hrest⟩ := summary_ids hids
  refine ⟨_, stores_snorm w h hend hlocal hin, fun x hx => memByte_storeDwords_outside _ hcore hend hx, summary _, rfl,
    fun j hj => memByte_storeDwords_inside _ hcore hend hj, rfl, rfl, fun i hi => ?_, hrest⟩
  rw [hpack]
  exact summary_leader hids hi

/-- `sdraw` gives the draw that its record asks for, from the candidates that the heap holds (R365, R367). -/
theorem sdraw_draws {s : State} {a : BitVec 5} (w : BitVec 3) (d : BitVec 5) (h : Settled s (xr s a))
    (hheap : (myCore s).sint.heap ≠ []) :
    let T := (myCore s).sint
    let r := recordAt s (xr s a) 4
    let d3 := r.getD 3 0
    let mode := bits d3 0 2
    let all := T.heap.length
    bitOf d3 3 = false →
      (mode = 0 → GivesX (.sdraw w a d) s w d 2 (BitVec.ofNat 64 (T.heap.getD 0 (0, 0)).2)) ∧
      (mode = 1 → Draws s w a d (BitVec.ofNat 64 (heapDraw T (uniform r) (min (bits d3 24 7) all)))) ∧
      (∀ n, mode = 2 → n < all → (∀ j ≤ n, reaches T d3 (j + 1) = decide (j = n)) →
        Draws s w a d (BitVec.ofNat 64 (heapDraw T (uniform r) (n + 1)))) ∧
      (mode = 2 → T.complete = true → (∀ n, n < all → reaches T d3 (n + 1) = false) →
        Draws s w a d (BitVec.ofNat 64 (heapDraw T (uniform r) all))) ∧
      (mode = 3 → T.complete = true → Draws s w a d (BitVec.ofNat 64 (heapDraw T (uniform r) all))) ∧
      (Lacks T d3 → bitOf d3 2 = true → Draws s w a d (lap2Request T (uniform r) (mode == 2))) ∧
      (canTrap s → Lacks T d3 → bitOf d3 2 = false → Traps (.sdraw w a d) s 0x0A 0 (spillVal 1 T (heapTotal T)) (me s).pc) := by
  intro T r d3 mode all hv
  have hcounted : ∀ {n : Nat}, mode ≠ 0 → drawCount T d3 = some n → Draws s w a d (BitVec.ofNat 64 (heapDraw T (uniform r) n)) :=
    fun hmode hn => draws_sdraw w d h (drawResult_counted hheap hv hmode hn)
  refine ⟨fun hmode => givesX_sdraw w d h (drawResult_first hheap hv hmode), fun hmode => hcounted (by omega) (drawCount_top hmode),
    fun n hmode hn hfirst => hcounted (by omega) (drawCount_mass_reached hmode hn hfirst),
    fun hmode hall hnone => hcounted (by omega) ?_, fun hmode hall => hcounted (by omega) ?_,
    fun hl hpass => draws_sdraw w d h (drawResult_passed hheap hv hl hpass),
    fun hcan hl hpass => traps_sdraw_spill w d hcan h (drawResult_spilled hheap hv hl hpass)⟩
  · rw [drawCount_mass_unreached hmode hnone, if_pos hall]
  · rw [drawCount_all hmode, if_pos hall]

/-! ### The join of the four -/

theorem stalls_of_busy {s : State} {a b : BitVec 5} (w : BitVec 3) (d : BitVec 5) (h : (myCore s).sq ≠ []) :
    Stalls (.slabel w a b) s ∧ Stalls (.snorm w a) s ∧ (Named (xr s a).toNat → Stalls (.hread w a d) s) ∧
      ((xr s a).toNat % 32 = 0 → Inside s (xr s a) 32 → Stalls (.sdraw w a d) s) := by
  have hj := sinterJoin_of_busy h
  exact ⟨stalls_stallMe (exec_slabel_joins w hj), stalls_stallMe (exec_snorm_joins w hj),
    fun hnamed => stalls_stallMe (exec_hread_joins w d hnamed hj),
    fun halign hin => stalls_stallMe (exec_sdraw_busy w d halign hin h)⟩

theorem delivers_oldest {s : State} {a b : BitVec 5} (w : BitVec 3) (d : BitVec 5) {older younger : List Rec} {r : Rec}
    (hcan : canTrap s) (hidle : (myCore s).sq = []) (hrecords : (me s).records = older ++ r :: younger) (hunit : r.unit = 5)
    (holder : ∀ x ∈ older, x.unit ≠ 5) :
    Delivers (.slabel w a b) s r (older ++ younger) ∧ Delivers (.snorm w a) s r (older ++ younger) ∧
      (Named (xr s a).toNat → Delivers (.hread w a d) s r (older ++ younger)) ∧
      (NoShort s → (xr s a).toNat % 32 = 0 → Inside s (xr s a) 32 → Delivers (.sdraw w a d) s r (older ++ younger)) := by
  have hj := sinterJoin_of_record hidle hrecords hunit holder
  exact ⟨delivers_trapHere hcan (exec_slabel_joins w hj), delivers_trapHere hcan (exec_snorm_joins w hj),
    fun hnamed => delivers_trapHere hcan (exec_hread_joins w d hnamed hj),
    fun hshort halign hin => delivers_trapHere hcan
      (exec_sdraw_joins w d halign hin hidle (shortGate_of_noShort hshort _ _) hj)⟩

/-- Settles O45: each of the four instructions joins the Sinter; then `hread` gives the item of its selector, `snorm` stores
the summary, `slabel` sets a label, and `sdraw` gives what `drawResult` finds in the state. -/
theorem sinterReading : Obligations.SinterReading := by
  intro s w a b d p T t0 ready word rec4 d3 mode inside named bias bad drawOk draws settled
  refine ⟨hread_gives w d, traps_hread w d, fun h hend hlocal hin hids => snorm_stores w h hend hlocal hin hids,
    fun hcan h halign => traps_snorm_of_addrGate w hcan h (addrGate_misaligned halign _),
    fun hcan h halign hout => traps_snorm_of_addrGate w hcan h (addrGate_outside halign hout),
    fun h hgood => engages_modMyCore (exec_slabel_sets w h hgood), traps_slabel w,
    fun ⟨hok, hlegal, hvalid, hwhole⟩ => ?draws,
    fun hcan hshort => ⟨fun halign => traps_sdraw_of_addrGate w d hcan hshort (addrGate_misaligned halign _),
      fun halign hout => traps_sdraw_of_addrGate w d hcan hshort (addrGate_outside halign hout)⟩,
    traps_sdraw_illegal w d, traps_sdraw_unusable w d, stalls_of_busy w d,
    fun older r younger hcan hidle hrecords hunit holder => delivers_oldest w d hcan hidle hrecords hunit holder⟩
  case draws =>
    have h : Settled s p := ⟨hok, hlegal, hvalid, hwhole⟩
    refine ⟨fun hempty => givesX_sdraw w d h (drawResult_empty hempty), fun x r hheap => ?_⟩
    have hne : T.heap ≠ [] := by rw [hheap]; exact List.cons_ne_nil x r
    refine ⟨fun hv => ?_, fun hv => draws_sdraw w d h (drawResult_verify hne hv)⟩
    have hfirst : T.heap.getD 0 (0, 0) = x := by rw [hheap]; rfl
    have hdraws := sdraw_draws w d h hne hv
    rw [hfirst] at hdraws
    exact hdraws

end Sys2Proof.Sinters
end
